-- ==== Sys2Proof/Word.lean ====
section
/-!
DEFINITION. Words of the machine: the plain word types, and the plainest arithmetic on them (00 R13, R14).
-/
namespace Sys2Proof

/-- One byte (00 R13). -/
abbrev Byte := BitVec 8
/-- A 32-bit register word (02 R53). -/
abbrev Word := BitVec 32
/-- A 64-bit value, an even/odd register pair (01 R23). -/
abbrev DWord := BitVec 64

end Sys2Proof
end

