-- ==== Sys2Proof/Machine/Store.lean ====
section
/-!
DEFINITION. Sparse tables as plain data: lists of key and value pairs with keys strictly rising. A store of words leaves
out every entry that equals zero, so equal stores are equal lists.
-/
namespace Sys2Proof.Machine

/-- A table keyed by naturals: keys strictly rising, each at most once. -/
abbrev Tab (β : Type) := List (Nat × β)

/-- A sparse store of w-bit words; an unlisted key reads as zero. -/
abbrev Store (w : Nat) := List (Nat × BitVec w)

/-- Memory: address and byte pairs (Host.Cell). -/
abbrev Memory := List Host.Cell

/-- The entry of a key. -/
def Tab.get? {β : Type} (m : Tab β) (a : Nat) : Option β :=
  match m with
  | [] => none
  | (k, v) :: t => if k = a then some v else Tab.get? t a

/-- The table without a key. -/
def Tab.erase {β : Type} (m : Tab β) (a : Nat) : Tab β := m.filter fun p => p.1 ≠ a

/-- An entry put before the first larger key. -/
def Tab.insert {β : Type} (m : Tab β) (a : Nat) (x : β) : Tab β :=
  match m with
  | [] => [(a, x)]
  | (k, v) :: t => if a < k then (a, x) :: (k, v) :: t else (k, v) :: Tab.insert t a x

/-- The table with one entry set. -/
def Tab.set {β : Type} (m : Tab β) (a : Nat) (x : β) : Tab β := (m.erase a).insert a x

/-- The entry of a key changed by f, where there is one. -/
def Tab.modify {β : Type} (m : Tab β) (a : Nat) (f : β → β) : Tab β := m.map fun p => if p.1 = a then (p.1, f p.2) else p

/-- Keys strictly rise. -/
def Tab.sorted {β : Type} (m : Tab β) : Bool :=
  match m with
  | [] => true
  | [_] => true
  | (a, _) :: (b, y) :: t => a < b && Tab.sorted ((b, y) :: t)

/-- The word of a key; zero where none is listed. -/
def Store.get {w : Nat} (m : Store w) (a : Nat) : BitVec w := (Tab.get? m a).getD 0

/-- The store with one word set; a zero word is not listed. -/
def Store.set {w : Nat} (m : Store w) (a : Nat) (x : BitVec w) : Store w :=
  if x = 0 then Tab.erase m a else Tab.set m a x

/-- The canonical form: keys strictly rising and no zero listed. -/
def Store.wf {w : Nat} (m : Store w) : Bool := Tab.sorted m && m.all fun p => p.2 ≠ 0

/-- One byte of memory: an unlisted byte reads 0 (25 R494 step 7 for stacks; assumption 5 for host memory). -/
def Memory.read (m : Memory) (a : Nat) : Byte := Store.get m a

/-- One byte written. -/
def Memory.write (m : Memory) (a : Nat) (x : Byte) : Memory := Store.set m a x

/-- The canonical form of a memory. -/
def Memory.wf (m : Memory) : Bool := Store.wf m

/-- Bytes written in list order, so a later one of an address stays. -/
def Memory.writeAll (m : Memory) (bs : List (Nat × Byte)) : Memory := bs.foldl (fun m p => m.write p.1 p.2) m

/-- n bytes from a, little-endian (00 R13), as a natural number. -/
def Memory.readNat (m : Memory) (a n : Nat) : Nat :=
  match n with
  | 0 => 0
  | n + 1 => (m.read a).toNat + 256 * Memory.readNat m (a + 1) n

/-- The bytes of a value, little-endian, at addresses from a. -/
def cellsOf (a n v : Nat) : List (Nat × Byte) :=
  match n with
  | 0 => []
  | n + 1 => (a, BitVec.ofNat 8 v) :: cellsOf (a + 1) n (v / 256)

/-- n bytes written from a, little-endian. -/
def Memory.writeNat (m : Memory) (a n v : Nat) : Memory := m.writeAll (cellsOf a n v)

/-- The lanes of a mask, ascending. -/
def lanesOf (m : Word) : List Nat := (List.range 32).filter fun i => m.getLsbD i

/-- The mask of a list of lanes. -/
def maskOf (ls : List Nat) : Word := ls.foldl (fun m i => m ||| (1#32 <<< i)) 0

/-- A list with one element put in place of the one at an index. -/
def listSet {β : Type} (l : List β) (n : Nat) (x : β) : List β := l.set n x

/-- A set of naturals as a rising list: one put in. -/
def setAdd (l : List Nat) (a : Nat) : List Nat :=
  match l with
  | [] => [a]
  | x :: t => if a < x then a :: x :: t else if a = x then x :: t else x :: setAdd t a

/-- A set of naturals: several put in. -/
def setAddAll (l : List Nat) (as : List Nat) : List Nat := as.foldl setAdd l

/-- A set of naturals: some taken out. -/
def setDel (l : List Nat) (as : List Nat) : List Nat := l.filter fun x => !as.contains x

end Sys2Proof.Machine
end

