-- ==== Sys2Proof/Machine/Numbers.lean ====
section
/-!
DEFINITION. Number formats and exact arithmetic (01). An exact value is a NaN, an infinity or a signed dyadic number
m * 2^e; an irrational or non-dyadic exact result is given to more bits than any format holds, its last bit set (a sticky
bit), which rounds as the exact result does.
-/
namespace Sys2Proof.Machine

/-- The floating-point formats (R25). -/
inductive Fmt where
  | f64 | f32 | f16 | bf16 | e4m3 | e5m2 | e2m1
deriving DecidableEq, Repr

/-- The format of a type code (R63). -/
def fmtOf (t : Nat) : Fmt :=
  if t = 7 then .f64 else if t = 5 then .f16 else if t = 6 then .bf16 else if t = 8 then .e4m3
  else if t = 9 then .e5m2 else if t = 10 then .e2m1 else .f32

/-- Width of an encoding. -/
def Fmt.width (f : Fmt) : Nat :=
  match f with
  | .f64 => 64 | .f32 => 32 | .f16 => 16 | .bf16 => 16 | .e4m3 => 8 | .e5m2 => 8 | .e2m1 => 4

/-- Significand width, the hidden bit included. -/
def Fmt.prec (f : Fmt) : Nat :=
  match f with
  | .f64 => 53 | .f32 => 24 | .f16 => 11 | .bf16 => 8 | .e4m3 => 4 | .e5m2 => 3 | .e2m1 => 2

/-- Exponent of the smallest normal value. -/
def Fmt.emin (f : Fmt) : Int :=
  match f with
  | .f64 => -1022 | .f32 => -126 | .f16 => -14 | .bf16 => -126 | .e4m3 => -6 | .e5m2 => -14 | .e2m1 => 0

/-- The largest finite value as significand and exponent. -/
def Fmt.maxFinite (f : Fmt) : Nat × Int :=
  match f with
  | .f64 => (2 ^ 53 - 1, 971) | .f32 => (2 ^ 24 - 1, 104) | .f16 => (2 ^ 11 - 1, 5) | .bf16 => (2 ^ 8 - 1, 120)
  | .e4m3 => (14, 5) | .e5m2 => (7, 13) | .e2m1 => (3, 1)

/-- The encoding of the largest finite magnitude. -/
def Fmt.maxEnc (f : Fmt) : Nat :=
  match f with
  | .f64 => 0x7FEFFFFFFFFFFFFF | .f32 => 0x7F7FFFFF | .f16 => 0x7BFF | .bf16 => 0x7F7F
  | .e4m3 => 0x7E | .e5m2 => 0x7B | .e2m1 => 0x7

/-- The encoding of +infinity (e4m3 and e2m1 have none). -/
def Fmt.infEnc (f : Fmt) : Nat :=
  match f with
  | .f64 => 0x7FF0000000000000 | .f32 => 0x7F800000 | .f16 => 0x7C00 | .bf16 => 0x7F80
  | .e4m3 => 0x7F | .e5m2 => 0x7C | .e2m1 => 0x7

/-- The canonical NaN (R25, R32); e2m1 has none, and round gives +0. -/
def Fmt.nanEnc (f : Fmt) : Nat :=
  match f with
  | .f64 => 0x7FF8000000000000 | .f32 => 0x7FC00000 | .f16 => 0x7E00 | .bf16 => 0x7FC0
  | .e4m3 => 0x7F | .e5m2 => 0x7E | .e2m1 => 0

/-- FTZ acts on the format (R29). -/
def Fmt.flushes (f : Fmt) : Bool :=
  match f with
  | .f64 | .f32 | .f16 | .bf16 => true
  | _ => false

/-- An exact value. -/
inductive Num where
  | nan (signalling : Bool)
  | inf (neg : Bool)
  | fin (neg : Bool) (m : Nat) (e : Int)
deriving DecidableEq, Repr

/-- The value an encoding stands for (R25, R26). -/
def Fmt.value (f : Fmt) (bits : Nat) : Num :=
  let b := bits % 2 ^ f.width
  let neg := 2 ^ (f.width - 1) ≤ b
  let r := b % 2 ^ (f.width - 1)
  let fb := f.prec - 1
  let ex := r / 2 ^ fb
  let fr := r % 2 ^ fb
  let special : Bool := match f with
    | .e4m3 => r = 0x7F
    | .e2m1 => false
    | _ => decide (f.infEnc ≤ r)
  if special then
    match f with
    | .e4m3 => .nan false
    | .e5m2 => if fr = 0 then .inf neg else .nan false
    | _ => if fr = 0 then .inf neg else .nan (fr < 2 ^ (fb - 1))
  else if ex = 0 then .fin neg fr (f.emin - fb)
  else .fin neg (2 ^ fb + fr) (f.emin - fb + (ex - 1))

/-- Flags raised, as FPSTAT's bits (R44): NV, DZ, OF, UF, NX from bit 0. -/
abbrev FpFlags := BitVec 5
/-- Invalid. -/
def flagNV : FpFlags := 1
/-- Divide by zero. -/
def flagDZ : FpFlags := 2
/-- Overflow. -/
def flagOF : FpFlags := 4
/-- Underflow. -/
def flagUF : FpFlags := 8
/-- Inexact. -/
def flagNX : FpFlags := 16

/-- An encoding with its sign. -/
def Fmt.signed (f : Fmt) (neg : Bool) (mag : Nat) : Nat := if neg then 2 ^ (f.width - 1) + mag else mag

/-- Bits of a natural number. -/
def bitLen (m : Nat) : Nat := if m = 0 then 0 else m.log2 + 1

/-- A significand m * 2^e rounded to a multiple of 2^q under a mode (0 rne, 1 rtz, 2 rup, 3 rdn); whether it changed. -/
def quantise (neg : Bool) (m : Nat) (e q : Int) (mode : Nat) : Nat × Bool :=
  if q ≤ e then (m <<< (e - q).toNat, false)
  else
    let s := (q - e).toNat
    let n := m >>> s
    let rest := m - (n <<< s)
    let half := 1 <<< (s - 1)
    let up :=
      if rest = 0 then false
      else if mode = 0 then rest > half || (rest = half && n % 2 = 1)
      else if mode = 1 then false
      else if mode = 2 then !neg
      else neg
    (if up then n + 1 else n, rest ≠ 0)

/-- ieee_overflow of R30. -/
def Fmt.overflow (f : Fmt) (mode : Nat) (neg : Bool) : Nat :=
  if mode = 0 ∨ (mode = 2 ∧ !neg) ∨ (mode = 3 ∧ neg) then f.signed neg f.infEnc else f.signed neg f.maxEnc

/-- n * 2^q exceeds the format's largest finite value. -/
def Fmt.exceeds (f : Fmt) (n : Nat) (q : Int) : Bool :=
  let mx := f.maxFinite
  if mx.2 ≤ q then mx.1 < n <<< (q - mx.2).toNat else mx.1 <<< (mx.2 - q).toNat < n

/-- round of R30: the encoding and the flags. -/
def roundTo (f : Fmt) (x : Num) (mode : Nat) (ftz satf : Bool) : Nat × FpFlags :=
  match x with
  | .nan _ => if f = .e2m1 then (0, flagNV) else (f.nanEnc, 0)
  | .inf neg =>
    if f = .e2m1 then (f.signed neg f.maxEnc, flagNV)
    else if satf then (f.signed neg f.maxEnc, 0)
    else if f = .e4m3 then (f.nanEnc, flagNV)
    else (f.signed neg f.infEnc, 0)
  | .fin neg m e =>
    if m = 0 then (f.signed neg 0, 0)
    else
      let top := e + (bitLen m : Int) - 1
      let tiny := top < f.emin
      if ftz && tiny && f.flushes then (f.signed neg 0, flagUF ||| flagNX)
      else
        let qmin := f.emin - (f.prec - 1 : Nat)
        let q := if tiny then qmin else top - (f.prec - 1 : Nat)
        let (n, changed) := quantise neg m e q mode
        let fl : FpFlags := if changed then (if tiny then flagNX ||| flagUF else flagNX) else 0
        if f.exceeds n q then
          let fl := fl ||| flagOF ||| flagNX
          if satf || f = .e2m1 then (f.signed neg f.maxEnc, fl)
          else if f = .e4m3 then (f.nanEnc, fl)
          else (f.overflow mode neg, fl)
        else if n = 0 then (f.signed neg 0, fl)
        else (f.signed neg ((q - qmin).toNat * 2 ^ (f.prec - 1) + n), fl)

/-- A value is a subnormal of the format. -/
def Num.subnormal (f : Fmt) (x : Num) : Bool :=
  match x with
  | .fin _ m e => m ≠ 0 && e + (bitLen m : Int) - 1 < f.emin
  | _ => false

/-- FTZ on an operand (R29). -/
def Num.flush (f : Fmt) (ftz : Bool) (x : Num) : Num :=
  match x with
  | .fin neg _ _ => if ftz && x.subnormal f then .fin neg 0 0 else x
  | x => x

/-- NaN. -/
def Num.isNan (x : Num) : Bool := match x with | .nan _ => true | _ => false
/-- Signalling NaN. -/
def Num.isSig (x : Num) : Bool := match x with | .nan b => b | _ => false
/-- Infinity of either sign. -/
def Num.isInf (x : Num) : Bool := match x with | .inf _ => true | _ => false
/-- Zero of either sign. -/
def Num.isZero (x : Num) : Bool := match x with | .fin _ 0 _ => true | _ => false
/-- Sign. -/
def Num.neg (x : Num) : Bool := match x with | .nan _ => false | .inf n => n | .fin n _ _ => n
/-- Negation of an exact value. -/
def Num.negate (x : Num) : Num :=
  match x with | .nan b => .nan b | .inf n => .inf (!n) | .fin n m e => .fin (!n) m e
/-- The value's sign cleared. -/
def Num.abs (x : Num) : Num := match x with | .nan b => .nan b | .inf _ => .inf false | .fin _ m e => .fin false m e

/-- 0 times infinity. -/
def Num.zeroInf (x y : Num) : Bool := (x.isZero && y.isInf) || (x.isInf && y.isZero)

/-- The exact product (R31); 0 times infinity is a NaN. -/
def Num.mul (x y : Num) : Num :=
  match x, y with
  | .nan _, _ => .nan false
  | _, .nan _ => .nan false
  | .inf a, y => if y.isZero then .nan false else .inf (a != y.neg)
  | x, .inf b => if x.isZero then .nan false else .inf (x.neg != b)
  | .fin a m e, .fin b n d => .fin (a != b) (m * n) (e + d)

/-- An integer scaled by a power of two, as a value; a zero takes the sign given. -/
def Num.ofInt (i : Int) (e : Int) (zneg : Bool) : Num :=
  if i = 0 then .fin zneg 0 0 else .fin (i < 0) i.natAbs e

/-- A finite value as an integer multiple of 2^q, q at most its exponent; other values 0. -/
def Num.scaled (x : Num) (q : Int) : Int :=
  match x with
  | .fin neg m e => let k : Int := (m <<< (e - q).toNat : Nat); if neg then -k else k
  | _ => 0

/-- The least exponent of a list's non-zero finite values, no higher than d. -/
def minExp (xs : List Num) (d : Int) : Int :=
  xs.foldl (fun q x => match x with | .fin _ m e => if m ≠ 0 ∧ e < q then e else q | _ => q) d

/-- The exact sum (R31, R42): NaN for a NaN term or infinities of both signs; an exact zero sum is of the terms' sign where
all are zeros of one sign, else +0, or -0 under rdn. R31 gives that for non-zero terms that cancel; that zeros of unlike sign follow it
is PRESUMED from IEEE 754, whose rounding modes R28 takes (assumption 109). -/
def sumAll (mode : Nat) (xs : List Num) : Num :=
  if xs.any Num.isNan then .nan false
  else if xs.any Num.isInf then
    let p := xs.any fun x => x.isInf && !x.neg
    let n := xs.any fun x => x.isInf && x.neg
    if p && n then .nan false else .inf n
  else
    let q := minExp xs 4096
    let s := (xs.map fun x => if x.isZero then (0 : Int) else x.scaled q).foldl (· + ·) 0
    let zneg :=
      if xs.all fun x => x.isZero && x.neg then true
      else if xs.all fun x => x.isZero && !x.neg then false
      else mode = 3
    Num.ofInt s q zneg

/-- Infinities of both signs among the terms. -/
def bothInf (xs : List Num) : Bool :=
  (xs.any fun x => x.isInf && !x.neg) && (xs.any fun x => x.isInf && x.neg)

/-- Comparison of two values that are no NaNs: less, with -0 = +0. -/
def Num.lt (x y : Num) : Bool :=
  match x, y with
  | .inf a, .inf b => a && !b
  | .inf a, _ => a
  | _, .inf b => !b
  | x, y => let q := minExp [x, y] 4096; (if x.isZero then 0 else x.scaled q) < (if y.isZero then 0 else y.scaled q)

/-- Equality of two values that are no NaNs, with -0 = +0. -/
def Num.eqv (x y : Num) : Bool := !x.lt y && !y.lt x

/-- The integral value a mode selects, keeping the sign of a zero (R121), and whether the value changed. -/
def Num.integral (x : Num) (mode : Nat) : Num × Bool :=
  match x with
  | .fin neg m e =>
    if 0 ≤ e then (x, false)
    else let (n, ch) := quantise neg m e 0 mode; (.fin neg n 0, ch)
  | x => (x, false)

/-- A conversion to an integer type of w bits (R36). -/
def toIntType (x : Num) (signed : Bool) (w mode : Nat) : Int × FpFlags :=
  let lo : Int := if signed then -(2 ^ (w - 1) : Nat) else 0
  let hi : Int := if signed then (2 ^ (w - 1) : Nat) - 1 else (2 ^ w : Nat) - 1
  match x with
  | .nan _ => (0, flagNV)
  | .inf neg => (if neg then lo else hi, flagNV)
  | .fin neg m e =>
    -- a magnitude at or above 2^65 lies outside every type
    if 66 ≤ e + (bitLen m : Int) ∧ m ≠ 0 then (if neg then lo else hi, flagNV)
    else
      let (n, ch) := quantise neg m e 0 mode
      let v : Int := if neg then -(n : Int) else n
      if v < lo then (lo, flagNV) else if hi < v then (hi, flagNV) else (v, if ch then flagNX else 0)

/-! ### Correctly rounded functions (R39, R40) -/

/-- Integer square root, bit by bit from 2^k. -/
def isqrtFrom (x k r : Nat) : Nat :=
  match k with
  | 0 => r
  | k + 1 => let r' := r + 2 ^ k; isqrtFrom x k (if r' * r' ≤ x then r' else r)

/-- The integer square root of a number below 2^(2k). -/
def isqrt (x k : Nat) : Nat := isqrtFrom x k 0

/-- A magnitude with its sticky bit: q * 2^e when exact, else a value just above it. -/
def sticky (neg : Bool) (q : Nat) (e : Int) (exact : Bool) : Num :=
  if exact then .fin neg q e else .fin neg (2 * q + 1) (e - 1)

/-- 1 / x, x finite and not zero. -/
def recip (neg : Bool) (m : Nat) (e : Int) : Num :=
  let k := 64 + bitLen m
  sticky neg (2 ^ k / m) (-(k : Int) - e) (2 ^ k % m = 0)

/-- The square root of m * 2^e, m not zero. -/
def root (m : Nat) (e : Int) : Num :=
  let (m, e) := if e % 2 = 0 then (m, e) else (2 * m, e - 1)
  let x := m * 2 ^ 128
  let q := isqrt x ((bitLen x + 1) / 2)
  sticky false q (e / 2 - 64) (q * q = x)

/-- 1 / the square root of m * 2^e, m not zero. -/
def rroot (m : Nat) (e : Int) : Num :=
  let (m, e) := if e % 2 = 0 then (m, e) else (2 * m, e - 1)
  let k := 64 + bitLen m
  let x := 2 ^ (2 * k) / m
  let q := isqrt x ((bitLen x + 1) / 2)
  sticky false q (-(k : Int) - e / 2) (q * q * m = 2 ^ (2 * k))

/-- 2 pi * 2^256, rounded down. -/
def twoPi : Nat := 727543153783532648560469885555459725306786754656784859917544302235877788932370
/-- ln 2 * 2^256, rounded down. -/
def lnTwo : Nat := 80260960185991308862233904206310070533990667611589946606122867505419956976171

/-- The sum of y^k / k! from term t = y^k / k! on, n terms (256 fractional bits). -/
def expSeries (y : Nat) (t k n : Nat) : Nat :=
  match n with
  | 0 => 0
  | n + 1 => t + expSeries y ((t * y / (k + 1)) >>> 256) (k + 1) n

/-- 2^f for f = fx / 2^256 below 1, with 256 fractional bits. -/
def exp2Frac (fx : Nat) : Nat := expSeries ((fx * lnTwo) >>> 256) (2 ^ 256) 0 70

/-- A finite value as a multiple of 2^-256, rounded down. -/
def fixedOf (neg : Bool) (m : Nat) (e : Int) : Int :=
  let k := e + 256
  if 0 ≤ k then (let v : Int := (m <<< k.toNat : Nat); if neg then -v else v)
  else
    let s := (-k).toNat
    let q := m >>> s
    if neg then -((if q <<< s = m then q else q + 1 : Nat) : Int) else q

/-- 2^x, x finite and not zero. -/
def exp2Num (neg : Bool) (m : Nat) (e : Int) : Num :=
  if 20 < e + (bitLen m : Int) then (if neg then .fin false 1 (-1000000) else .fin false 1 1000000)
  else if e + (bitLen m : Int) < -60 then
    -- 2^x is 1 with a difference below any half unit in the last place
    .fin false (if neg then 2 ^ 64 - 1 else 2 ^ 64 + 1) (-64)
  else
    let y := fixedOf neg m e
    let n := y / 2 ^ 256
    let f := (y % 2 ^ 256).toNat
    if f = 0 then .fin false 1 n else sticky false (exp2Frac f) (n - 256) false

/-- The sum of t^(2j) / (2j+1), n terms from term p = t^(2j) (256 fractional bits). -/
def atanhSeries (z p j n : Nat) : Nat :=
  match n with
  | 0 => 0
  | n + 1 => p / (2 * j + 1) + atanhSeries z ((p * z) >>> 256) (j + 1) n

/-- log2 of m * 2^e, m not zero. -/
def log2Num (m : Nat) (e : Int) : Num :=
  let l := m.log2
  if m = 2 ^ l then Num.ofInt (e + l) 0 false
  else
    -- m * 2^e = 2^k * num / 2^s with num / 2^s between 3/4 and 3/2
    let high := 2 * m > 3 * 2 ^ l
    let k : Int := if high then e + l + 1 else e + l
    let s := if high then l + 1 else l
    let below := m < 2 ^ s
    let num := if below then 2 ^ s - m else m - 2 ^ s
    let den := m + 2 ^ s
    let t := (num <<< 256) / den
    let z := (t * t) >>> 256
    let ser := atanhSeries z (2 ^ 256) 0 90
    -- magnitude of log2 of the fraction, with 256 fractional bits more than needed below it
    let r := ((2 * num * ser) <<< 512) / (den * lnTwo)
    let v : Int := k * (2 ^ 512 : Nat) + (if below then -(r : Int) else r)
    sticky (v < 0) v.natAbs (-512) false

/-- The alternating sum of z^k / (2k+1)!, even terms less odd terms, n pairs (256 fractional bits). -/
def sinSeries (z t k n : Nat) : Nat :=
  match n with
  | 0 => 0
  | n + 1 =>
    let u := ((t * z) >>> 256) / ((2 * k + 2) * (2 * k + 3))
    let t2 := ((u * z) >>> 256) / ((2 * k + 4) * (2 * k + 5))
    (t - u) + sinSeries z t2 (k + 2) n

/-- sin of 2 pi t for t = m * 2^e, above 0 and at most 1/4. -/
def sinQuarter (neg : Bool) (m : Nat) (e : Int) : Num :=
  if m = 2 ^ m.log2 ∧ e + (m.log2 : Int) = -2 then .fin neg 1 0
  else
    let t := (fixedOf false m e).toNat
    let th := (twoPi * t) >>> 256
    let z := (th * th) >>> 256
    sticky neg (m * twoPi * sinSeries z (2 ^ 256) 0 40) (e - 512) false

/-- A value modulo 1 as a numerator over 2^s. -/
def modOne (neg : Bool) (m s : Nat) : Nat := let r := m % 2 ^ s; if neg ∧ r ≠ 0 then 2 ^ s - r else r

/-- sin of 2 pi r / 2^s for 0 < r < 2^s (s at least 2), r no multiple of 2^(s-1). -/
def sinTurn (r s : Nat) : Num :=
  let half := 2 ^ (s - 1)
  let quarter := 2 ^ (s - 2)
  let neg := half ≤ r
  let r := if neg then r - half else r
  let r := if quarter < r then half - r else r
  sinQuarter neg r (-(s : Int))

/-- FSIN of a finite value (R40). -/
def sinNum (neg : Bool) (m : Nat) (e : Int) : Num :=
  if 0 ≤ e + 1 ∨ m = 0 then .fin neg 0 0
  else
    let s := (-e).toNat
    let r := modOne neg m s
    if r % 2 ^ (s - 1) = 0 then .fin neg 0 0 else sinTurn r s

/-- FCOS of a finite value (R40). -/
def cosNum (neg : Bool) (m : Nat) (e : Int) : Num :=
  -- cos(2 pi x) = sin(2 pi (x + 1/4))
  let s := if e ≤ -2 then (-e).toNat else 2
  let n := if e ≤ -2 then m else m <<< (e + 2).toNat
  let r := (modOne neg n s + 2 ^ (s - 2)) % 2 ^ s
  if r % 2 ^ (s - 1) = 0 then .fin false 0 0 else sinTurn r s

/-- tanh of a finite value that is not zero. -/
def tanhNum (neg : Bool) (m : Nat) (e : Int) : Num :=
  let top := e + (bitLen m : Int)
  if 8 < top then .fin neg (2 ^ 64 - 1) (-64)
  else if top < -30 then .fin neg (m * 2 ^ 64 - 1) (e - 64)
  else
    -- w = e^(2|x|) = 2^(2|x| / ln 2), with 256 fractional bits
    let y := (2 * (fixedOf false m e).toNat * 2 ^ 256) / lnTwo
    let w := exp2Frac (y % 2 ^ 256) <<< (y / 2 ^ 256)
    sticky neg (((w - 2 ^ 256) <<< 256) / (w + 2 ^ 256)) (-256) false

/-- The scale code of R38 over exact values, for the element's largest exponent. -/
def scaleCode (xs : List Num) (emaxElem : Int) : Nat :=
  if xs.any fun x => x.isNan || x.isInf then 0xFF
  else
    let mags := xs.filterMap fun x => match x with | .fin _ m e => if m = 0 then none else some (e + (bitLen m : Int) - 1) | _ => none
    match mags with
    | [] => 0x7F
    | x :: t =>
      let top := t.foldl max x
      let v := top - emaxElem
      ((max (-127) (min 127 v)) + 127).toNat

end Sys2Proof.Machine
end

