-- ==== Sys2Proof/Config.lean ====
section
/-!
DEFINITION. What one part fixes (counts of units, 00 R3, R7) and the free values: opaque constants without a body, for
what the spec leaves open or leaves to the world outside the part.
-/
namespace Sys2Proof.Config

/-- Cores of the part (00 R3). -/
abbrev cores : Nat := 24
/-- Issue partitions of a core (00 R3). -/
abbrev partitions : Nat := 16
/-- Warp slots of a partition (00 R7). -/
abbrev slotsPerPartition : Nat := 32
/-- Register-layer slices of a partition (03 R78). -/
abbrev slices : Nat := 2048
/-- Memory bytes of one stack (19 R413). -/
abbrev stackBytes : Nat := 16000000000

/-- Nanoseconds that pass in one step of the model, at the count of steps taken: the spec gives no such amount
(assumption 3). -/
opaque stepTime : Nat → Nat
/-- The ATS translation the host answers for a virtual page number, in PTE layout (19 R420): the host's own
(assumption 4). -/
opaque atsAnswer : Nat → Nat → BitVec 64
/-- Bytes of peer memory the peer answers with, by address and by count of reads (22 R480; assumption 4). -/
opaque peerByte : Nat → Nat → BitVec 8
/-- The sRGB code of a value outside [0, 1] or no number, for which the spec and IEC 61966-2-1 state none (13 R293; assumption 9). -/
opaque srgbOutside : BitVec 32 → BitVec 8
/-- The 64-bit words of a line, by bit, in which an uncorrectable error is found that the part meets, by line and count (26 R500; assumption
124). -/
opaque errWords : Nat → Nat → BitVec 16
/-- Which of the places an engine's operation reads holds the uncorrectable error it meets (12 R279; assumption 4). -/
opaque errorPlace : Nat → Nat
/-- The texture coordinates of a cube lookup along the zero direction, for which R306 gives no face coordinates (13 R306; assumption
24). -/
opaque freeCoord : Nat → BitVec 32
/-- The tile size of a RASTER pass that names no output, as a power above 16: the pass record holds none (13 R294; assumption 23). -/
opaque looseTile : Nat
/-- Whether a ray meets a triangle with a vertex that is no finite number, where, and which side: t, u, v as f32 and front (13 R313;
assumption 25). -/
opaque looseTriangle : List (BitVec 32) → Option (BitVec 32 × BitVec 32 × BitVec 32 × Bool)
/-- What an instruction with U = 1 reads of a register that every lane holds for itself: the spec names no lane (14 R332, 19 R422;
assumption 26). -/
opaque uniformRead : Nat → BitVec 32
/-- Whether a core has by now seen the owner-bit flips of the last 4 ck (08 R181; assumption 52). -/
opaque flipSeen : Nat → Bool
/-- Whether a write that an instruction made at its issue is still within its latency, at a count, so that an older result of the same
register is not the youngest write pending (03 R94; assumption 102). -/
opaque writeLasts : Nat → Nat → Bool
/-- Bytes of bin memory that a primitive's entry takes in its bins, and what they hold: the layout is the part's own (17 R380; assumption
63). -/
opaque binBytes : Nat → Nat
opaque binByte : Nat → BitVec 8
/-- Which of several like things a unit takes where the spec names no choice, by what it chooses for and the count (assumption 107). -/
opaque choice : Nat → Nat → Nat
/-- Whether a column or a texture cache has by now let a clean line go, by its key and the count (09 R209, 10 R235, R236; assumption
108). -/
opaque leaves : Nat → Nat → Bool
/-- Whether a prefetched line finds a data fill slot, by its key and the count: the spec counts no such slots (09 R217; assumption 111). -/
opaque fillSlot : Nat → Nat → Bool
/-- Which of the free Grotto pages a first touch takes, as a place among them (19 R432; assumption 28). -/
opaque freePage : Nat → Nat
/-- The word that RDWARP reads at an offset in the header of a warp's record, whose layout the spec does not give (18 R400, 19 R435;
assumption 29). -/
opaque recordHeader : Nat → Nat → BitVec 32
/-- How the DATA of a Flowstone record holds the fields that a code names without their places (26 R508; assumption 31). -/
opaque flowData : Nat → List Nat → BitVec 128
/-- Which of a pixel's samples its element holds after a store of every sample to a place with one element for a pixel (17 R385;
assumption 36). -/
opaque storedSample : Nat → Nat
/-- The position that the front end takes for a vertex whose position is not finite or has no w to divide by (17 R377, R378; assumption
41). -/
opaque looseVertex : List (BitVec 32) → List (BitVec 32)
/-- A component of an attribute slot that a vertex has not written, by slot and component (13 R317; assumption 41). -/
opaque missingAttr : Nat → BitVec 32
/-- The stencil value of a depth-stencil attachment without stencil bits (17 R379; assumption 42). -/
opaque missingStencil : BitVec 8
/-- The gang linear index of a fragment gang (17 R383; assumption 43). -/
opaque fragmentIndex : Nat → BitVec 64
/-- Bits that a head's link carries for one pixel, in which the payload rate of its timing is counted (22 R482; assumption 44). -/
opaque scanBits : Nat
/-- The contents of boot ROM (25 R494, R498), and Millado's ML-DSA-87 public key, which it holds (25 R495). -/
opaque bootRom : List (BitVec 8)
opaque bootKey : List (BitVec 8)
/-- The fused minimum security version (25 R495). -/
opaque fusedMinSvn : Nat
/-- The fused unique secret (25 R497). -/
opaque fusedSecret : List (BitVec 8)
/-- The other bytes of the fuse configuration that a measurement block shows (25 R498; assumption 46). -/
opaque fuseBytes : List (BitVec 8)
/-- The device identity key's certificate, written at manufacture (25 R497). -/
opaque deviceCert : List (BitVec 8)
/-- What the alias key's certificate says before its signature, by the alias public key (25 R497; assumption 10). -/
opaque aliasBody : List (BitVec 8) → List (BitVec 8)
/-- The 32 random bytes of a signature, a fresh draw each time (25 R497, R498; assumption 10). -/
opaque signRandom : Nat → List (BitVec 8)
/-- The message that a signed SPDM answer signs, of the requests so far, the last one last, and what the answer holds (25 R498; assumption
46). -/
opaque spdmMessage : List (Nat × List (BitVec 8)) → List (BitVec 8) → List (BitVec 8)
/-- The column banks that one power unit stands for, as the summary names them, by the core's Grotto units (25 R499; assumption 45). -/
opaque bankMask : Nat → BitVec 8
/-- How many repaired units the fuses name (26 R506), and the unit code and spares of each. -/
opaque fusedRepairs : Nat
opaque fusedRepair : Nat → Nat × Nat

end Sys2Proof.Config
end

