-- ==== Sys2Proof/Machine/Keccak.lean ====
section
/-!
DEFINITION. Keccak (FIPS 202) as the starts use it: SHA3-512 of the firmware image (25 R495), SHAKE256 for the seeds of the identity keys
(25 R497), and what ML-DSA-87 takes of both. A state is the standard's string of 1600 bits, whose bit 64(5y + x) + z is bit z of lane x, y; the amounts of ρ and the constants of ι
are computed by the standard's own walk and shift register. The functions are those of the standard that the rules name (assumption 10).
-/
namespace Sys2Proof.Machine.Keccak

/-- Bits of a state. -/
abbrev Sponge : Type := BitVec 1600

/-- The lane x, y, its coordinates modulo 5. -/
def Sponge.lane (s : Sponge) (x y : Nat) : BitVec 64 := s.extractLsb' (64 * (5 * (y % 5) + x % 5)) 64

/-- The state whose lane x, y is given. -/
def Sponge.ofLanes (f : Nat → Nat → BitVec 64) : Sponge :=
  (List.range 5).foldr (fun y v => (List.range 5).foldr (fun x w => (w <<< 64) ||| (f x y).setWidth 1600) v) 0

/-- The parity of the five lanes of column x. -/
def Sponge.parity (s : Sponge) (x : Nat) : BitVec 64 := s.lane x 0 ^^^ s.lane x 1 ^^^ s.lane x 2 ^^^ s.lane x 3 ^^^ s.lane x 4

/-- θ: a lane takes the parity of the column below and, turned by one, of the column above. -/
def Sponge.theta (s : Sponge) : Sponge := .ofLanes fun x y => s.lane x y ^^^ s.parity (x + 4) ^^^ (s.parity (x + 1)).rotateLeft 1

/-- The walk of ρ from lane x, y at step t of n: the lane and the amount (t + 1)(t + 2)/2 of each step; the next lane is y, 2x + 3y. -/
def walk (x y t : Nat) : Nat → List (Nat × Nat × Nat)
  | 0 => []
  | n + 1 => (x, y, (t + 1) * (t + 2) / 2) :: walk y ((2 * x + 3 * y) % 5) (t + 1) n

/-- The amount by which ρ turns lane x, y: 0 for the lane the walk never meets. -/
def turn (x y : Nat) : Nat := (((walk 1 0 0 24).find? fun w => w.1 == x && w.2.1 == y).map (·.2.2)).getD 0

/-- ρ, then π: lane x, y comes from lane x + 3y, x. -/
def Sponge.rhoPi (s : Sponge) : Sponge := .ofLanes fun x y => (s.lane (x + 3 * y) x).rotateLeft (turn ((x + 3 * y) % 5) x % 64)

/-- χ. -/
def Sponge.chi (s : Sponge) : Sponge := .ofLanes fun x y => s.lane x y ^^^ (~~~s.lane (x + 1) y &&& s.lane (x + 2) y)

/-- One step of the shift register of ι: its bit 8 is fed back into bits 0, 4, 5 and 6. -/
def shiftReg (r : BitVec 8) : BitVec 8 := (r <<< 1) ^^^ (if r.getLsbD 7 then 0x71#8 else 0)

/-- The output of the register after t steps. -/
def regBit (t : Nat) : Bool := ((List.range (t % 255)).foldl (fun r _ => shiftReg r) 1#8).getLsbD 0

/-- The constant of round i: bit 2^j - 1 is the register's output after j + 7i steps. -/
def iota (i : Nat) : BitVec 64 := (List.range 7).foldl (fun c j => if regBit (j + 7 * i) then c ||| (1#64 <<< (2 ^ j - 1)) else c) 0

/-- The permutation of 24 rounds. -/
def Sponge.permute (s : Sponge) : Sponge := (List.range 24).foldl (fun s i => s.theta.rhoPi.chi ^^^ (iota i).setWidth 1600) s

/-- Bytes as a string of bits, the first byte lowest. -/
def bits (bs : List Byte) : Sponge := bs.foldr (fun b v => (v <<< 8) ||| b.setWidth 1600) 0

/-- A message of fewer bytes than the rate, closed: the function's suffix behind it, zeros, and a 1 as the block's last bit. -/
def closed (m : List Byte) (rate : Nat) (suffix : Byte) : Sponge :=
  bits m ^^^ (suffix.setWidth 1600 <<< (8 * m.length)) ^^^ (1#1600 <<< (8 * rate - 1))

/-- A message absorbed block by block, its n whole blocks first and then its closed rest. -/
def absorb (rate : Nat) (suffix : Byte) (m : List Byte) (s : Sponge) : Nat → Sponge
  | 0 => (s ^^^ closed m rate suffix).permute
  | n + 1 => absorb rate suffix (m.drop rate) (s ^^^ bits (m.take rate)).permute n

/-- The state a message leaves. -/
def hashed (rate : Nat) (suffix : Byte) (m : List Byte) : Sponge := absorb rate suffix m 0 (m.length / rate)

/-- SHA3-512, byte 0 lowest. -/
def sha3_512 (m : List Byte) : BitVec 512 := (hashed 72 0x06 m).extractLsb' 0 512

/-- Blocks read from a state, with a permutation between them. -/
def squeeze (rate : Nat) (s : Sponge) : Nat → List Byte
  | 0 => []
  | n + 1 => ((List.range rate).map fun i => s.extractLsb' (8 * i) 8) ++ squeeze rate s.permute n

/-- The first n bytes of SHAKE128. -/
def shake128 (m : List Byte) (n : Nat) : List Byte := (squeeze 168 (hashed 168 0x1F m) ((n + 167) / 168)).take n

/-- The first n bytes of SHAKE256. -/
def shake256 (m : List Byte) (n : Nat) : List Byte := (squeeze 136 (hashed 136 0x1F m) ((n + 135) / 136)).take n

end Sys2Proof.Machine.Keccak
end

