-- ==== Sys2Proof/Machine/Mldsa.lean ====
section
/-!
DEFINITION. ML-DSA-87 as the starts use it (25 R495, R497, R498): key generation from a seed, signing and verifying. The spec names FIPS 204 for
it and says no more: what stands here is PRESUMED from that standard (assumption 10), its loops bounded as its Appendix C allows. A polynomial
is its 256 coefficients, lowest first.
-/
namespace Sys2Proof.Machine.Mldsa

/-- A polynomial. -/
abbrev Poly := List Int

/-- The prime of the coefficients. -/
def prime : Int := 8380417
/-- Half the range of a rounded coefficient: (prime - 1) / 32. -/
def gamma2 : Int := 261888
/-- The range of a mask's coefficient. -/
def gamma1 : Int := 524288
/-- What a signature's bounds leave for the secrets: 60 times 2. -/
def beta : Int := 120
/-- Rows of the matrix. -/
def rows : Nat := 8
/-- Columns of the matrix. -/
def cols : Nat := 7

/-- The remainder of least size, the positive one of two. -/
def centred (r m : Int) : Int := let x := r % m; if m / 2 < x then x - m else x

/-- A number of its bytes, lowest first. -/
def ofBytes (bs : List Byte) : Nat := bs.foldr (fun b n => b.toNat + 256 * n) 0

/-- The n bytes of a number, lowest first. -/
def bytes (n v : Nat) : List Byte := (List.range n).map fun k => BitVec.ofNat 8 (v / 2 ^ (8 * k))

/-- 256 values of w bits packed from the first byte's lowest bit up. -/
def pack (w : Nat) (vs : List Nat) : List Byte := bytes (32 * w) (vs.foldr (fun v n => v + 2 ^ w * n) 0)

/-- The 256 values of w bits that stand so. -/
def unpack (w : Nat) (bs : List Byte) : List Nat := let n := ofBytes bs; (List.range 256).map fun i => n / 2 ^ (w * i) % 2 ^ w

/-! ### Polynomials -/

/-- Coefficient by coefficient. -/
def both (f : Int → Int → Int) (a b : Poly) : Poly := List.zipWith (fun x y => f x y % prime) a b

/-- A power of the 512th root of unity. -/
def zeta (e : Nat) : Int := (List.range (e % 512)).foldl (fun v _ => v * 1753 % prime) 1

/-- The eight bits of a number in the opposite order. -/
def turned (i : Nat) : Nat := (List.range 8).foldl (fun v k => 2 * v + i / 2 ^ k % 2) 0

/-- The value of a polynomial at a point. -/
def at_ (a : Poly) (x : Int) : Int := a.foldr (fun c v => (c + v * x) % prime) 0

/-- A polynomial's values at the odd powers of the root. -/
def spectrum (a : Poly) : Poly := (List.range 256).map fun i => at_ a (zeta (2 * turned i + 1))

/-- The polynomial of such values: 8347681 is the inverse of 256. -/
def ofSpectrum (v : Poly) : Poly :=
  let u := (List.range 256).map fun b => v.getD (turned b) 0
  (List.range 256).map fun j => at_ u (zeta (512 - 2 * j % 512)) * zeta (512 - j) % prime * 8347681 % prime

/-- A matrix of spectra applied to a vector of them. -/
def apply (m : List (List Poly)) (v : List Poly) : List Poly :=
  m.map fun row => (List.zipWith (both (· * ·)) row v).foldl (both (· + ·)) (List.replicate 256 0)

/-! ### Sampling -/

/-- A uniform polynomial from a seed, three bytes a candidate. -/
def uniform (seed : List Byte) : Poly :=
  let s := Keccak.shake128 seed 1008
  let c := (List.range 336).map fun k => ofBytes ((s.drop (3 * k)).take 3) % 2 ^ 23
  ((c.filter fun x => x < 8380417).take 256).map Int.ofNat

/-- A polynomial of coefficients from -2 to 2 from a seed, half a byte a candidate. -/
def small (seed : List Byte) : Poly :=
  let h := (Keccak.shake256 seed 544).flatMap fun b => [b.toNat % 16, b.toNat / 16]
  ((h.filter (· < 15)).take 256).map fun x => 2 - ((x % 5 : Nat) : Int)

/-- The matrix of a public seed. -/
def matrix (rho : List Byte) : List (List Poly) :=
  (List.range rows).map fun r => (List.range cols).map fun c => uniform (rho ++ bytes 1 c ++ bytes 1 r)

/-- The mask vector of a seed and a count. -/
def mask (seed : List Byte) (kappa : Nat) : List Poly :=
  (List.range cols).map fun r => (unpack 20 (Keccak.shake256 (seed ++ bytes 2 (kappa + r)) 640)).map fun (x : Nat) => gamma1 - (x : Int)

/-- A challenge polynomial: sixty coefficients of 1 or -1. -/
def challenge (seed : List Byte) : Poly :=
  let s := Keccak.shake256 seed 272
  let signs := ofBytes (s.take 8)
  ((List.range 60).foldl (fun (p : Poly × List Byte) n =>
    let i := 196 + n
    let t := p.2.dropWhile fun b => i < b.toNat
    let j := (t.headD 0).toNat
    (((p.1.set i (p.1.getD j 0)).set j (if signs.testBit n then -1 else 1)), t.drop 1)) (List.replicate 256 0, s.drop 8)).1

/-! ### Rounding -/

/-- High and low part of a coefficient by steps of 2 gamma2. -/
def split (r : Int) : Int × Int :=
  let x := r % prime
  let low := centred x (2 * gamma2)
  if x - low = prime - 1 then (0, low - 1) else ((x - low) / (2 * gamma2), low)

/-- The high part that a hint corrects. -/
def hinted (h : Bool) (r : Int) : Int :=
  let p := split r
  if !h then p.1 else if 0 < p.2 then (p.1 + 1) % 16 else (p.1 - 1) % 16

/-- The bytes of a vector of high parts. -/
def highBytes (v : List Poly) : List Byte := v.flatMap fun a => pack 4 (a.map Int.toNat)

/-- Every coefficient of a vector is smaller than a bound. -/
def within (v : List Poly) (bound : Int) : Bool := v.all fun a => a.all fun c => decide ((centred c prime).natAbs < bound)

/-! ### Keys -/

/-- A key pair. -/
structure Key where
  rho : List Byte
  k : List Byte
  s1 : List Poly
  s2 : List Poly
  t0 : List Poly
  pub : List Byte

/-- Key generation from a seed of 32 bytes. -/
def keygen (seed : List Byte) : Key :=
  let h := Keccak.shake256 (seed ++ bytes 1 rows ++ bytes 1 cols) 128
  let rho := h.take 32
  let rho' := (h.drop 32).take 64
  let s1 := (List.range cols).map fun r => small (rho' ++ bytes 2 r)
  let s2 := (List.range rows).map fun r => small (rho' ++ bytes 2 (cols + r))
  let t := List.zipWith (both (· + ·)) ((apply (matrix rho) (s1.map spectrum)).map ofSpectrum) s2
  let low (x : Int) : Int := centred x 8192
  { rho, k := h.drop 96, s1, s2, t0 := t.map fun a => a.map low,
    pub := rho ++ t.flatMap fun a => pack 10 (a.map fun x => ((x - low x) / 8192).toNat) }

/-- A message under an empty context, as the standard's outer functions pass it on. -/
def framed (m : List Byte) : List Byte := [0, 0] ++ m

/-- The representative of a message under a public key. -/
def representative (pub m : List Byte) : List Byte := Keccak.shake256 (Keccak.shake256 pub 64 ++ framed m) 64

/-! ### Signatures -/

/-- The hint bytes of a signature: the places of each polynomial's hints, and how many stand up to its end. -/
def hintBytes (h : List (List Bool)) : List Byte :=
  let places := h.map fun p => (List.range 256).filter fun j => p.getD j false
  let all := places.flatten
  (all ++ List.replicate (75 - all.length) 0).map (BitVec.ofNat 8) ++
    (List.range rows).map fun i => BitVec.ofNat 8 (places.take (i + 1)).flatten.length

/-- The hints that 83 bytes hold; none where they are no such bytes. -/
def ofHintBytes (bs : List Byte) : Option (List (List Bool)) :=
  let y (n : Nat) : Nat := (bs.getD n 0).toNat
  let ends := (List.range rows).map fun i => y (75 + i)
  let run (i : Nat) : List Nat :=
    let a := if i = 0 then 0 else ends.getD (i - 1) 0
    (List.range (ends.getD i 0 - a)).map fun k => y (a + k)
  let rising (l : List Nat) : Bool := (l.zip (l.drop 1)).all fun p => p.1 < p.2
  if (ends.zip (ends.drop 1)).any (fun p => p.2 < p.1) || ends.any (75 < ·) then none
  else if !((List.range rows).all fun i => rising (run i)) || (List.range 75).any (fun n => ends.getLastD 0 ≤ n && y n ≠ 0) then none
  else some ((List.range rows).map fun i => (List.range 256).map fun j => (run i).contains j)

/-- One try of a signature with a mask; none where a bound fails. -/
def attempt (key : Key) (m : List (List Poly)) (mu seed : List Byte) (kappa : Nat) : Option (List Byte) :=
  let y := mask seed kappa
  let w := (apply m (y.map spectrum)).map ofSpectrum
  let ct := Keccak.shake256 (mu ++ highBytes (w.map fun a => a.map fun x => (split x).1)) 64
  let c := spectrum (challenge ct)
  let times (v : List Poly) : List Poly := v.map fun a => ofSpectrum (both (· * ·) c (spectrum a))
  let z := List.zipWith (both (· + ·)) y (times key.s1)
  let r := List.zipWith (both (· - ·)) w (times key.s2)
  let e := times key.t0
  let hints := List.zipWith (List.zipWith fun x d => decide ((split (x + d)).1 ≠ (split x).1)) r e
  if !within z (gamma1 - beta) || !within (r.map fun a => a.map fun x => (split x).2) (gamma2 - beta) || !within e gamma2
      || 75 < (hints.flatten.filter (·)).length then none
  else some (ct ++ (z.flatMap fun a => pack 20 (a.map fun x => (gamma1 - centred x prime).toNat)) ++ hintBytes hints)

/-- The signature of a message with a key, under 32 bytes of randomness. -/
def sign (key : Key) (message rnd : List Byte) : List Byte :=
  let mu := representative key.pub message
  let seed := Keccak.shake256 (key.k ++ rnd ++ mu) 64
  let m := matrix key.rho
  ((List.range 814).findSome? fun n => attempt key m mu seed (cols * n)).getD []

/-- A signature of 4,627 bytes verifies over a message under a public key of 2,592 bytes. -/
def verify (pub message sig : List Byte) : Bool :=
  let ct := sig.take 64
  let z := (List.range cols).map fun i => (unpack 20 ((sig.drop (64 + 640 * i)).take 640)).map fun (x : Nat) => gamma1 - (x : Int)
  match ofHintBytes (sig.drop 4544) with
  | none => false
  | some hints =>
    let t := (List.range rows).map fun i => spectrum ((unpack 10 ((pub.drop (32 + 320 * i)).take 320)).map fun (x : Nat) => 8192 * (x : Int))
    let c := spectrum (challenge ct)
    let w := (List.zipWith (both (· - ·)) (apply (matrix (pub.take 32)) (z.map spectrum)) (t.map (both (· * ·) c))).map ofSpectrum
    let high := List.zipWith (List.zipWith hinted) hints w
    pub.length = 2592 && sig.length = 4627 && within z (gamma1 - beta) &&
      Keccak.shake256 (representative pub message ++ highBytes high) 64 = ct

end Sys2Proof.Machine.Mldsa
end

