-- ==== Sys2Proof/Syntax.lean ====
section
/-!
DEFINITION. The syntax: the raw fields of an instruction word (02 R53), and one constructor for every row of
spec/opcode_table.json. An instruction of the opcode map carries its raw fields (its opcode is the constructor); an event
of a unit of the part carries what names it.
-/
namespace Sys2Proof

/-- The fields of an instruction word as R53 places them, but for OP. Words the length leaves out read as zero. -/
structure Enc where
  /-- LEN, bits [1:0] of word 0. -/
  len : BitVec 2
  /-- U, bit [2]: 0 per lane, 1 once per warp. -/
  u : BitVec 1
  /-- PRED, bits [16:12]. -/
  pred : BitVec 5
  /-- D, bits [25:17]. -/
  d : BitVec 9
  /-- W, bit [26]. -/
  w : BitVec 1
  /-- A, bits [35:27]. -/
  a : BitVec 9
  /-- B, bits [44:36]. -/
  b : BitVec 9
  /-- F, bits [63:45]. -/
  f : BitVec 19
  /-- C, bits [72:64]. -/
  c : BitVec 9
  /-- X, bits [95:73]. -/
  x : BitVec 23
  /-- K, bits [127:96]. -/
  k : BitVec 32
deriving DecidableEq, Repr

/-- Where an event acts: on an operation, and of its bytes on those in one line. -/
structure OpAt where
  op : Nat
  line : Nat
deriving DecidableEq, Repr

/-- What an event acts on, by its number (an operation, a line, a task, a gang), and whether it finds an uncorrectable error there (26
R502). -/
structure Found where
  name : Nat
  err : Bool
deriving DecidableEq, Repr

/-- The instructions and events of the opcode table. -/
inductive Instr where
  /-- NOP (R102). Does nothing; with U = 0 it still pushes zero into l0. -/
  | nop (e : Enc)
  /-- MOV (R102). Copies 32, 64 or 128 bits without interpretation. -/
  | mov (e : Enc)
  /-- MOVK (R101). Writes a 32-bit constant, a sign-extended 64-bit constant, or a high word beside a source. -/
  | movk (e : Enc)
  /-- IADD (R100). Integer addition, wrapping or saturating. -/
  | iadd (e : Enc)
  /-- ISUB (R100). Integer subtraction, wrapping or saturating. -/
  | isub (e : Enc)
  /-- IADD3 (R100). Three-operand integer addition. -/
  | iadd3 (e : Enc)
  /-- IMUL (R100). Low 32 bits of an integer product. -/
  | imul (e : Enc)
  /-- IMULH (R100). High 32 bits of a signed or unsigned 64-bit product. -/
  | imulh (e : Enc)
  /-- IMAD (R100). Integer multiply-add, 32-bit result. -/
  | imad (e : Enc)
  /-- IMADW (R100). Integer multiply-add with a 64-bit addend and result. -/
  | imadw (e : Enc)
  /-- IADD64 (R100). 64-bit integer addition on register pairs. -/
  | iadd64 (e : Enc)
  /-- IMIN (R100). Integer minimum under the type. -/
  | imin (e : Enc)
  /-- IMAX (R100). Integer maximum under the type. -/
  | imax (e : Enc)
  /-- IABS (R100). Integer absolute value, optionally saturating. -/
  | iabs (e : Enc)
  /-- ICMP (R100). Compares two 32-bit integers under a condition and writes 1 or 0. -/
  | icmp (e : Enc)
  /-- ICMP64 (R100). Compares two 64-bit integers under a condition and writes 1 or 0. -/
  | icmp64 (e : Enc)
  /-- SEL (R102). Selects a or b by bit 0 of c. -/
  | sel (e : Enc)
  /-- AND (R99). Bitwise AND. -/
  | and (e : Enc)
  /-- OR (R99). Bitwise OR. -/
  | or (e : Enc)
  /-- XOR (R99). Bitwise exclusive OR. -/
  | xor (e : Enc)
  /-- ANDN (R99). a AND NOT b. -/
  | andn (e : Enc)
  /-- BOOL3 (R103). Three-input bitwise function from an 8-entry truth table. -/
  | bool3 (e : Enc)
  /-- SHL (R99). Left shift by a count taken modulo the width. -/
  | shl (e : Enc)
  /-- SHR (R99). Logical right shift. -/
  | shr (e : Enc)
  /-- SAR (R99). Arithmetic right shift. -/
  | sar (e : Enc)
  /-- SHF (R103). Funnel shift of a 64-bit pair, right or left. -/
  | shf (e : Enc)
  /-- BFE (R104). Bit-field extract with sign or zero extension. -/
  | bfe (e : Enc)
  /-- BFI (R104). Bit-field insert. -/
  | bfi (e : Enc)
  /-- POPC (R99). Population count. -/
  | popc (e : Enc)
  /-- CLZ (R99). Count of leading zero bits. -/
  | clz (e : Enc)
  /-- CTZ (R99). Count of trailing zero bits. -/
  | ctz (e : Enc)
  /-- BREV (R99). Bit reversal. -/
  | brev (e : Enc)
  /-- LEA (R99). 64-bit address plus a shifted 32-bit index. -/
  | lea (e : Enc)
  /-- BYTEX (R105). Byte permutation with constant fills under a nibble selector. -/
  | bytex (e : Enc)
  /-- SHFL (R109). Lanes read a value from another lane of their segment. -/
  | shfl (e : Enc)
  /-- VOTE (R110). Combines bit 0 of a over the execution mask. -/
  | vote (e : Enc)
  /-- MATCH (R111). Finds the lanes holding equal values. -/
  | matchLanes (e : Enc)
  /-- REDW (R112). Reduces a over the execution mask. -/
  | redw (e : Enc)
  /-- SCANW (R112). Inclusive or exclusive scan over the execution mask. -/
  | scanw (e : Enc)
  /-- KSORT (R113). Stable sort of key and payload pairs across the execution mask. -/
  | ksort (e : Enc)
  /-- VTOG (R114). Moves one lane's value to a g register. -/
  | vtog (e : Enc)
  /-- FADD (R119). f32 addition, rounded once. -/
  | fadd (e : Enc)
  /-- FMUL (R119). f32 multiplication, rounded once. -/
  | fmul (e : Enc)
  /-- FFMA (R119). f32 fused multiply-add, rounded once. -/
  | ffma (e : Enc)
  /-- FMIN (R34). f32 minimum. -/
  | fmin (e : Enc)
  /-- FMAX (R34). f32 maximum. -/
  | fmax (e : Enc)
  /-- FCMP (R120). f32 comparison under a condition. -/
  | fcmp (e : Enc)
  /-- FRND (R121). Rounds an f32 value to an integral value. -/
  | frnd (e : Enc)
  /-- FCLASS (R122). Writes the class mask of an f32 value. -/
  | fclass (e : Enc)
  /-- FRCP (R39). Correctly rounded f32 reciprocal. -/
  | frcp (e : Enc)
  /-- FRSQ (R39). Correctly rounded f32 reciprocal square root. -/
  | frsq (e : Enc)
  /-- FSQRT (R39). Correctly rounded f32 square root. -/
  | fsqrt (e : Enc)
  /-- FEXP2 (R39). Correctly rounded f32 base-2 exponential. -/
  | fexp2 (e : Enc)
  /-- FLOG2 (R39). Correctly rounded f32 base-2 logarithm. -/
  | flog2 (e : Enc)
  /-- FSIN (R39). Correctly rounded sine of an argument in turns. -/
  | fsin (e : Enc)
  /-- FCOS (R39). Correctly rounded cosine of an argument in turns. -/
  | fcos (e : Enc)
  /-- FTANH (R39). Correctly rounded f32 hyperbolic tangent. -/
  | ftanh (e : Enc)
  /-- HADD2 (R119). Packed f16 or bf16 addition. -/
  | hadd2 (e : Enc)
  /-- HMUL2 (R119). Packed f16 or bf16 multiplication. -/
  | hmul2 (e : Enc)
  /-- HFMA2 (R119). Packed f16 or bf16 fused multiply-add. -/
  | hfma2 (e : Enc)
  /-- HMIN2 (R34). Packed f16 or bf16 minimum. -/
  | hmin2 (e : Enc)
  /-- HMAX2 (R34). Packed f16 or bf16 maximum. -/
  | hmax2 (e : Enc)
  /-- HCMP2 (R120). Packed f16 or bf16 comparison, one result per half. -/
  | hcmp2 (e : Enc)
  /-- FDOT2 (R119). Two-element packed dot product plus an f32 addend, rounded once into f32. -/
  | fdot2 (e : Enc)
  /-- DADD (R119). f64 addition. -/
  | dadd (e : Enc)
  /-- DMUL (R119). f64 multiplication. -/
  | dmul (e : Enc)
  /-- DFMA (R119). f64 fused multiply-add. -/
  | dfma (e : Enc)
  /-- DMIN (R34). f64 minimum. -/
  | dmin (e : Enc)
  /-- DMAX (R34). f64 maximum. -/
  | dmax (e : Enc)
  /-- DCMP (R120). f64 comparison under a condition. -/
  | dcmp (e : Enc)
  /-- DRCP (R39). Correctly rounded f64 reciprocal. -/
  | drcp (e : Enc)
  /-- DRSQ (R39). Correctly rounded f64 reciprocal square root. -/
  | drsq (e : Enc)
  /-- DCLASS (R122). Writes the class mask of an f64 value. -/
  | dclass (e : Enc)
  /-- DRND (R121). Rounds an f64 value to an integral value. -/
  | drnd (e : Enc)
  /-- CVT (R125). Converts between floating-point formats. -/
  | cvt (e : Enc)
  /-- F2I (R126). Converts floating point to integer with clamping. -/
  | f2i (e : Enc)
  /-- I2F (R127). Converts integer to floating point. -/
  | i2f (e : Enc)
  /-- PACKQ (R129). Scales, converts and packs f32 lane values into MX elements. -/
  | packq (e : Enc)
  /-- UNPACKQ (R130). Expands each lane's MX element to f32. -/
  | unpackq (e : Enc)
  /-- SCALEX (R128). Derives an E8M0 block scale from the lanes' f32 values. -/
  | scalex (e : Enc)
  /-- BRA (R151). Direct branch, possibly divergent with a join address. -/
  | bra (e : Enc)
  /-- BRX (R152). Indirect branch grouping lanes by target. -/
  | brx (e : Enc)
  /-- SWITCH (R154). Sends each lane to one of eight cases or a default through a target table. -/
  | switch (e : Enc)
  /-- JOIN (R151). Parks lanes at a join record and completes it when all expected lanes arrive. -/
  | join (e : Enc)
  /-- CALL (R151). Direct call that raises call depth, spilling return levels above 8. -/
  | call (e : Enc)
  /-- CALLX (R152). Indirect call grouped by target. -/
  | callx (e : Enc)
  /-- RET (R155). Returns from a call level, refilling a spilled level when needed. -/
  | ret (e : Enc)
  /-- EXIT (R155). Ends lanes, removes them from every structure and frees the split entry when it is empty. -/
  | exit (e : Enc)
  /-- YIELDS (R155). Swaps the split with the oldest stacked path, or makes it youngest. -/
  | yields (e : Enc)
  /-- LOOP (R171). Declares a counted loop level and pushes its loop record. -/
  | loop (e : Enc)
  /-- LOOPP (R171). Declares a pipelined loop with stages and a rotation window. -/
  | loopp (e : Enc)
  /-- BREAK (R172). Moves lanes into the innermost loop's EXITMASK. -/
  | breakLoop (e : Enc)
  /-- LCGET (R175). Reads a loop-control field or the status word. -/
  | lcget (e : Enc)
  /-- LCSET (R175). Writes a loop-control field or the status word. -/
  | lcset (e : Enc)
  /-- IPREF (R176). Instruction-prefetch hint for up to eight lines. -/
  | ipref (e : Enc)
  /-- TRAP (R156). Software trap, cause 0x0E, with a code. -/
  | trap (e : Enc)
  /-- BKPT (R156). Breakpoint trap, cause 0x13, with a code. -/
  | bkpt (e : Enc)
  /-- TBBIND (R206). Binds a translation base to a uniform pointer from the TLBs, without a walk. -/
  | tbbind (e : Enc)
  /-- LD (R212). Global load through a translation base, counted on G. -/
  | ld (e : Enc)
  /-- ST (R212). Global store through a translation base, counted on S. -/
  | st (e : Enc)
  /-- LDX (R212). Global load by flat 64-bit address. -/
  | ldx (e : Enc)
  /-- STX (R212). Global store by flat 64-bit address. -/
  | stx (e : Enc)
  /-- LDS (R187). Loads from the workgroup's scratchpad. -/
  | lds (e : Enc)
  /-- STS (R187). Stores to the workgroup's scratchpad. -/
  | sts (e : Enc)
  /-- LDR (R188). Loads from a gang workgroup's scratchpad through the cluster window, counted on Q. -/
  | ldr (e : Enc)
  /-- STR (R188). Stores to a gang workgroup's scratchpad through the cluster window, counted on Q. -/
  | str (e : Enc)
  /-- PREF (R217). Data prefetch hint into the column. -/
  | pref (e : Enc)
  /-- CLEAN (R218). Writes dirty lines of a range to their home. -/
  | clean (e : Enc)
  /-- INVAL (R218). Cleans and removes the lines of a range, and optionally instruction-cache lines. -/
  | inval (e : Enc)
  /-- CPY (R191). Issues an asynchronous copy from global memory to scratchpad. -/
  | cpy (e : Enc)
  /-- CPYO (R191). Issues an asynchronous copy from scratchpad to global memory. -/
  | cpyo (e : Enc)
  /-- CPYR (R191). Issues an asynchronous copy to any scratchpad of the gang. -/
  | cpyr (e : Enc)
  /-- WAITC (R185). Waits for one in-flight counter to drain to a threshold. -/
  | waitc (e : Enc)
  /-- QINIT (R196). Initialises and binds a named queue. -/
  | qinit (e : Enc)
  /-- QPUSH (R198). Pushes handles to a local or remote queue with a release. -/
  | qpush (e : Enc)
  /-- QPOP (R199). Pops handles from a queue with an acquire. -/
  | qpop (e : Enc)
  /-- ATOM (R253). Atomic read-modify-write returning the old value. -/
  | atom (e : Enc)
  /-- ATOMC (R253). Atomic compare-and-swap returning the old value. -/
  | atomc (e : Enc)
  /-- RED (R253). Atomic reduction without a result, counted on S. -/
  | red (e : Enc)
  /-- FENCE (R254). Orders the warp's accesses with release and/or acquire cache actions. -/
  | fence (e : Enc)
  /-- AFENCE (R255). Cleans and invalidates the column and the L1 data TLB to join aliases. -/
  | afence (e : Enc)
  /-- TICKET (R258). Draws the next ticket from a dispenser. -/
  | ticket (e : Enc)
  /-- SERVED (R258). Sleeps until a ticket is served, then acquires. -/
  | served (e : Enc)
  /-- ADVANCE (R258). Releases and raises SERVING, broadcasting a wake. -/
  | advance (e : Enc)
  /-- WAITMON (R260). Waits for a condition on a value in memory, with an optional timeout. -/
  | waitmon (e : Enc)
  /-- TOKPASS (R262). Gives up the write token of a region. -/
  | tokpass (e : Enc)
  /-- MAP (R281). Builds an operand map from four g registers. -/
  | map (e : Enc)
  /-- MMA (R283). Queues a dense matrix multiply-accumulate on the engine. -/
  | mma (e : Enc)
  /-- MMAS (R283). Queues a 2:4 sparse matrix multiply-accumulate. -/
  | mmas (e : Enc)
  /-- MZERO (R284). Clears an accumulator tile and sets its KIND. -/
  | mzero (e : Enc)
  /-- MLDA (R285). Loads a tile region from scratchpad. -/
  | mlda (e : Enc)
  /-- MDRAIN (R286). Converts a tile region and writes it to scratchpad through a map. -/
  | mdrain (e : Enc)
  /-- MBYP (R286). Converts a tile region into the bypass slot, claiming it. -/
  | mbyp (e : Enc)
  /-- MFENCE (R287). Closes the warp's open batch and returns its number. -/
  | mfence (e : Enc)
  /-- MWAIT (R288). Waits for a matrix batch or all operations. -/
  | mwait (e : Enc)
  /-- TLDT (R298). Reads tile memory. -/
  | tldt (e : Enc)
  /-- TSTT (R298). Writes tile memory, optionally blending. -/
  | tstt (e : Enc)
  /-- ORDBEGIN (R302). Waits for the pixels' ordered sections, then acquires. -/
  | ordbegin (e : Enc)
  /-- ORDEND (R302). Releases and gives up the lanes' ordered sections. -/
  | ordend (e : Enc)
  /-- SAMPLE (R308). Filtered texture sample with implicit or explicit LOD. -/
  | sample (e : Enc)
  /-- SAMPLEG (R308). Filtered texture sample with explicit gradients. -/
  | sampleg (e : Enc)
  /-- TFETCH (R309). Reads one texel without filtering. -/
  | tfetch (e : Enc)
  /-- ISTORE (R309). Writes one texel as a relaxed store. -/
  | istore (e : Enc)
  /-- TRACE (R315). Traces one ray per lane on the traversal unit. -/
  | trace (e : Enc)
  /-- EMIT (R316). Appends records to a record node's input ring. -/
  | emit (e : Enc)
  /-- VOUT (R317). Hands vertex-stage outputs to the raster front end. -/
  | vout (e : Enc)
  /-- DISCARD (R318). Ends fragment lanes without late depth or stencil writes. -/
  | discard (e : Enc)
  /-- RDSYS (R332). Reads a system register or the trapping destination. -/
  | rdsys (e : Enc)
  /-- WRSYS (R332). Writes a system register or the trapping destination. -/
  | wrsys (e : Enc)
  /-- SRET (R430). Returns from the supervisor handler. -/
  | sret (e : Enc)
  /-- URET (R330). Returns from the user handler. -/
  | uret (e : Enc)
  /-- TLBFILL (R432). Installs a translation or resolves a miss-queue entry. -/
  | tlbfill (e : Enc)
  /-- TLBINV (R433). Harvests and removes translations and drains accesses under them. -/
  | tlbinv (e : Enc)
  /-- DHARV (R433). Harvests A and D bits of translations. -/
  | dharv (e : Enc)
  /-- WALKPOP (R431). Claims the oldest unclaimed miss, or ends the walker. -/
  | walkpop (e : Enc)
  /-- HANDOVER (R445). Starts the move of a stack to another die. -/
  | handover (e : Enc)
  /-- TOKDEF (R451). Defines a write-token region. -/
  | tokdef (e : Enc)
  /-- TOKDEF_DEL (R451). Deletes a write-token region, recalling its token. -/
  | tokdefDel (e : Enc)
  /-- CRDEF (R467). Defines an Electrum region. -/
  | crdef (e : Enc)
  /-- CRDEF_DEL (R467). Deletes an Electrum region after writing back its lines. -/
  | crdefDel (e : Enc)
  /-- CRDEF_RD (R467). Reads an Electrum region's counters. -/
  | crdefRd (e : Enc)
  /-- CRDEF_RDCLR (R467). Reads and clears an Electrum region's counters. -/
  | crdefRdclr (e : Enc)
  /-- RESUMEW (R434). Releases a halted warp of the workgroup. -/
  | resumew (e : Enc)
  /-- HALTW (R434). Halts and drains a warp of the workgroup. -/
  | haltw (e : Enc)
  /-- RDWARP (R435). Reads a word of a halted warp's record. -/
  | rdwarp (e : Enc)
  /-- WRWARP (R435). Writes a word of a halted warp's record. -/
  | wrwarp (e : Enc)
  /-- TIME (R333). Reads the architectural timer. -/
  | time (e : Enc)
  /-- BBMARK (R334). Appends a Flowstone record from a warp. -/
  | bbmark (e : Enc)
  /-- LAUNCH (R371). Appends a record to a DEVAPPEND stream from a warp. -/
  | launch (e : Enc)
  /-- RESERVED_OPCODE (R66). An unassigned opcode raises illegal instruction, sub-cause reserved opcode. -/
  | reservedOpcode (op : BitVec 9) (e : Enc)
  /-- LOAD_DATA_APPLIED (R212). The data of one line of a load arrives and is written per lane, and the G counter falls in order. -/
  | loadDataApplied (w : Nat) (o : OpAt) (err : Bool)
  /-- STORE_PERFORMED (R182). The bytes of a store in one line are performed at its scope's place and the S counter falls in order. -/
  | storePerformed (w : Nat) (o : OpAt)
  /-- LDS_RESULT (R178). The data of an LDS, or of a local QPOP, reaches its lanes 7 + n ck after issue and is written or discarded under R95. -/
  | ldsResult (w : Nat) (o : Found)
  /-- PEER_COMPLETION (R480). A UIO completion from a peer returns data or completes a peer access. -/
  | peerCompletion (w : Nat) (o : OpAt)
  /-- WARM (R496). Mailbox command that kills contexts, cleans and restarts keeping device memory. -/
  | warm
  /-- ATOMIC_ACT (R253). An atomic is performed at its place as one act per line. -/
  | atomicAct (w op : Nat) (o : Found)
  /-- HOME_RETRY (R248). A refused home request retries after its back-off delay. -/
  | homeRetry (line : Nat)
  /-- COPY_START (R191). The copy engine begins a copy once earlier lane accesses are performed. -/
  | copyStart (w op : Nat)
  /-- COPY_COMPLETE (R191). A copy's last write is performed, its granules flip back and C falls. -/
  | copyComplete (w op : Nat)
  /-- LDR_RESULT (R188). An LDR result returns through the cluster unit and Q falls. -/
  | ldrResult (w : Nat) (o : Found)
  /-- STR_PERFORMED (R188). An STR is performed at the target bank and Q falls. -/
  | strPerformed (w op : Nat)
  /-- REMOTE_PUSH_ARRIVAL (R198). A remote push reaches its target queue and is appended, held, discarded or refused. -/
  | remotePushArrival (w op : Nat)
  /-- REMOTE_PUSH_APPEND (R198). A held remote push is appended once the queue can take it. -/
  | remotePushAppend (wg q : Nat)
  /-- QPUSH_WAKE (R198). A blocked local push proceeds when the queue is bound or has room. -/
  | qpushWake (w k : Nat)
  /-- QPOP_WAKE (R199). A blocked pop proceeds when enough entries exist. -/
  | qpopWake (w k : Nat)
  /-- WAITC_WAKE (R185). A descheduled split wakes when its counter falls to the threshold. -/
  | waitcWake (w k : Nat)
  /-- GRANULE_WAIT_END (R180). An engine instruction stalled on engine-owned granules issues once they return to lanes. -/
  | granuleWaitEnd (w k : Nat)
  /-- MATRIX_OP_START (R283). The engine starts a queued operation after earlier lane accesses to its footprint. -/
  | matrixOpStart (eng : Nat) (err : Bool)
  /-- MATRIX_READ_COMPLETE (R277). An operation's read part completes and flips its footprint back. -/
  | matrixReadComplete (eng : Nat)
  /-- MATRIX_OP_COMPLETE (R276). An operation writes its region or scratchpad and completes, completing its batch in order. -/
  | matrixOpComplete (eng : Nat)
  /-- MWAIT_WAKE (R288). A split waiting in MWAIT wakes 6 ck after its batch completes. -/
  | mwaitWake (w k : Nat)
  /-- SERVED_WAKE (R258). A sleeping SERVED rereads SERVING on a wake and acquires when served. -/
  | servedWake (w k : Nat)
  /-- WAITMON_WAKE (R260). A write at the watched place rereads the monitored value. -/
  | waitmonWake (w k : Nat)
  /-- WAITMON_TIMEOUT (R260). A monitor's deadline passes and status 0 is written. -/
  | waitmonTimeout (w k : Nat)
  /-- WAITMON_REREAD (R261). A monitor without an entry rereads its value every 1 µs. -/
  | waitmonReread (w k : Nat)
  /-- ORDBEGIN_GRANT (R299). A waiting lane is granted its pixel's section once earlier fragments release it. -/
  | ordbeginGrant (w k : Nat)
  /-- TLDT_RESULT (R298). A tile-memory read result is applied and X falls. -/
  | tldtResult (w op : Nat)
  /-- TEXTURE_RESULT (R308). A texture sample or fetch result is applied and X falls. -/
  | textureResult (w op : Nat)
  /-- TRACE_COMPLETE (R315). All rays are traced, hit records written, granules flip back and T falls. -/
  | traceComplete (w op : Nat)
  /-- EMIT_APPEND (R316). A waiting EMIT appends its records when the ring has space. -/
  | emitAppend (w k : Nat)
  /-- TOKEN_HANDOFF_IDLE (R450). A holder idle on the region for 256 ck passes the token. -/
  | tokenHandoffIdle (region : Nat)
  /-- TOKEN_HANDOFF_TIMEOUT (R450). 8 µs after the oldest request the holder passes the token. -/
  | tokenHandoffTimeout (region : Nat)
  /-- ICACHE_FILL (R485). An instruction line fill arrives and its fetches may issue. -/
  | icacheFill (core line : Nat) (err : Bool)
  /-- WALKER_START (R419). A walker warp starts for an unclaimed miss-queue entry. -/
  | walkerStart (die : Nat)
  /-- HARVEST_INTERVAL (R426). Every HARVEST interval all TLB entries have their A and D bits harvested. -/
  | harvestInterval (ctx : Nat)
  /-- HANDOVER_DRAIN (R442). The eight-step drain moves a stack's ownership and writes the completion word. -/
  | handoverDrain (stack : Nat)
  /-- ELECTRUM_WRITEBACK (R461). The home merges written values into a block, re-encodes it and updates the counters. -/
  | electrumWriteback (core line : Nat)
  /-- HOME_WRITEBACK (R503). A byte-masked writeback is merged at the home, entering or clearing error-table entries. -/
  | homeWriteback (core line : Nat) (err : Bool)
  /-- CORRECTION_RECORD (R501). A unit writes at most one corrections record per millisecond. -/
  | correctionRecord (unit : Nat) (corrections : Nat) (address : Nat)
  /-- WARP_END (R146). A warp ends when no lane remains and its six counters are zero. -/
  | warpEnd (w : Nat)
  /-- STREAM_DESCRIPTOR_WRITE (R340). Host write to a stream descriptor; ENABLE rising binds the slot, clearing stops fetching. -/
  | streamDescriptorWrite (slot : Nat) (data : BitVec 512)
  /-- TAIL_ADVANCE (R341). The front end sees a new tail value, acquires and fetches records. -/
  | tailAdvance (slot : Nat)
  /-- RECORD_START (R344). A fetched record starts in sequence once its predecessors allow. -/
  | recordStart (slot : Nat)
  /-- LAUNCH_COMPLETE (R348). A LAUNCH record completes with a device-scope release when every gang has retired. -/
  | launchComplete (launch : Nat)
  /-- WAIT_CONDITION_MET (R350). A write makes a WAIT record's condition hold; it acquires and completes. -/
  | waitConditionMet (slot seq : Nat)
  /-- WAIT_TIMEOUT (R350). A WAIT record's timeout expires and it fails with code 7. -/
  | waitTimeout (slot seq : Nat)
  /-- GRAPH_LOAD (R357). Galena reads and checks the graph, waiting for scoreboard space if needed. -/
  | graphLoad (graph : Nat)
  /-- TILE_TASK_RETIRE (R363). A tile task commits, marks its tiles produced and decrements REMAINING; err: a scoreboard entry
  meets an uncorrectable error (26 R502). -/
  | tileTaskRetire (o : Found)
  /-- DISPATCH_OPPORTUNITY (R390). A die's dispatcher chooses and places ready gangs when resources free or work arrives. -/
  | dispatchOpportunity (die : Nat)
  /-- CLASS_WAIT_LIMIT (R390). A class 1 or 2 gang waiting 2 ms blocks placement of lower classes. -/
  | classWaitLimit (gang : Nat)
  /-- CLASS3_PROMOTION (R390). A class-3 gang that has waited 100 ms is treated as class 2. -/
  | class3Promotion (gang : Nat)
  /-- CLASS0_REQUEST (R395). An unplaceable class-0 gang makes Galena choose a cluster and victims. -/
  | class0Request (gang : Nat)
  /-- VICTIM_SAVE (R396). Drained victims are saved to the Grotto and the cores released. -/
  | victimSave (gang : Nat)
  /-- ORDERED_SECTION_TIMEOUT (R301). After 5 µs a pre-empted warp stops with its sections held. -/
  | orderedSectionTimeout (w : Nat)
  /-- SAVE_AREA_COPY (R399). A Grotto save is copied lazily into the context's save area; err: the record meets an
  uncorrectable error (26 R502). -/
  | saveAreaCopy (o : Found)
  /-- WATCHDOG_FIRE (R406). After WDOG ms of unresolvable blocking, every blocked split takes cause 0x14. -/
  | watchdogFire (ctx : Nat)
  /-- XWAIT_TIMEOUT (R405). A parked context blocked for XWAIT ms is logged and signalled to the host. -/
  | xwaitTimeout (ctx : Nat)
  /-- THERMAL_INTERVAL (R408). Every 10 ms hot columns are found, migration chosen and throttling set. -/
  | thermalInterval (core : Nat) (celsius : Nat)
  /-- MIGRATION (R409). A workgroup drains and moves to another core once its C copies reach zero. -/
  | migration (wg : Nat)
  /-- MIGRATION_ABANDON (R409). A migration deferred 50 µs is abandoned for the interval. -/
  | migrationAbandon (wg : Nat)
  /-- POWER_SAMPLE (R489). Every 10 µs the power manager throttles issue to keep under the cap. -/
  | powerSample (milliwatts : Nat)
  /-- POWER_STATE_ENTRY (R487). An idle unit enters a lower power state when its entry condition has held. -/
  | powerStateEntry (unit : Nat)
  /-- UNIT_WAKE (R488). A waking unit reaches full power and accepts the waiting requests. -/
  | unitWake (unit : Nat)
  /-- FRONT_END_BATCH (R376). The raster front end takes a handed-over vertex batch, clips, sets up and bins it. -/
  | frontEndBatch (pass : Nat)
  /-- SUBPASS_RASTERISE (R380). A tile rasterises a sub-pass, with early tests, once its batches are handed over. -/
  | subpassRasterise (task : Nat)
  /-- FRAGMENT_WARP_START (R384). The back end stages fragment values and starts a fragment warp. -/
  | fragmentWarpStart (task : Nat)
  /-- LATE_TEST (R382). A late depth and stencil test-and-write is performed in sequence order. -/
  | lateTest (task : Nat)
  /-- VERTICAL_BLANK (R483). A head latches the newest started FLIP and completes its FLIPs. -/
  | verticalBlank (head : Nat)
  /-- HEAD_CONFIG_WRITE (R483). Host write to a display head; clearing ENABLE completes unlatched FLIPs. -/
  | headConfigWrite (head offset : Nat) (data : BitVec 32)
  /-- PEER_APERTURE_WRITE (R479). Host write to a peer aperture; overlapping apertures are not enabled. -/
  | peerApertureWrite (aperture : Nat) (data : BitVec 128)
  /-- PTROOT_WRITE (R416). A change of PTROOT removes every TLB entry of the context. -/
  | ptrootWrite (ctx : Nat) (data : BitVec 64)
  /-- REGISTER_WRITE (R16). Host write to a window register with no behaviour of its own. -/
  | registerWrite (offset : Nat) (wide : Bool) (data : BitVec 64)
  /-- HOST_MEM_READ (R476). A host CXL.mem read of device memory is performed at the home. -/
  | hostMemRead (pa : Nat) (exclusive : Bool)
  /-- HOST_MEM_WRITE (R476). A host CXL.mem write is performed at the home, recalling any token. -/
  | hostMemWrite (pa : Nat) (mask : BitVec 64) (data : BitVec 512)
  /-- BIRSP (R474). A host BIRsp arrives and the waiting device request completes. -/
  | birsp (line half : Nat) (mask : BitVec 64) (data : BitVec 512)
  /-- SNPDATA (R477). A host snoop downgrades one half of a host line to S after supplying dirty bytes. -/
  | snpdata (core pa : Nat)
  /-- SNPINV (R477). A host snoop invalidates one half of a host line. -/
  | snpinv (core pa : Nat)
  /-- SNPCUR (R469). A host snoop reads the current data of a host line half. -/
  | snpcur (core pa : Nat)
  /-- COLD_START (R494). Power-on or PERST# runs the boot ROM, training, firmware wait, scrub and initialisation. -/
  | coldStart
  /-- LINK_TRAINING (R470). The link trains and fixes whether CXL.cache and CXL.mem run. -/
  | linkTraining (fullRate : Bool)
  /-- LINK_RETRAIN (R470). Retraining below 32 GT/s writes back host halves and leaves CXL.cache and CXL.mem. -/
  | linkRetrain (fullRate : Bool)
  /-- LOADFW (R495). Mailbox command that reads and verifies the firmware image and seals MEASURE. -/
  | loadfw (address : Nat)
  /-- RESYNC (R499). Mailbox command that snapshots the part at one instant into a host buffer. -/
  | resync (address : Nat)
  /-- DEBUGRD (R491). Mailbox command that reads 32 bytes of stacked state with a status word. -/
  | debugrd (arg0 arg1 : BitVec 64)
  /-- FLOWCOPY (R492). Mailbox command that copies both Flowstone logs to a host buffer. -/
  | flowcopy (address : Nat)
  /-- SPDM_REQUEST (R498). An SPDM 1.3 request over DOE is answered with versions, certificates, challenges or measurements. -/
  | spdmRequest (code : Nat) (data : List Byte)
  /-- SCAN_LINE (R483). The scanout engine reads one line of the latched surface; a page fault shows black pixels, writes Flowstone record 0x1B0 and raises vector 33. -/
  | scanLine (head line : Nat)
  /-- IMAGE_REGION_ERROR (R495). The image region's SECDED check finds an uncorrectable error and clears RETAINED. -/
  | imageRegionError
deriving DecidableEq, Repr

end Sys2Proof
end

