-- ==== Sys2Proof/Machine/State.lean ====
section
/-!
DEFINITION. The state of the part as plain data: everything spec/ gives it (INVENTORY.md lists each piece with its rule),
its reset value, and the reasons a step can stop.
-/
namespace Sys2Proof.Machine

/-! ### Operands and traps -/

/-- A 32-bit register word of a warp: v and o words belong to a lane, g words to the warp (02 R59). -/
inductive RegName where
  | v (n : Nat)
  | o (n : Nat)
  | g (n : Nat)
deriving DecidableEq, Repr

/-- The access paths of the in-flight counters (08 R182). -/
inductive Path where
  | G | S | C | X | T | Q
deriving DecidableEq, Repr

/-- A trap on its way: cause fields (02 R68), the lanes it names (none: the execution mask rule of 19 R423), the fault
address of every lane, and the values of the frame. -/
structure Trap where
  cause : Nat
  sub : Nat := 0
  pos : Nat := 0
  /-- SMASK or TMASK where the cause's rule names lanes. -/
  lanes : Option Word := none
  /-- The fault address of a lane (SVA). -/
  va : List (Nat × DWord) := []
  write : Bool := false
  fetch : Bool := false
  /-- TINFO and SINFO[15:0]. -/
  info : Nat := 0
  /-- TDEST and SDEST. -/
  dest : Word := 0x1FF
  /-- The lanes stand with U = 1 too: those of causes 0x0D, 0x0E and 0x13 (14 R321) and of a held fault (08 R193). -/
  exact : Bool := false
deriving DecidableEq, Repr

/-- A fault met after its operation was counted, held for the warp (08 R193, 12 R279, 13 R310). -/
structure HeldFault where
  cause : Nat
  sub : Nat
  addr : DWord
  /-- It has been delivered; what held it goes on at the SRET of its handler. -/
  given : Bool := false
deriving DecidableEq, Repr

/-! ### Splits -/

/-- A loop-control register that holds a loop (07 R157). -/
structure Loop where
  pipelined : Bool
  start : DWord
  stop : DWord
  count : Word
  started : Word
  exitmask : Word
  depth : Nat
  stages : Nat
  stagemask : BitVec 8
  win : Nat
  rb : Nat
deriving DecidableEq, Repr

/-- A split's frame: call depth, return stack (deepest level first, at most 8), loop levels lc0 first (06 R134). -/
structure Frame where
  depth : Nat
  rstack : List DWord
  loops : List Loop
  /-- How many of the deepest return addresses were read back from the spill area, where software may have changed them. -/
  soft : Nat := 0
deriving DecidableEq, Repr

/-- The four latches of a split: key 32 k + lane, and the valid bits (03 R85). -/
structure Latches where
  data : Store 64
  valid : BitVec 4
deriving DecidableEq, Repr

/-- A destination word still to be written: which word of which lane's result, into which register (03 R95). -/
structure DstWord where
  lane : Nat
  word : Nat
  reg : RegName
  /-- A later instruction of the split has written the register in another lane at its issue: while the latency of that write lasts, a
  reader does not wait for this result (R94). -/
  passed : Bool := false
deriving DecidableEq, Repr

/-- What a trap saves with the split (14 R328, 19 R423). -/
structure Saved where
  latches : Latches
  loops : List Loop
  /-- STATUS.PEND (07 R164). -/
  pend : Bool
  /-- The operand file of the split's lanes, its poison marks, and the results still due to it: operation and destination
  (03 R84, R96, 09 R216). -/
  ofile : Store 32
  omarks : Tab Nat
  odue : List (Nat × DstWord)
  level : Nat
deriving DecidableEq, Repr

/-- The user trap frame (14 R324, R325). -/
structure UserFrame where
  tcause : Word
  tpc : DWord
  tnpc : DWord
  tmask : Word
  tact : Word
  tdest : Word
  tinfo : Word
  /-- TNPC is the successor of the trapping instruction as the part computed it, not a value that software wrote (02 R52). -/
  tnpcSeq : Bool
  /-- The rotation (RB, WIN) under which the trapping instruction wrote, WIN 0 for none. -/
  rb : Nat
  win : Nat
  /-- The trapping instruction was direct-class (R332). -/
  direct : Bool
  saved : Option Saved
deriving DecidableEq, Repr

/-- The supervisor frame (19 R422, R423). -/
structure SupFrame where
  scause : Word
  spc : DWord
  snpc : DWord
  smask : Word
  sact : Word
  sdest : Word
  sva : Store 64
  sinfo : Word
  held : Word
  /-- The cause the trap was taken for, which a write of SCAUSE does not change (02 R68). -/
  cause : Nat
  /-- SPC is an address that sequential flow reached; SNPC is the successor that the part computed (02 R52). -/
  spcSeq : Bool
  snpcSeq : Bool
  /-- The operation whose held fault the handler was entered for (08 R193). -/
  heldOp : Option Nat
  saved : Option Saved
deriving DecidableEq, Repr

/-- What a split holds as a handler: its LEVEL and its trap frames (06 R147, 14 R324, 19 R422). -/
structure Handler where
  level : Nat
  user : UserFrame
  sup : SupFrame
deriving DecidableEq, Repr

/-- An entry of the reconvergence stack (06 R136, 07 R159). It also keeps the LEVEL and trap frames of the split that pushed it,
as a division copies them (14 R324, R147; assumption 14). A loop record holds the call depth at which its loop was declared. -/
inductive StackEntry where
  | path (pc : DWord) (seq : Bool) (mask : Word) (jaddr : DWord) (frame : Frame) (hd : Handler)
  | join (jaddr : DWord) (expect arrived : Word) (frame : Frame) (hd : Handler) (loop : Option Nat)
deriving DecidableEq, Repr

/-- Why a split stalls: no voluntary switch, its latches stay valid, the instruction issues when the stall ends. -/
inductive Stall where
  /-- A fetch waits for a translation or a line fill (07 R176, 19 R418). -/
  | fetch
  /-- Lanes wait for translations (09 R208). -/
  | xlat
  /-- Earlier operations of the warp must complete first (10 R233, 11 R254). -/
  | drain
  /-- A counter stands at 63 (08 R183). -/
  | counter
  /-- Engine-owned granules (08 R180). -/
  | granules
  /-- The copy engine's or the matrix engine's queue is full, or the bypass slot is another's (08 R189, 12 R265, R278). -/
  | engine
  /-- A handover of the stack is in progress (20 R441). -/
  | handover
  /-- A back-invalidation of a host-held half is outstanding (22 R474). -/
  | snoop
  /-- Nine incomplete batches (12 R276). -/
  | batch
  /-- An acquire load of the split has not completed (09 R215). -/
  | acquire
  /-- TLBINV and DHARV have removed or harvested; accesses of operations below a number must still be performed (19 R433). -/
  | tlb (before : Nat)
  /-- Graph, stream or power resources (16, 24 R488). -/
  | unit
deriving DecidableEq, Repr

/-- The instruction that a split waits at, as a trap taken there names it: its execution mask, U, and destination (19 R423). -/
structure WaitAt where
  em : Word
  uni : Bool
  dest : Word
deriving DecidableEq, Repr

/-- What a split waits for. -/
inductive Wait where
  | ready
  | stall (why : Stall)
  /-- WAITC above its threshold (08 R185). -/
  | counter (path : Path) (thr : Nat)
  /-- A blocked local push with the scope it released at, none on an unbound queue, and its lanes' values (08 R198). -/
  | push (q : Nat) (sc : Option Nat) (vals : List (Nat × Word)) (at_ : WaitAt)
  /-- A blocked pop with its lanes and the number under which its result is due (08 R199, 03 R95). -/
  | pop (q : Nat) (lanes : List Nat) (slot : Nat) (at_ : WaitAt)
  /-- MWAIT on operations (12 R288). -/
  | matrix (ops : List Nat)
  /-- SERVED asleep: dispenser, its place's scope, the ticket (11 R258). -/
  | served (pa : Nat) (scope : Nat) (ticket : DWord)
  /-- WAITMON asleep, its result due under a number (11 R260, 03 R95). -/
  | monitor (pa : Nat) (scope cond ty slot : Nat) (b : DWord) (deadline : Option Nat) (at_ : WaitAt)
  /-- ORDBEGIN waiting for the sections of lanes (13 R302). -/
  | ordered (lanes : Word)
  /-- EMIT counted and waiting for space in its ring: its operation (13 R316). -/
  | ring (op : Nat) (at_ : WaitAt)
deriving DecidableEq, Repr

/-- A resolved translation failure a split has still to take (19 R418): page number, fetch or data, sub-cause. -/
structure XFail where
  page : Nat
  fetch : Bool
  sub : Nat
deriving DecidableEq, Repr

/-- A split-table entry (06 R134). -/
structure Split where
  pc : DWord
  /-- PC is the successor of an instruction (02 R52), so a pad unit at it is passed over, never a bad target. -/
  seq : Bool
  mask : Word
  frame : Frame
  latches : Latches
  level : Nat
  /-- Age: a smaller number is older (03 R90). -/
  age : Nat
  wait : Wait
  user : UserFrame
  sup : SupFrame
  xfails : List XFail
deriving DecidableEq, Repr

/-! ### Counted operations -/

/-- One lane's part of a global access: lane, virtual address, and the name of its first byte as a column holds it: physical address
(an Electrum view's word by R453) under its virtual line (10 R222, R236). -/
structure LaneAddr where
  lane : Nat
  va : DWord
  pa : Nat
deriving DecidableEq, Repr

/-- A copy in hand (08 R190, R191): direction 0 CPY, 1 CPYO, 2 CPYR. -/
structure Copy where
  dir : Nat
  global : DWord
  gpitch : Int
  /-- Scratchpad side: source offset (CPYO, CPYR) or destination offset (CPY). -/
  soff : Nat
  spitch : Nat
  /-- CPYR: target workgroup's index in the gang, destination offset and pitch. -/
  target : Nat
  doff : Nat
  dpitch : Nat
  rows : Nat
  rowbytes : Nat
  esize : Nat
  na : Bool
  /-- Rows already written. -/
  done : Nat
  /-- Of the row in hand: the bytes read so far from global memory, or those still to be written there (10 R237). -/
  buf : List Byte := []
  started : Bool
deriving DecidableEq, Repr

/-- What an uncompleted operation still has to do. -/
inductive OpBody where
  /-- A load: lanes still to be read, size in bytes, type code, no-allocate, acquire scope (5: none). -/
  | load (lanes : List LaneAddr) (size ty : Nat) (na : Bool) (acq : Nat)
  /-- A scratchpad result already read from the banks: the data words of every lane and their poison (08 R179, 26 R502). -/
  | words (vals : List (Nat × List Word × Nat))
  /-- A result that the wait of the issuing split will bring: WAITMON's and QPOP.uni's g words (03 R95). -/
  | slot
  /-- A store: bytes still to be written in lane order, release scope (5: none), no-allocate. -/
  | store (bytes : List (Nat × Byte)) (rel : Nat) (na : Bool)
  /-- An atomic: lanes still to be applied, type, operation (9: compare and swap), operands and second operands, place scope,
  acquire scope (5: none), and the lines that the home has read for it and not yet written (10 R241): data and poison. -/
  | atomic (lanes : List LaneAddr) (ty aop : Nat) (b c : List (Nat × DWord)) (scope acq : Nat) (taken : Tab (BitVec 1024 × Nat))
  /-- A scratchpad atomic: lanes still to be applied at their offsets, type, operation, operands, acquire scope (11 R244,
  R247). -/
  | atomLocal (offs : List (Nat × Nat)) (ty aop : Nat) (b c : List (Nat × DWord)) (acq : Nat)
  /-- TICKET at a dispenser (11 R258). -/
  | ticket (pa scope : Nat)
  /-- ADVANCE at a dispenser (11 R258). -/
  | advance (pa scope : Nat)
  /-- CLEAN and INVAL of a range (09 R218). -/
  | clean (base : DWord) (len : Nat) (inval icache : Bool)
  | copy (c : Copy)
  /-- LDR: lane addresses in the cluster window, size, type (08 R188). -/
  | ldr (offs : List (Nat × Nat)) (size ty : Nat)
  /-- STR: bytes at addresses in the cluster window, in lane order (08 R188, 15 R336). -/
  | str (bytes : List (Nat × Byte))
  /-- Remote push: target workgroup index, queue, values, .try, whether it arrived and waits there (08 R198). -/
  | push (target q : Nat) (vals : List Word) (try_ : Bool) (arrived : Bool)
  /-- TLDT: attachment, lane sample offsets, names (13 R298). -/
  | tldt (att : Nat) (offs : List (Nat × Nat)) (names : Nat)
  /-- TSTT, performed in order at its event (13 R297, R298): byte writes, blend and fallback data. -/
  | tstt (att : Nat) (offs : List (Nat × Nat)) (data : List (Nat × BitVec 128)) (blend : Bool)
  /-- SAMPLE and SAMPLEG (13 R308): words of A, descriptor words, F. -/
  | sample (lanes : List Nat) (a : List (Nat × List Word)) (desc : List (Nat × Word)) (f : Nat) (grad : Bool)
      (img smp : DWord) (quads : Word)
  /-- TFETCH (13 R309). -/
  | tfetch (lanes : List Nat) (a : List (Nat × List Word)) (desc : List (Nat × Word)) (img : DWord)
  /-- ISTORE (13 R309), with the bytes that its descriptors named at issue, as locations and lengths (09 R213). -/
  | istore (lanes : List Nat) (a data : List (Nat × List Word)) (desc : List (Nat × Word)) (img : DWord)
      (runs : List (Nat × Nat))
  /-- TRACE (13 R315): rays, roots, masks, record addresses, K, F. -/
  | trace (lanes : List Nat) (rays : List (Nat × List Word)) (root : List (Nat × DWord)) (rmask : List (Nat × Word))
      (rec : List (Nat × DWord)) (k f : Nat)
  /-- EMIT: graph, resource ring, records, depth (13 R316). -/
  | emit (graph ring : Nat) (recs : List (BitVec 512)) (depth : Nat)
  /-- VOUT, accepted at its event: nothing left to do but count (13 R317). -/
  | vout
deriving DecidableEq, Repr

/-- A counted operation that has not completed, or an interlocked scratchpad result (path none). -/
structure PendOp where
  id : Nat
  path : Option Path
  /-- The lanes of the split that issued it, and those that have merged with them since: accesses of these lanes follow it in
  program order (06 R141, 10 R224). -/
  mask : Word
  /-- Everything done; it counts until the older ones of its path complete (08 R183). -/
  done : Bool
  dsts : List DstWord
  /-- The granules its engine owns, by workgroup (08 R180). -/
  granules : List (Nat × Nat)
  /-- Token regions whose token its writes need (20 R449). -/
  toks : List Nat
  held : Option HeldFault
  /-- Issued below LEVEL 2: its unit's accesses are a user's. -/
  user : Bool
  /-- Translation failures that its unit's accesses have met (19 R418). -/
  xfails : List XFail
  body : OpBody
deriving DecidableEq, Repr

/-- A translation base (09 R204). -/
structure TBase where
  bound : Bool
  vbase : DWord
  pbase : Nat
  limit : Nat
  perm : Nat
  cls : Nat
  reach : Nat
  home : Nat
  creg : Nat
  token : Bool
  /-- First address and size of the page it was bound from. -/
  page : Nat × Nat
deriving DecidableEq, Repr

/-- An operand map's descriptor (12 R270), decoded. -/
structure MapDesc where
  base : Nat
  pitch : Nat
  soff : Nat
  rows : Nat
  cols : Nat
  ty : Nat
  sparse : Bool
  swz : Nat
  scl : Bool
deriving DecidableEq, Repr

/-- The stage a warp runs in (13 R291). -/
inductive Stage where
  | compute
  /-- A task of a TILE, TRACE, RECORD or FULL pass. -/
  | graph
  | rasterTile
  | rasterVertex
  | rasterFragment
deriving DecidableEq, Repr

/-- What a fragment lane shades (13 R296, 17 R383): tile position, sample, coverage, primitive, facing, sequence. -/
structure FragLane where
  x : Nat
  y : Nat
  smp : Nat
  cover : Nat
  prim : Nat
  front : Bool
  seq : Nat
  depth : List (Nat × Word)
  holds : Bool
deriving DecidableEq, Repr

/-- The outputs of a vertex lane (13 R317). -/
structure VertexOut where
  pos : Option (List Word)
  attrs : Tab (List Word)
  prim : Word
deriving DecidableEq, Repr

/-- The bypass slot of an engine (12 R278). -/
structure Bypass where
  holder : Option Nat
  ty : Nat
  rows : Nat
  cols : Nat
  data : Store 64
deriving DecidableEq, Repr

/-- A warp (06 R131, R133). -/
structure Warp where
  wg : Nat
  gang : Nat
  ctx : Nat
  core : Nat
  part : Nat
  slot : Nat
  index : Nat
  gangIndex : DWord
  vregs : Nat
  accs : Nat
  walker : Bool
  halted : Bool
  /-- Stopped for a save or a migration: issues nothing (18 R396). -/
  stopping : Bool
  stage : Stage
  task : Option Nat
  recDepth : Nat
  v : Store 32
  g : Store 32
  o : Store 32
  /-- Poison marks of v, g and o words (09 R216, 26 R502): 1 data error, 2 codec, 3 register error. -/
  pv : Tab Nat
  pg : Tab Nat
  po : Tab Nat
  fpstat : Word
  fptrap : Word
  utvec : DWord
  usave : Word
  ssave : Word
  callspill : Word
  splits : Tab Split
  stack : List StackEntry
  pend : List PendOp
  tbs : Tab TBase
  maps : Tab MapDesc
  kinds : Tab Nat
  acc : Store 32
  bseq : Nat
  /-- Operations of the open batch; closed batches that are not complete, with their operations (12 R276). -/
  openOps : List Nat
  closed : List (Nat × List Nat)
  /-- Held faults of abandoned matrix operations, oldest first: operation and fault (12 R279). -/
  abandoned : List (Nat × HeldFault)
  frags : Tab FragLane
  vout : Tab VertexOut
  voutDone : Bool
  /-- Its engine's bypass slot while the warp is saved (12 R266). -/
  bypass : Option Bypass
deriving DecidableEq, Repr

/-! ### Workgroups, gangs, cores -/

/-- A queue entry (08 R194, R195): header offset, ring tags, and who waits, first arrived first (warp, split entry; or
warp, operation for a remote push). -/
structure QueueEntry where
  bound : Bool
  header : Nat
  tags : Tab Nat
  pushers : List (Nat × Nat × Bool)
  poppers : List (Nat × Nat)
  /-- Local pushes whose release has begun, which check 4 of QINIT counts as waiting (R198): warp, split entry. -/
  releasing : List (Nat × Nat) := []
deriving DecidableEq, Repr

/-- A flip of a granule's owner bit that cores of the cluster may not have seen (08 R181): the granule, whether to engine, when, and
who has seen it. -/
structure Flip where
  granule : Nat
  engine : Bool
  time : Nat
  seen : List Nat
deriving DecidableEq, Repr

/-- A workgroup (06 R131): its place, its scratchpad, its granule owner bits, its queues. -/
structure Workgroup where
  gang : Nat
  index : Nat
  core : Nat
  alloc : Nat
  firstGranule : Nat
  sp : Memory
  /-- Bytes of words that hold an uncorrectable error (26 R500). -/
  bad : List Nat := []
  /-- Granules whose owner bit reads engine (08 R180). -/
  engine : List Nat
  /-- The flips that are not yet in the copies of every core of the cluster, oldest first (08 R181). -/
  flips : List Flip := []
  qcount : Nat
  queues : Tab QueueEntry
  warps : List Nat
  placedAt : Nat
deriving DecidableEq, Repr

/-- The values of a kernel descriptor or LAUNCH record, bytes 8 to 55 (16 R347). -/
structure Kernel where
  entry : DWord
  args : DWord
  grid : Nat
  vregs : Nat
  warps : Nat
  gang : Nat
  scratch : Nat
  accs : Nat
  qcount : Nat
  grotto : Nat
  coop : Bool
  die : Nat
  callspill : Nat
  handler : DWord
deriving DecidableEq, Repr

/-- Where a gang comes from: a launch, or a task of a graph. -/
inductive GangSource where
  | launch (id : Nat)
  | task (id : Nat)
deriving DecidableEq, Repr

/-- A gang in being, placed or saved (06 R131, 18 R395 to R401). -/
structure Gang where
  source : GangSource
  ctx : Nat
  cls : Nat
  index : DWord
  kernel : Kernel
  die : Nat
  wgs : List Nat
  /-- The record's slot and sequence number, for logs. -/
  slot : Nat
  seq : Nat
  started : Nat
  /-- Column-class pages placed for it: frame and PTEPA (20 R447). -/
  pages : List (Nat × Nat)
  /-- Being stopped for a save; saved: order of saving. -/
  victim : Bool
  /-- The class-0 request that it makes room for, and which victim of that it belongs to (18 R395, R398). -/
  victimOf : Nat × Nat
  victimAt : Nat
  saved : Option Nat
  copied : Bool
  /-- Its place in the save area: directory entry, first chunk, chunks (18 R399). -/
  chunk : Option (Nat × Nat × Nat)
  /-- What its waiting has brought about while saved (18 R390). -/
  blocking : Bool
  promoted : Bool
deriving DecidableEq, Repr

/-- A 128-byte line with its data, dirty bytes, poison of the others (0 none; 1 data error, 2 codec), the CXL.cache states of its halves for a host line
(0 I, 1 S, 2 E, 3 M) (09 R209, 22 R477). -/
structure Line where
  data : BitVec 1024
  dirty : BitVec 128
  poison : Nat
  h0 : Nat
  h1 : Nat
  /-- Bytes of words that hold an uncorrectable error (26 R500). -/
  bad : BitVec 128 := 0
deriving DecidableEq, Repr

/-- A TLB entry (19 R417): base virtual page number of 4 KiB, size code, leaf value, PTEPA, A and D, last use. -/
structure TlbEntry where
  ctx : Nat
  vpn : Nat
  size : Nat
  leaf : BitVec 64
  ptepa : Nat
  a : Bool
  d : Bool
  used : Nat
deriving DecidableEq, Repr

/-- A fill of an instruction line (07 R176): physical line, hint or demand. -/
structure Fill where
  line : Nat
  hint : Bool
  /-- Requested before an invalidation reached the core: not installed (09 R219). -/
  stale : Bool
  /-- Operations numbered below this were issued before it. -/
  before : Nat
deriving DecidableEq, Repr

/-- A line that PREF has asked a column for (09 R217): its key there, whether with write intent, and REACH of its page. -/
structure Prefetch where
  key : Nat
  write : Bool
  reach : Bool
deriving DecidableEq, Repr

/-- A matrix operation in an engine's queue (12 R282 to R286). -/
structure MatrixOp where
  warp : Nat
  id : Nat
  /-- 0 MMA, 1 MMAS, 2 MZERO, 3 MLDA, 4 MDRAIN, 5 MBYP. -/
  kind : Nat
  acc : Nat
  shape : Nat
  mo : Nat
  no : Nat
  mapA : Option MapDesc
  mapB : Option MapDesc
  bypass : Bool
  tileKind : Nat
  ty : Nat
  scale : Option Word
  clamp : Option Word
  relu : Bool
  granules : List Nat
  releases : Bool
  started : Bool
  readDone : Bool
  failed : Bool
deriving DecidableEq, Repr

/-- A matrix engine (12 R265). -/
structure Engine where
  queue : List MatrixOp
  bypass : Option Bypass
  /-- Warps that have ended with operations still in the queue (06 R146; assumption 40). -/
  ended : Tab Warp
deriving DecidableEq, Repr

/-- What belongs to a core. -/
structure Core where
  lines : Tab Line
  icache : Tab (BitVec 1024)
  /-- Instruction lines that arrived with an uncorrectable error (26 R502). -/
  ibad : List Nat
  fills : List Fill
  itlb : List TlbEntry
  l1 : List TlbEntry
  /-- Copies of the core in issue order: warp and operation; the first 16 run (08 R189). -/
  copies : List (Nat × Nat)
  /-- Texture-cache lines, the versions of each that it still holds, newest first (10 R235). -/
  tex : Tab (List (BitVec 1024))
  /-- Grotto reservation in 512 KiB units, by gang (16 R347). -/
  grotto : Tab Nat
  halfRate : Bool
  /-- Demand misses waiting for a fill slot, oldest first (07 R176). -/
  fillWait : List Nat
  /-- Lines prefetched and not yet brought in (09 R217). -/
  prefs : List Prefetch
  /-- When its column's temperature was last sampled (18 R408). -/
  sampled : Option Nat := none
deriving DecidableEq, Repr

/-! ### Translation and memory side -/

/-- A requester of a miss (19 R418): core, warp, split entry, the warp's gang, and for a hint the line that it asks for (07 R176). -/
structure Requester where
  core : Nat
  warp : Nat
  entry : Nat
  gang : Nat := 0
  line : Nat := 0
deriving DecidableEq, Repr

/-- A miss-queue entry (19 R417, R418). -/
structure Miss where
  ctx : Nat
  page : Nat
  fetch : Bool
  write : Bool
  hint : Bool
  user : Bool
  claim : Option Nat
  stale : Bool
  order : Nat
  reqs : List Requester
deriving DecidableEq, Repr

/-- A Flowstone record without SEQ, which is its place (26 R507). -/
structure FlowRec where
  time : Nat
  event : Nat
  source : Nat
  ctx : Nat
  data : BitVec 128
deriving DecidableEq, Repr

/-- What belongs to a die. -/
structure Die where
  l2 : List TlbEntry
  /-- Index 0 to 63 to entry. -/
  miss : Tab Miss
  flow : Tab FlowRec
  written : Nat
  /-- Hot-page sampling (19 R428): requests since the last record. -/
  samples : Nat
  sampleIndex : Nat
  /-- Dispatcher: cluster that last received a gang, class turns: slot and gangs left (18 R390, R392). -/
  lastCluster : Option Nat
  turns : Tab (Nat × Nat)
deriving DecidableEq, Repr

/-- The owner record of a stack (20 R438); owner 2 means none. -/
structure Owner where
  hseq : Word
  target : Nat
  pend : Bool
  owner : Nat
deriving DecidableEq, Repr

/-- A handover in progress (20 R442). -/
structure Handover where
  step : Nat
  src : Nat
  dst : Nat
  word : Option Nat
  /-- The HANDOVER-after pass whose consumers step 7 marks releasable (20 R446). -/
  pass : Option (Nat × Nat)
  /-- Operations numbered below this were admitted before its step 1. -/
  before : Nat
deriving DecidableEq, Repr

/-- A token region (20 R449): holder none means home. -/
structure Region where
  /-- The context by whose tables TOKDEF translated it. -/
  ctx : Nat
  base : DWord
  pbase : Nat
  k : Nat
  holder : Option Nat
  /-- The cores whose bit is set, with the time at which it was. -/
  waiting : Tab Nat
  /-- Timer value of the holder's last write. -/
  lastWrite : Nat
deriving DecidableEq, Repr

/-- An Electrum region with its counters (21 R452, R465). -/
structure ElRegion where
  vbase : DWord
  size : Nat
  rpa : Nat
  bud : Nat
  twoD : Bool
  pitch : Nat
  deleting : Bool
  encodes : BitVec 64
  drift : Word
  errmax : Word
deriving DecidableEq, Repr

/-- An error-address table entry (26 R503). -/
structure ErrEntry where
  line : Nat
  mask : BitVec 128
deriving DecidableEq, Repr

/-- A stack's home slice and base die. -/
structure StackHome where
  owner : Owner
  handover : Option Handover
  /-- Handovers of Galena that wait for the present one to end (16 R370): target and pass. -/
  next : List (Nat × Nat × Nat)
  errors : List ErrEntry
  failed : Bool
  /-- Contexts admitted since the last cold start (26 R504). -/
  admitted : Word
  /-- The stack has failed, and the contexts admitted to it are still to be killed (26 R504). -/
  killing : Bool
deriving DecidableEq, Repr

/-! ### Streams and graphs -/

/-- The progress of a stream record (16 R344). -/
inductive RecState where
  | fetched
  | running
  /-- A WAIT with its deadline and the physical address it watches (R350). -/
  | waiting (deadline : Option Nat) (pa : Nat)
  /-- A SIGNAL whose release waits on the host (R349); a GRAPH that waits for scoreboard space (R357). -/
  | pendingLoad
  | finished (code detail index : Nat)
deriving DecidableEq, Repr

/-- A fetched stream record: sequence number, its 64 bytes. -/
structure StreamRec where
  seq : Nat
  bytes : BitVec 512
  st : RecState
deriving DecidableEq, Repr

/-- A stream slot (16 R340 to R344). -/
structure Slot where
  enabled : Bool
  qbase : DWord
  qcap : Nat
  ctx : Nat
  cls : Nat
  devappend : Bool
  weight : Nat
  tailaddr : DWord
  doneaddr : DWord
  done : Nat
  fetched : Nat
  tail : Nat
  errseq : Nat
  errtag : Word
  errcode : Word
  errcount : Word
  recs : List StreamRec
deriving DecidableEq, Repr

/-- A launch in being (16 R348): its next gang and its gangs not retired. -/
structure Launch where
  kernel : Kernel
  ctx : Nat
  cls : Nat
  slot : Nat
  seq : Nat
  next : Nat
  live : Nat
  /-- The die its head gang holds (18 R389), and since when it waits. -/
  headDie : Option Nat
  since : Nat
  blocking : Bool
  promoted : Bool
  failed : Option Nat
deriving DecidableEq, Repr

/-- A resource of a graph (16 R355). -/
structure Resource where
  format : Nat
  stack : Bool
  overflow : Bool
  ts : Nat
  width : Nat
  height : Nat
  ringcap : Nat
  backing : DWord
  rva : DWord
  producer : Option Nat
deriving DecidableEq, Repr

/-- An edge of a graph (16 R356). -/
structure EdgeRec where
  res : Nat
  nx : Nat
  dx : Nat
  ny : Nat
  dy : Nat
  dx0 : Int
  dx1 : Int
  dy0 : Int
  dy1 : Int
  skip : Bool
deriving DecidableEq, Repr

/-- A pass of a graph (16 R354) and its progress. kind: 1 RASTER, 2 TILE, 3 TRACE, 4 RECORD, 5 FULL. -/
structure Pass where
  kind : Nat
  part : Nat
  handover : Bool
  spill : Bool
  maxdepth : Nat
  kernel : Option Kernel
  gx : Nat
  gy : Nat
  tgangs : Nat
  ins : List Nat
  outs : List Nat
  hostack : Nat
  rstate : Nat
  args : DWord
  ring : Nat
  die : Nat
  /-- The RASTER state record's bytes (17 R373). -/
  rbytes : Memory
  vkernels : List Kernel
  fkernels : List Kernel
  /-- Tiles whose task has been taken; tiles retired. -/
  taken : List Nat
  retired : List Nat
  finished : Bool
  /-- A HANDOVER-after pass: consumers on the other die may be released (16 R370). -/
  crossed : Bool
deriving DecidableEq, Repr

/-- A scoreboard entry (16 R359). -/
structure Score where
  produced : Bool
  aborts : Nat
  remaining : Nat
deriving DecidableEq, Repr

/-- A record in a record ring (16 R367): depth and bytes, and how often a gang that took it was aborted (R365). -/
structure RingRec where
  depth : Nat
  bytes : BitVec 512
  aborts : Nat := 0
deriving DecidableEq, Repr

/-- Work of a graph that a die may place. -/
inductive Work where
  /-- The next gang of a task that has started. -/
  | gang (task : Nat)
  /-- An aborted task starts again (16 R365). -/
  | again (task : Nat)
  /-- A tile of a pass starts. -/
  | tile (pass tile : Nat)
  /-- A gang of records (16 R367). -/
  | recs (pass : Nat)
  /-- A vertex gang, by its place among those of the pass (17 R376). -/
  | vertex (pass index : Nat)
deriving DecidableEq, Repr

/-- A tile slot that is being freed (23 R486): its key in the ring, its frame, bytes and core; accesses of operations below a number were
admitted while it was mapped. -/
structure Freeing where
  key : Nat
  frame : Nat
  size : Nat
  core : Nat
  before : Nat
deriving DecidableEq, Repr

/-- A loaded graph (16 R353 to R370). score and ring slots are keyed by resource and tile: res * 2^26 + tile. -/
structure Graph where
  slot : Nat
  seq : Nat
  ctx : Nat
  cls : Nat
  args : DWord
  header : DWord
  loaded : Bool
  passes : List Pass
  ress : List Resource
  edges : List EdgeRec
  score : Tab Score
  /-- Transient tile slots: key to Grotto frame and core. -/
  slots : Tab (Nat × Nat)
  freeing : List Freeing := []
  /-- Record rings by resource. -/
  rings : Tab (List RingRec)
  /-- Records of a ring that have gone to its BACKING so far, by resource (16 R368). -/
  spilled : Tab Nat
  /-- The code and detail of its failure (16 R346, 26 R502). -/
  failed : Option (Nat × Nat)
  /-- What of it is ready and not placed, since when; what of that blocks lower classes; what is promoted (18 R390). -/
  waits : List (Work × Nat)
  blocking : List Work
  promoted : List Work
deriving DecidableEq, Repr

/-- A primitive after set-up (17 R377, R378): window vertices in 1/256 pixel, clip positions and attributes of its three
vertices, facing, primitive ID. -/
structure Prim where
  xs : List Int
  ys : List Int
  pos : List (List Word)
  attrs : List (List (List Word))
  swapped : Bool
  front : Bool
  id : Nat
deriving DecidableEq, Repr

/-- A fragment of a tile in sequence (17 R381): pixel, coverage, primitive index; shaded, section held or released, late
tests due. -/
structure Frag where
  seq : Nat
  x : Nat
  y : Nat
  smp : Option Nat
  cover : Nat
  prim : Nat
  /-- 0 rasterised, 1 in a warp, 2 its lane ended (late test due), 3 done. -/
  st : Nat
  discarded : Bool
  holds : Bool
  released : Bool
deriving DecidableEq, Repr

/-- The raster state of a pass: the sub-pass whose batches the front end takes, its next batch, the count of primitives accepted,
the primitives set up by sub-pass in sequence order, vertex gangs dispatched over all sub-passes (17 R376, R380). -/
structure RasterPass where
  graph : Nat
  pass : Nat
  sub : Nat
  /-- Batches handed over and not taken: sub-pass * 2^48 + batch number to the lanes' outputs (17 R376). -/
  batches : Tab (Tab VertexOut)
  nextBatch : Nat
  accepted : Nat
  prims : Tab (List Prim)
  /-- Bytes of bin memory in use; a bin flush is under way; primitives of the sub-pass that flushes have let tiles rasterise (17 R380). -/
  binned : Nat
  flushing : Bool
  flushed : Nat
  vnext : Nat
deriving DecidableEq, Repr

/-- A tile task (16 R362 to R366), or a record gang (R367). -/
structure Task where
  graph : Nat
  pass : Nat
  tile : Nat
  gangs : List Nat
  left : Nat
  pinned : Bool
  /-- Its uncommitted lines are being committed before an irrevocable operation (10 R239): it is pinned once they are. -/
  pinning : Bool
  /-- 0 ready, 1 running, 2 committing. -/
  st : Nat
  core : Option Nat
  recs : List RingRec
  /-- Raster: current sub-pass, next primitive, tile memory, fragments, phase (0 sub-passes, 1 tile kernel, 2 store, 3 a task that
  stands for a vertex gang, which is not a tile task). -/
  sub : Nat
  tm : Memory
  frags : List Frag
  nextSeq : Nat
  phase : Nat
  rastered : Bool
  /-- Primitives of the sub-pass rasterised so far (17 R380). -/
  drawn : Nat
  since : Nat
  /-- Aborts so far (16 R365). -/
  aborts : Nat
deriving DecidableEq, Repr

/-! ### The outside -/

/-- A display head's run (22 R482, R483): what BAR0 does not hold. FLIPs started: slot, sequence, surface, pitch, format,
context. -/
structure Head where
  enabled : Bool
  vbcount : Word
  lastflip : DWord
  surface : DWord
  pitch : Nat
  format : Nat
  ctx : Nat
  flips : List (Nat × Nat × DWord × Nat × Nat × Nat)
deriving DecidableEq, Repr

/-- A back-invalidation (22 R474): line, half, whether it invalidates, who asked for it (11 R248), and whether the host has answered it,
after which the request of who asked goes before the host's own (R475). -/
structure Snoop where
  line : Nat
  half : Nat
  inv : Bool
  asker : Nat
  answered : Bool := false
deriving DecidableEq, Repr

/-- A request that waits at a home slice for its line: of the host (22 R475, R476), or of a unit of the part on a die, which writes bytes, ORs
the A and D bits of a TLB entry into its word (19 R425), or replaces the FRAME of a word that still holds a given one (20 R447). -/
inductive HomeReq where
  | hostRead (pa : Nat) (exclusive : Bool)
  | hostWrite (pa : Nat) (mask : BitVec 64) (data : BitVec 512)
  | put (die : Nat) (bytes : List (Nat × Byte))
  | harvest (die ptepa : Nat) (leaf : BitVec 64) (a d : Bool)
  | frame (die ptepa old new : Nat)
deriving DecidableEq, Repr

/-- What the part has sent over the link: the answer to a host read, with no data for poison (22 R469, R476), a half of host memory supplied
to a snoop, or evicted with its bytes or clean (R477), bytes and atomics for a peer's memory (R480, R481), and the pixels of a line that a display head shows
(R483). -/
inductive Sent where
  | read (pa : Nat) (data : Option (BitVec 512))
  | snooped (pa : Nat) (data : BitVec 512)
  | dirtyEvict (half : Nat) (data : BitVec 512)
  | cleanEvict (half : Nat)
  | peer (bytes : List (Nat × Byte))
  /-- An atomic asked of a peer: address, type, operation and operands (R481). -/
  | peerAtomic (pa ty aop : Nat) (b c : DWord)
  | scan (head line : Nat) (pixels : List Byte)
deriving DecidableEq, Repr

/-- The start phases of the part (25 R494): waiting for LOADFW at step 4, waiting again after a failed verification, running. -/
inductive Phase where
  | awaitFirmware
  | verifyFailed
  | running
deriving DecidableEq, Repr

/-- An ML-DSA-87 key pair: the seed that generates it, its public key, its certificate (25 R497). The private key is what key generation makes
of the seed. -/
structure KeyPair where
  seed : List Byte
  pub : List Byte
  cert : List Byte
deriving DecidableEq, Repr

/-- The identity keys: device identity key and alias key (25 R497). -/
structure Identity where
  device : KeyPair
  alias_ : KeyPair
deriving DecidableEq, Repr

/-- An answer of the SPDM responder (25 R498), by what the spec has it say; its layout is SPDM's. -/
inductive SpdmAns where
  | error (code data : Nat)
  | version
  | capabilities
  | algorithms
  | digests (slot0 : BitVec 512)
  | certificate (portion : List Byte) (left : Nat)
  | challenge (chain : BitVec 512) (signature : List Byte)
  | measurements (count : Nat) (blocks : List (Nat × List Byte)) (signature : List Byte)
deriving DecidableEq, Repr

/-- The management unit (25). -/
structure Mgmt where
  phase : Phase
  warmPending : Bool
  lastWarm : Bool
  warms : Nat
  image : Memory
  /-- A word of the image region has an uncorrectable error that the region's check has not met yet (25 R495). -/
  imageBad : Bool
  retained : Bool
  measure : BitVec 512
  svn : Nat
  status : DWord
  arg0 : DWord
  arg1 : DWord
  data : Memory
  go : Bool
  /-- The host buffer of a RESYNC that waits for a warm start to complete (25 R499). -/
  resync : Option Nat
  /-- A DEBUGRD waits for its bytes at their home (24 R491). -/
  debugging : Bool
  /-- The SPDM requests answered, with their answers, oldest first (25 R498). -/
  spdm : List ((Nat × List Byte) × SpdmAns)
  /-- SPDM requests that wait for a start to complete its step 6: code and bytes (25 R498). -/
  spdmWait : List (Nat × List Byte)
  /-- The identity keys, once step 6 of a start has derived them (25 R497). -/
  identity : Option Identity
  /-- The spare maps that the last start applied: unit code and spares (26 R506). -/
  spares : List (Nat × Nat)
  corr : BitVec 64
  uncorr : BitVec 64
  /-- The time of each unit's last 0x100 record, and corrections since. -/
  corrLast : Tab (Nat × Nat)
deriving DecidableEq, Repr

/-- What a context keeps in the part besides its window blocks (18 R405, 22 R472). -/
structure Context where
  ptroot : DWord
  stvec : DWord
  walkentry : DWord
  harvest : Word
  event : Word
  /-- Timer value since which the watchdog's conditions hold; since which all of a parked context's warps are blocked. -/
  wdSince : Option Nat
  xwSince : Option Nat
  xwDone : Bool
  harvestLast : Nat
  killed : Bool
deriving DecidableEq, Repr

/-- The units that take instructions in a partition (03 R91). -/
inductive IssueUnit where
  | pipeA | pipeB | fp64 | transcendental | scalar | memory | engine
deriving DecidableEq, Repr

/-- The first pick of a ck (03 R90): the split, where it runs, the units and the register words its instruction takes (R81, R91), its
warp's g registers as they stood at the start of the ck (02 R57), and the number below which operations were issued before it. -/
structure Picked where
  warp : Nat
  entry : Nat
  core : Nat
  part : Nat
  units : List IssueUnit
  reads : List RegName
  g : Store 32
  before : Nat
deriving DecidableEq, Repr

/-- Which split issues: warp and split-table entry. -/
structure Cur where
  warp : Nat
  entry : Nat
  /-- The g registers as they stood at the start of the ck, for the second pick of a ck (02 R57). -/
  g : Option (Store 32) := none
deriving DecidableEq, Repr

/-- Where an uncorrectable error arises in a 64-bit word, or in a register word (26 R500, R502). -/
inductive Site where
  /-- A register word of a warp. -/
  | reg (warp : Nat) (r : RegName) (lane : Nat)
  /-- Word n of a line in a core's column. -/
  | column (core key n : Nat)
  /-- Word n of a line in a cluster unit. -/
  | unit (cluster key n : Nat)
  /-- Word n of a line of memory: a stack's, a Grotto page's, the host's. -/
  | memory (line n : Nat)
  /-- Word n of a workgroup's scratchpad. -/
  | scratch (wg n : Nat)
  /-- A line of a core's instruction cache. -/
  | code (core key : Nat)
  /-- A word of the image region (25 R495). -/
  | image
deriving DecidableEq, Repr

/-- Who moves next (assumption 1). -/
inductive Act where
  /-- An event of a unit, the host or the environment. -/
  | event (i : Instr)
  /-- A split issues, as the first pick of its partition (03 R90). -/
  | issue (warp entry : Nat)
  /-- A split issues as the second pick of the ck in which the last split issued (03 R90). -/
  | second (warp entry : Nat)
  /-- The supervisor, in the handler of a split, takes the default action of its cause: it kills the gang or the context (16 R348, R368,
  18 R407; assumption 32). -/
  | kill (warp entry : Nat)
  /-- A home slice serves a request that waits for a line, by its place in the queue. -/
  | home (n : Nat)
  /-- A column is served a line that was prefetched, by its place among the core's (09 R217). -/
  | prefetch (core n : Nat)
  /-- Tile slots of a graph whose freeing is done may be given to other tiles (23 R486). -/
  | tiles (graph : Nat)
  /-- An uncorrectable error arises in a word of the part's arrays (26 R500); it comes by the agenda only. -/
  | spoil (at_ : Site)
  /-- A debug read that waits at the home goes on (24 R491). -/
  | mailbox
deriving DecidableEq, Repr

/-- The state of the part. -/
structure State where
  warps : Tab Warp
  wgs : Tab Workgroup
  gangs : Tab Gang
  launches : Tab Launch
  graphs : Tab Graph
  tasks : Tab Task
  /-- Keyed graph * 256 + pass. -/
  rasters : Tab RasterPass
  slots : Tab Slot
  cores : Tab Core
  engines : Tab Engine
  /-- Cluster-unit lines (11 R245). -/
  clusters : Tab (Tab Line)
  dies : Tab Die
  homes : Tab StackHome
  /-- Memory behind physical addresses: stacks, Grotto pages, host memory. -/
  mem : Memory
  /-- Bytes of memory in words that hold an uncorrectable error, by physical line (26 R500). -/
  memBad : Tab (BitVec 128)
  /-- A tile task's uncommitted bytes in a core's column (10 R239): key task * 32 + core. -/
  taskBuf : Tab Memory
  regions : Tab Region
  electrum : Tab ElRegion
  /-- Host states of device-line halves, key 2 * line + half: 1 S, 2 E (22 R473). -/
  hostHalf : Tab Nat
  snoops : List Snoop
  /-- Requests that wait at the home slices, oldest first (11 R248, 22 R475). -/
  homeQ : List HomeReq
  /-- What has gone out over the link, oldest first (22 R469). -/
  sent : List Sent
  yields : Tab Nat
  /-- Requests that a home slice has refused, by line: requester and refusals, in the order of first refusal (11 R248). -/
  refusals : Tab (List (Nat × Nat))
  /-- Who asks the homes in this step: an operation or a warp by its number, 0 for another unit (11 R248). -/
  asker : Nat
  /-- Halves the CXL port unit holds in M for atomics (22 R478). -/
  port : List Nat
  /-- The BAR0 window's writable bytes (22 R471). -/
  win : Memory
  ctxs : Tab Context
  heads : Tab Head
  /-- The MSI-X vectors raised, each time one is, oldest first (22 R472). -/
  msix : List Nat
  mgmt : Mgmt
  linkFull : Bool
  /-- Power states (24 R487): 1 clock-gated, retention, self-refresh or low-power, 2 off or deep power-down; full power left out.
  Units are numbered: 4 core + quadrant for matrix engines, 96 + that for texture units, 192 + that for register layers, 288 + core
  for traversal units, 312 + core for column banks, 336 + core for cores, 360 + die for raster front ends, 362 + stack, 370 the UCIe
  link. -/
  power : Tab Nat
  /-- How far the power cap throttles (R489): 0 nothing, 1 matrix-engine starts, 2 issue also, 3 dispatch also. -/
  throttle : Nat
  clusterPre : Tab Nat
  /-- Workgroups chosen for migration, with the time, and whether the migration has started (18 R408, R409). -/
  moves : Tab (Nat × Bool)
  timer : Nat
  agenda : List Act
  cur : Option Cur
  /-- The first pick of the ck, where the last step was its issue (03 R90). -/
  picked : Option Picked
  /-- The count the free values are taken at (assumption 3). -/
  free : Nat
  nextId : Nat
deriving DecidableEq, Repr

/-- Why a step stops with a fault. -/
inductive Fault where
  /-- Raised by the issue of an instruction of the opcode map when the state names no issuing split, or the named split
  is no valid entry: safe, for on the part an instruction only exists as issued by a split (assumption 2). -/
  | noIssuingSplit
deriving DecidableEq, Repr

/-- Why a step is refused. -/
inductive Refusal where
  /-- Raised by exec for an instruction without a meaning: safe. -/
  | notModelled (mnemonic : String)
deriving DecidableEq, Repr

/-- The empty latches: none valid. -/
def Latches.empty : Latches := { data := [], valid := 0 }

/-- The user frame at warp start (14 R324). -/
def UserFrame.init : UserFrame :=
  { tcause := 0, tpc := 0, tnpc := 0, tmask := 0, tact := 0, tdest := 0x1FF, tinfo := 0, tnpcSeq := false, rb := 0, win := 0,
    direct := false, saved := none }

/-- The supervisor frame at warp start (19 R422). -/
def SupFrame.init : SupFrame :=
  { scause := 0, spc := 0, snpc := 0, smask := 0, sact := 0, sdest := 0x1FF, sva := [], sinfo := 0, held := 0,
    cause := 0, spcSeq := false, snpcSeq := false, heldOp := none, saved := none }

/-- A core with nothing in it. -/
def Core.init : Core :=
  { lines := [], icache := [], ibad := [], fills := [], itlb := [], l1 := [], copies := [], tex := [], grotto := [],
    halfRate := false, fillWait := [], prefs := [] }

/-- A die with nothing in it. -/
def Die.init : Die :=
  { l2 := [], miss := [], flow := [], written := 0, samples := 0, sampleIndex := 0, lastCluster := none, turns := [] }

/-- A home slice whose stack a die owns. -/
def StackHome.init (owner : Nat) : StackHome :=
  { owner := { hseq := 0, target := 0, pend := false, owner }, handover := none, next := [], errors := [], failed := false,
    admitted := 0, killing := false }

/-- A context as a cold start leaves it (18 R388, 19 R416). -/
def Context.init : Context :=
  { ptroot := 0, stvec := 0, walkentry := 0, harvest := 0xA, event := 0, wdSince := none,
    xwSince := none, xwDone := false, harvestLast := 0, killed := false }

/-- The seed of an identity key: the first 32 bytes of SHAKE256 over the fused secret and more bytes (25 R497). -/
def keySeed (more : List Byte) : List Byte := Keccak.shake256 (Config.fusedSecret ++ more) 32

/-- The n bytes of a number, lowest first. -/
def leBytes (n v : Nat) : List Byte := (List.range n).map fun k => BitVec.ofNat 8 (v / 2 ^ (8 * k))

/-- The signature of a message by the key of a seed, under a draw of randomness (25 R497). -/
def signBy (seed message : List Byte) (draw : Nat) : List Byte := Mldsa.sign (Mldsa.keygen seed) message (Config.signRandom draw)

/-- The identity keys derived (25 R497): the device identity key, and the alias key of a measurement and a security version, whose
certificate the device identity key signs. -/
def Identity.derive (measure : BitVec 512) (svn draw : Nat) : Identity :=
  let ds := keySeed [1]
  let as_ := keySeed (leBytes 64 measure.toNat ++ leBytes 4 svn ++ [2])
  let pub := (Mldsa.keygen as_).pub
  { device := { seed := ds, pub := (Mldsa.keygen ds).pub, cert := Config.deviceCert },
    alias_ := { seed := as_, pub, cert := Config.aliasBody pub ++ signBy ds (Config.aliasBody pub) draw } }

/-- The spare maps that the fuses give (26 R506). -/
def fusedSpares : List (Nat × Nat) := (List.range Config.fusedRepairs).map Config.fusedRepair

/-- The management unit after a completed cold start: the image's measure and version are not stated, 0 here
(assumption 6). -/
def Mgmt.init : Mgmt :=
  { phase := .running, warmPending := false, lastWarm := false, warms := 0, image := [], imageBad := false, retained := true,
    measure := 0, svn := 0, status := 0, arg0 := 0, arg1 := 0, data := [], go := false, resync := none, debugging := false, spdm := [], spdmWait := [],
    identity := some (Identity.derive 0 0 0), spares := fusedSpares, corr := 0, uncorr := 0, corrLast := [] }

/-- The window's bytes after a cold start: WDOG 100 of every context (18 R388) and HARVEST 0x0A (19 R416). -/
def resetWin : Memory :=
  ((List.range 32).map fun n => (0x80C + 16 * n, 100#8)) ++ ((List.range 32).map fun n => (0xA1C + 32 * n, 10#8))

/-- The part right after a completed cold start (25 R494): nothing bound, nothing running, memory scrubbed. -/
def State.reset : State :=
  { warps := [], wgs := [], gangs := [], launches := [], graphs := [], tasks := [], rasters := [], slots := [],
    cores := (List.range Config.cores).map fun n => (n, Core.init),
    engines := [],
    clusters := [],
    dies := [(0, Die.init), (1, Die.init)],
    homes := (List.range 8).map fun n => (n, StackHome.init (n / 4)),
    mem := [], memBad := [], taskBuf := [], regions := [], electrum := [], hostHalf := [], snoops := [], homeQ := [], sent := [], yields := [], refusals := [],
    asker := 0, port := [], win := resetWin,
    ctxs := [], heads := [], msix := [], mgmt := Mgmt.init, linkFull := true, power := [], throttle := 0,
    clusterPre := [], moves := [], timer := 0, agenda := [], cur := none, picked := none, free := 0, nextId := 1 }

end Sys2Proof.Machine
end

