-- ==== Sys2Proof/Machine/Warps.lean ====
section
/-!
DEFINITION. Operations on one warp: its split table, reconvergence stack and declared loops (06 R134 to R147,
07 R157 to R164). `succ` gives the successor of an instruction address (02 R52), `young` the youngest age (03 R90).
-/
namespace Sys2Proof.Machine

/-- Lanes that broke out of an active level (07 R157). -/
def loopsExit (ls : List Loop) : Word := ls.foldl (fun m l => m ||| l.exitmask) 0

/-- A split's live lanes: its MASK lanes in no active level's EXITMASK (07 R157). -/
def Split.live (sp : Split) : Word := sp.mask &&& ~~~(loopsExit sp.frame.loops)

/-- The innermost active level at the split's call depth, with its index (07 R160). -/
def Frame.inner (f : Frame) : Option (Nat × Loop) :=
  match f.loops.getLast? with
  | some l => if l.depth = f.depth then some (f.loops.length - 1, l) else none
  | none => none

/-- The innermost active level at any depth, with its index (07 R162). -/
def Frame.innermost (f : Frame) : Option (Nat × Loop) := f.loops.getLast?.map fun l => (f.loops.length - 1, l)

/-- The innermost active pipelined level (02 R58, 07 R166). -/
def Frame.pipe (f : Frame) : Option Loop := (f.loops.filter (·.pipelined)).getLast?

/-- The frame with one level changed. -/
def Frame.setLoop (f : Frame) (k : Nat) (l : Loop) : Frame := { f with loops := f.loops.set k l }

/-- The lowest free split-table entry. -/
def Warp.freeEntry (w : Warp) : Option Nat := (List.range 4).find? fun k => (Tab.get? w.splits k).isNone

/-- The split of an entry. -/
def Warp.split? (w : Warp) (k : Nat) : Option Split := Tab.get? w.splits k

/-- An entry filled. -/
def Warp.setSplit (w : Warp) (k : Nat) (sp : Split) : Warp := { w with splits := Tab.set w.splits k sp }

/-- An entry freed. -/
def Warp.dropSplit (w : Warp) (k : Nat) : Warp := { w with splits := Tab.erase w.splits k }

/-- A handler that holds nothing: kernel code whose frame registers read as at warp start. -/
def Handler.none : Handler := { level := 0, user := .init, sup := .init }

/-- A split's LEVEL and frames. -/
def Split.handler (sp : Split) : Handler := { level := sp.level, user := sp.user, sup := sp.sup }

/-- A split as a merge or a resumption makes it: latches invalid, youngest (06 R139). -/
def Split.fresh (pc : DWord) (mask : Word) (frame : Frame) (hd : Handler) (young : Nat) : Split :=
  { pc, seq := true, mask, frame, latches := .empty, level := hd.level, age := young, wait := .ready,
    user := hd.user, sup := hd.sup, xfails := [] }

/-- The words of some lanes of a store keyed 32 n + lane, taken from another store (n below the count). -/
def takeLanes {w : Nat} (base other : Store w) (lanes : Word) (n : Nat) : Store w :=
  (lanesOf lanes).foldl (fun m i =>
    (List.range n).foldl (fun m q => Store.set m (32 * q + i) (Store.get other (32 * q + i))) m) base

/-- A saved state in which some lanes keep what another copy of the frame holds for them. -/
def Saved.takeLanes (x other : Saved) (lanes : Word) : Saved :=
  { x with latches := { x.latches with data := Machine.takeLanes x.latches.data other.latches.data lanes 4 },
           ofile := Machine.takeLanes x.ofile other.ofile lanes 8
           omarks := (other.omarks.filter fun p => lanes.getLsbD (p.1 % 32)).foldl (fun m p => Tab.set m p.1 p.2)
             (x.omarks.filter fun p => !lanes.getLsbD (p.1 % 32))
           odue := (x.odue.filter fun p => !lanes.getLsbD p.2.lane) ++ other.odue.filter fun p => lanes.getLsbD p.2.lane }

/-- Lanes keep their own saved words where copies of one frame rejoin (assumption 14). -/
def Handler.takeLanes (h other : Handler) (lanes : Word) : Handler :=
  { h with
    user := { h.user with saved := match h.user.saved, other.user.saved with
                          | some x, some y => some (x.takeLanes y lanes) | x, _ => x },
    sup := { h.sup with
             sva := Machine.takeLanes h.sup.sva other.sup.sva lanes 1,
             saved := match h.sup.saved, other.sup.saved with
                      | some x, some y => some (x.takeLanes y lanes) | x, _ => x } }

/-- The accesses of some lanes merge their order (06 R141, 10 R224): what either side issued before the merge precedes what any of
the lanes does after it. -/
def Warp.order (w : Warp) (lanes : Word) : Warp :=
  { w with pend := w.pend.map fun p => if p.mask &&& lanes = 0 then p else { p with mask := p.mask ||| lanes } }

/-- The first loop record from the top that holds lanes of a mask, for a loop ending at `stop` declared at `depth`
(07 R159, R161). DESIGN CHOICE (assumption 127): of a split merged from two instances of one loop (06 R140), whose lanes lie in two records, the
spec does not say which record an end step goes by; it is the topmost. -/
def findLoopRec (st : List StackEntry) (stop : DWord) (depth : Nat) (mask : Word) : Option Nat :=
  st.findIdx? fun e =>
    match e with
    | .join j ex _ _ _ (some d) => j = stop && d = depth && (ex &&& mask) ≠ 0
    | _ => false

/-- Lanes removed from EXPECT and ARRIVED of a stack entry (06 R146, 07 R162). -/
def StackEntry.unexpect (e : StackEntry) (lanes : Word) : StackEntry :=
  match e with
  | .join j ex ar f h lp => .join j (ex &&& ~~~lanes) (ar &&& ~~~lanes) f h lp
  | e => e

/-- The advance of a pass (07 R161): the level's next state and whether another pass follows. -/
def Loop.advance (l : Loop) : Loop × Bool :=
  let more := l.started.toNat < l.count.toNat
  let l' := if more then { l with started := l.started + 1 } else l
  if l.pipelined then
    let sm := ((l.stagemask.toNat * 2 + (if more then 1 else 0)) % 2 ^ l.stages)
    ({ l' with stagemask := BitVec.ofNat 8 sm, rb := (l.rb + l.win - 1) % l.win }, sm ≠ 0)
  else (l', more)

/-- The end step of R161 for the split of entry k at its innermost level; then, where that level ended, of the next enclosing
level with the same END at its depth (R160). -/
def Warp.endStep (w : Warp) (k : Nat) (succ : DWord → DWord) (fuel : Nat) : Warp :=
  match fuel with
  | 0 => w
  | fuel + 1 =>
    match w.split? k with
    | none => w
    | some sp =>
      match sp.frame.innermost with
      | none => w
      | some (n, l) =>
        let ri := findLoopRec w.stack l.stop l.depth sp.mask
        let rec? := ri.bind fun i => w.stack[i]?
        match ri, rec? with
        | some i, some (.join j ex ar rf rh lp) =>
          let arrived := ar ||| sp.mask
          let oldExit := match rf.loops[n]? with | some rl => rl.exitmask | none => 0
          if arrived ≠ ex then
            -- copies still in the body: the split parks
            let f' := sp.frame.setLoop n { l with exitmask := l.exitmask ||| oldExit }
            let stack := w.stack.mapIdx fun q e =>
              if q = i then .join j ex arrived f' (sp.handler.takeLanes rh ar) lp else if q < i then e.unexpect sp.mask else e
            { w with stack, splits := Tab.erase w.splits k }
          else
            let sp1 : Split :=
              if ar ≠ 0 then
                { sp with mask := ex, latches := { sp.latches with valid := 0 },
                          frame := sp.frame.setLoop n { l with exitmask := l.exitmask ||| oldExit },
                          user := (sp.handler.takeLanes rh ar).user, sup := (sp.handler.takeLanes rh ar).sup }
              else sp
            let w := if ar ≠ 0 then w.order ex else w
            let stack1 := w.stack.set i (.join j ex 0 rf rh lp)
            let l1 := match sp1.frame.loops[n]? with | some x => x | none => l
            let (l2, more) := l1.advance
            let sp2 := { sp1 with frame := sp1.frame.setLoop n l2 }
            if more ∧ sp2.live ≠ 0 then
              { w with stack := stack1, splits := Tab.set w.splits k { sp2 with pc := l.start, seq := true } }
            else
              let sp3 := { sp2 with pc := succ l.stop, seq := true,
                                    frame := { sp2.frame with loops := sp2.frame.loops.take n } }
              let w3 := { w with stack := stack1.eraseIdx i, splits := Tab.set w.splits k sp3 }
              match sp3.frame.inner with
              | some (_, lo) => if lo.stop = l.stop then w3.endStep k succ fuel else w3
              | none => w3
        | _, _ => w

/-- The split of entry k leaves the instruction at E toward its sequential successor (07 R160); a split whose lanes have all exited
leaves for nowhere. -/
def Warp.leaveAt (w : Warp) (k : Nat) (e : DWord) (succ : DWord → DWord) : Warp :=
  match w.split? k with
  | none => w
  | some sp =>
    if sp.mask = 0 then w
    else
      let w1 := w.setSplit k { sp with pc := succ e, seq := true }
      match sp.frame.inner with
      | some (_, l) => if l.stop = e then w1.endStep k succ 5 else w1
      | none => w1

/-- The JADDR of the next join record below a place in the stack, 0 where there is none (06 R139). -/
def joinBelow (st : List StackEntry) (i : Nat) : DWord :=
  match (st.drop (i + 1)).findSome? (fun e => match e with | .join j _ _ _ _ none => some j | _ => none) with
  | some j => j
  | none => 0

/-- A join record completes (06 R139): a merged split, or a path in its place where no entry is free. -/
def Warp.complete (w : Warp) (i : Nat) (j : DWord) (ex : Word) (f : Frame) (hd : Handler) (young : Nat)
    (succ : DWord → DWord) : Warp :=
  let sp := Split.fresh (succ j) ex f hd young
  let w := w.order ex
  match w.freeEntry with
  | some n => ({ w with stack := w.stack.eraseIdx i }.setSplit n sp).leaveAt n j succ
  | none =>
    let below := joinBelow w.stack i
    -- the merged lanes leave the JOIN as entry 4 would, and are put back as a path
    let w1 := ({ w with stack := w.stack.set i (.path (succ j) true ex below f hd) }.setSplit 4 sp).leaveAt 4 j succ
    match w1.split? 4 with
    | some sp1 => { w1 with splits := Tab.erase w1.splits 4, stack := w1.stack.set i (.path sp1.pc sp1.seq sp1.mask below sp1.frame sp1.handler) }
    | none => { w1 with stack := w1.stack.eraseIdx i }

/-- A loop record whose lanes have all arrived without an arriving split: a split fills a free entry and runs advance
(07 R162). -/
def Warp.completeLoop (w : Warp) (n i : Nat) (j : DWord) (ex : Word) (f : Frame) (hd : Handler) (young : Nat)
    (succ : DWord → DWord) : Warp :=
  let sp := Split.fresh j ex f hd young
  match w.stack[i]? with
  | some (.join _ _ _ _ _ lp) => (({ w with stack := w.stack.set i (.join j ex 0 f hd lp) }.order ex).setSplit n sp).endStep n succ 5
  | _ => w

/-- One thing the warp's tables do by themselves: a split without a live lane arrives at its loop record (07 R162), an
empty record goes, a full record completes (06 R139), the entry of a split whose lanes have all exited is freed (06 R155), the
topmost path takes a free entry at LEVEL 0 (R139). none where nothing is to do. Where a freed entry could go to a loop record that
waits completable or to a stacked path, R162 and R139 give no order: DESIGN CHOICE, the record takes it (assumption 100). Nor do they say which of
several records that become full at once completes and takes an entry first: DESIGN CHOICE, the topmost (assumption 100). -/
def Warp.settleOnce (w : Warp) (young : Nat) (succ : DWord → DWord) : Option Warp :=
  match w.splits.find? (fun p => p.2.mask ≠ 0 && p.2.live = 0 && p.2.frame.innermost.isSome) with
  | some (k, _) => some (w.endStep k succ 5)
  | none =>
    match w.stack.findIdx? (fun e => match e with | .join _ ex _ _ _ _ => ex = 0 | .path _ _ m _ _ _ => m = 0) with
    | some i => some { w with stack := w.stack.eraseIdx i }
    | none =>
      match w.stack.findIdx? (fun e => match e with
          | .join _ ex ar _ _ lp => ex = ar && (lp.isNone || w.freeEntry.isSome) | .path .. => false) with
      | some i =>
        match w.stack[i]?, w.freeEntry with
        | some (.join j ex _ f h none), _ => some (w.complete i j ex f h young succ)
        | some (.join j ex _ f h (some _)), some n => some (w.completeLoop n i j ex f h young succ)
        | _, _ => none
      | none =>
        match w.splits.find? (fun p => p.2.mask = 0) with
        | some (k, _) => some (w.dropSplit k)
        | none =>
          match w.freeEntry, w.stack.findIdx? (fun e => match e with | .path .. => true | _ => false) with
          | some n, some i =>
            match w.stack[i]? with
            | some (.path pc seq m _ f h) =>
              some ({ w with stack := w.stack.eraseIdx i }.setSplit n { Split.fresh pc m f { h with level := 0 } young with seq })
            | _ => none
          | _, _ => none

/-- The warp's tables once nothing is left to do by themselves. -/
def Warp.settle (w : Warp) (young : Nat) (succ : DWord → DWord) (fuel : Nat := 160) : Warp :=
  match fuel with
  | 0 => w
  | n + 1 =>
    match w.settleOnce young succ with
    | none => w
    | some w' => w'.settle young succ n

/-- A loop level without some lanes in its EXITMASK. -/
def Loop.dropLanes (l : Loop) (lanes : Word) : Loop := { l with exitmask := l.exitmask &&& ~~~lanes }

/-- A frame without some lanes in its EXITMASKs. -/
def Frame.dropLanes (f : Frame) (lanes : Word) : Frame := { f with loops := f.loops.map (·.dropLanes lanes) }

/-- A saved state without some lanes: its loop levels and the results still due to it. -/
def Saved.dropLanes (x : Saved) (lanes : Word) : Saved :=
  { x with loops := x.loops.map (·.dropLanes lanes), odue := x.odue.filter fun p => !lanes.getLsbD p.2.lane }

/-- Frames without some lanes. -/
def Handler.dropLanes (h : Handler) (lanes : Word) : Handler :=
  { h with user := { h.user with saved := h.user.saved.map (·.dropLanes lanes) },
           sup := { h.sup with held := h.sup.held &&& ~~~lanes, saved := h.sup.saved.map (·.dropLanes lanes) } }

/-- A stack entry without some lanes (06 R146). -/
def StackEntry.dropLanes (e : StackEntry) (lanes : Word) : StackEntry :=
  match e with
  | .path pc q m j f h => .path pc q (m &&& ~~~lanes) j (f.dropLanes lanes) (h.dropLanes lanes)
  | .join j ex ar f h lp => .join j (ex &&& ~~~lanes) (ar &&& ~~~lanes) (f.dropLanes lanes) (h.dropLanes lanes) lp

/-- A split without some lanes. -/
def Split.dropLanes (sp : Split) (lanes : Word) : Split :=
  { sp with mask := sp.mask &&& ~~~lanes, frame := sp.frame.dropLanes lanes,
            user := (sp.handler.dropLanes lanes).user, sup := (sp.handler.dropLanes lanes).sup }

/-- Lanes leave every structure of the warp (06 R146): masks, EXPECT, ARRIVED, EXITMASKs, pending results. A handler split left empty
ends with its frame; the entry of the split that executes EXIT stays until the records have completed (06 R155). -/
def Warp.exitLanes (w : Warp) (lanes : Word) (keep : Option Nat) : Warp :=
  let splits := (w.splits.map fun p => (p.1, p.2.dropLanes lanes)).filter fun p => p.2.mask ≠ 0 || keep = some p.1
  { w with splits,
           stack := w.stack.map (·.dropLanes lanes),
           pend := w.pend.map fun p => { p with dsts := p.dsts.filter fun d => !(lanes.getLsbD d.lane) || (match d.reg with | .g _ => true | _ => false) } }

/-- Every lane that has not exited (06 R134), those included that the frame of a split, path or record with lanes holds. -/
def Warp.lanes (w : Warp) : Word :=
  let held (m : Word) (h : SupFrame) : Word := if m = 0 then 0 else m ||| h.held
  let a := w.splits.foldl (fun m p => m ||| held p.2.mask p.2.sup) 0
  w.stack.foldl (fun m e => match e with
    | .path _ _ x _ _ h => m ||| held x h.sup
    | .join _ ex ar _ h _ => m ||| ar ||| (if ex = 0 then 0 else h.sup.held)) a

/-- The lanes that leave a warp with some lanes: those too that only the frames of handlers so left empty hold, which end with them
(R155; assumption 12). -/
def Warp.leaving (w : Warp) (lanes : Word) : Word := lanes ||| (w.lanes &&& ~~~(w.exitLanes lanes none).lanes)

/-- The return addresses of levels 1 to DEPTH agree (for depths to 8, all in the entry). -/
def Frame.sameReturn (a b : Frame) : Bool := a.depth = b.depth && a.rstack = b.rstack

/-- Loop levels equal but for EXITMASK (06 R140). -/
def sameLoops (a b : List Loop) : Bool := (a.map fun l => { l with exitmask := 0 }) = (b.map fun l => { l with exitmask := 0 })

/-- A wait that holds a split (06 R140): any but that for its instruction's fetch (03 R89). -/
def Wait.holds (x : Wait) : Bool :=
  match x with
  | .ready | .stall .fetch => false
  | _ => true

/-- Two splits may merge at issue (06 R140); b must not be blocked, asleep or held. -/
def Split.mergeable (a b : Split) : Bool :=
  a.pc = b.pc && a.frame.sameReturn b.frame && a.frame.depth ≤ 8 && sameLoops a.frame.loops b.frame.loops
    && a.level = 0 && b.level = 0 && !b.wait.holds && a.sup.held = 0 && b.sup.held = 0

/-- Latches of two merging splits: each lane keeps its own; valid bits ANDed (03 R87). -/
def Latches.merge (a b : Latches) (lanesB : Word) : Latches :=
  { data := (lanesOf lanesB).foldl (fun m i =>
      (List.range 4).foldl (fun m q => Store.set m (32 * q + i) (Store.get b.data (32 * q + i))) m) a.data,
    valid := a.valid &&& b.valid }

/-- EXITMASKs of equal loop levels ORed. -/
def orLoops (a b : List Loop) : List Loop := a.zipWith (fun x y => { x with exitmask := x.exitmask ||| y.exitmask }) b

/-- The split of entry k may merge with another of the warp (06 R140). -/
def Warp.mergesAt (w : Warp) (k : Nat) : Bool :=
  match w.split? k with
  | some a => w.splits.any fun q => q.1 ≠ k && a.mergeable q.2
  | none => false

/-- The picked split of entry k absorbs every split it may merge with (06 R140). -/
def Warp.mergeAtPick (w : Warp) (k : Nat) : Warp :=
  (List.range 4).foldl (fun w q =>
    if q = k then w
    else
      match w.split? k, w.split? q with
      | some a, some b =>
        if a.mergeable b then
          ((w.dropSplit q).order (a.mask ||| b.mask)).setSplit k
            { a with xfails := a.xfails ++ b.xfails, mask := a.mask ||| b.mask, latches := a.latches.merge b.latches b.mask,
                     frame := { a.frame with loops := orLoops a.frame.loops b.frame.loops } }
        else w
      | _, _ => w) w

end Sys2Proof.Machine
end

