-- ==== Sys2Proof/Machine/Forms.lean ====
section
/-!
DEFINITION. The form of every instruction of the opcode map: opcode, length, legal U (02 R65), the F, X and K bits it
defines (02 R54, R63, R64 and each instruction's own entry), and the role of every operand position (02 R59, R60, R61).
-/
namespace Sys2Proof

/-- The field of n bits of F from bit lo. -/
def Enc.fb (e : Enc) (lo n : Nat) : Nat := (e.f.toNat >>> lo) % 2 ^ n

/-- U as a truth value. -/
def Enc.uni (e : Enc) : Bool := e.u = 1

/-- Every F bit from bit lo upward is zero. -/
def Enc.fz (e : Enc) (lo : Nat) : Bool := e.f.toNat < 2 ^ lo

/-- The whole of X is zero. -/
def Enc.xz (e : Enc) : Bool := e.x = 0

/-- Width in bytes of a type code of R63 (e2m1, half a byte, is given 1; it never names a memory width). -/
def typeBytes (t : Nat) : Nat :=
  match t with
  | 0 | 1 | 4 => 4
  | 2 | 3 | 7 => 8
  | 5 | 6 | 13 | 14 => 2
  | _ => 1

/-- Count of 32-bit names a value of type t takes (R23). -/
def typeNames (t : Nat) : Nat := if t = 2 ∨ t = 3 ∨ t = 7 then 2 else 1

/-- The zero special (R59). -/
abbrev specZero : Nat := 0x10F

/-- What an operand position of an instruction takes (R59 to R61 and the instruction's entry). -/
inductive Role where
  /-- Not used: must be 0x10F (R54). -/
  | unused
  /-- Not a specifier (a case value of SWITCH). -/
  | raw
  /-- Any source of n names; an inline immediate where imm holds. -/
  | src (n : Nat) (imm : Bool)
  /-- A register of n names from a multiple of al: v, o or broadcast g with U = 0, g with U = 1. -/
  | reg (n al : Nat)
  /-- A uniform source: g with U = 1; broadcast g, immediate or special 0x10D-0x10F with U = 0. -/
  | unif
  /-- A uniform source that is no special: g or an inline immediate with U = 1, broadcast g or an inline immediate with U = 0. -/
  | uimm
  /-- A group-wide register of n names from a multiple of al, 0x000-0x03F; the zero special where z holds; an inline
  immediate of raw value lo to hi where lo is at most hi. -/
  | g (n al : Nat) (z : Bool) (lo hi : Nat)
  /-- A v register, or an o register, of n names from a multiple of al. -/
  | vo (n al : Nat)
  /-- A v, o or broadcast g pair with U = 0, a g pair with U = 1: an address. -/
  | addr
  /-- A v or broadcast g pair with U = 0, a g pair with U = 1: a branch target (R152). -/
  | target
  /-- A destination of n names: v or o with U = 0, g with U = 1. -/
  | dst (n : Nat)
  /-- A destination that may also be a broadcast name, one uniform result of n names (R59). -/
  | dstU (n : Nat)
  /-- A destination that must be a broadcast name (VTOG). -/
  | dstG (n : Nat)
deriving DecidableEq, Repr

/-- How a specifier fails at its position: R69 step 7. -/
inductive SpecCheck where
  | ok | specifier | allocation
deriving DecidableEq, Repr

/-- A v name span from spec of n names from a multiple of al, in an allocation of vregs registers (R60). -/
def vSpan (vregs spec n al : Nat) : SpecCheck :=
  if spec % al ≠ 0 then .specifier else if vregs < spec + n then .allocation else .ok

/-- A g name span from g of n names from a multiple of al. -/
def gSpan (g n al : Nat) : SpecCheck := if g % al ≠ 0 ∨ 64 < g + n then .specifier else .ok

/-- An o name span. -/
def oSpan (o n al : Nat) : SpecCheck := if o % al ≠ 0 ∨ 8 < o + n then .specifier else .ok

/-- Whether a 9-bit specifier is legal in its role (R59, R60, R61). -/
def Role.check (r : Role) (u : Bool) (vregs spec : Nat) : SpecCheck :=
  match r with
  | .raw => .ok
  | .unused => if spec = specZero then .ok else .specifier
  | .src n imm =>
    if spec = specZero then .ok
    else if 0x180 ≤ spec then (if imm ∧ n ≤ 2 then .ok else .specifier)
    else if u then
      if spec < 0x40 then gSpan spec n n
      else if (spec = 0x10D ∨ spec = 0x10E) ∧ n ≤ 2 then .ok else .specifier
    else if spec < 0x100 then vSpan vregs spec n n
    else if spec < 0x108 then oSpan (spec - 0x100) n n
    else if spec < 0x10F then (if n ≤ 2 then .ok else .specifier)
    else if 0x140 ≤ spec then gSpan (spec - 0x140) n n
    else .specifier
  | .reg n al =>
    if u then (if spec < 0x40 then gSpan spec n al else .specifier)
    else if spec < 0x100 then vSpan vregs spec n al
    else if spec < 0x108 then oSpan (spec - 0x100) n al
    else if 0x140 ≤ spec ∧ spec < 0x180 then gSpan (spec - 0x140) n al
    else .specifier
  | .unif =>
    if 0x10D ≤ spec ∧ spec ≤ 0x10F then .ok
    else if 0x180 ≤ spec then .ok
    else if u then (if spec < 0x40 then .ok else .specifier)
    else if 0x140 ≤ spec then .ok
    else .specifier
  | .uimm =>
    if 0x180 ≤ spec then .ok
    else if u then (if spec < 0x40 then .ok else .specifier)
    else if 0x140 ≤ spec then .ok
    else .specifier
  | .g n al z lo hi =>
    if spec < 0x40 then gSpan spec n al
    else if z ∧ spec = specZero then .ok
    else if lo ≤ spec ∧ spec ≤ hi then .ok
    else .specifier
  | .vo n al =>
    if spec < 0x100 then vSpan vregs spec n al
    else if spec < 0x108 then oSpan (spec - 0x100) n al
    else .specifier
  | .addr =>
    if u then (if spec < 0x40 then gSpan spec 2 2 else .specifier)
    else if spec < 0x100 then vSpan vregs spec 2 2
    else if spec < 0x108 then oSpan (spec - 0x100) 2 2
    else if 0x140 ≤ spec ∧ spec < 0x180 then gSpan (spec - 0x140) 2 2
    else .specifier
  | .target =>
    if u then (if spec < 0x40 then gSpan spec 2 2 else .specifier)
    else if spec < 0x100 then vSpan vregs spec 2 2
    else if 0x140 ≤ spec ∧ spec < 0x180 then gSpan (spec - 0x140) 2 2
    else .specifier
  | .dst n =>
    if u then (if spec < 0x40 then gSpan spec n n else .specifier)
    else if spec < 0x100 then vSpan vregs spec n n
    else if spec < 0x108 then oSpan (spec - 0x100) n n
    else .specifier
  | .dstU n =>
    if u then .specifier
    else if spec < 0x100 then vSpan vregs spec n n
    else if spec < 0x108 then oSpan (spec - 0x100) n n
    else if 0x140 ≤ spec ∧ spec < 0x180 then gSpan (spec - 0x140) n n
    else .specifier
  | .dstG n =>
    if 0x140 ≤ spec ∧ spec < 0x180 then gSpan (spec - 0x140) n n else .specifier

/-- The roles of the four operand positions. -/
structure Roles where
  d : Role := .unused
  a : Role := .unused
  b : Role := .unused
  c : Role := .unused
deriving DecidableEq, Repr

/-- The form of an instruction. -/
structure Form where
  /-- The opcode (R65). -/
  op : Nat
  /-- The LEN code of its one length (R65). -/
  len : Nat := 0
  /-- U = 0 is legal. -/
  lane : Bool := true
  /-- U = 1 is legal. -/
  once : Bool := true
  /-- Direct-class (R55): pushes a latch with U = 0, admits W = 1. -/
  direct : Bool := false
  /-- PRED must be 0 (R151, R155, R169). -/
  unpred : Bool := false
  /-- A control-flow instruction that R163 forbids at a loop's END. -/
  badEnd : Bool := false
  /-- The F, X and K bits are legal (R54, R63, R64). -/
  fields : Enc → Bool
  /-- The roles of the operand positions. -/
  roles : Enc → Roles

/-- Type code t is one of ts (R64). -/
def tyIn (t : Nat) (ts : List Nat) : Bool := ts.contains t

/-! ### Integer and logic instructions (04 R98, R99) -/

/-- A typed row with .sat: F[4] SAT, F[3:0] type. -/
def fInt (e : Enc) (ts : List Nat) (sat : Bool) : Bool :=
  e.fz (if sat then 5 else 4) && e.xz && e.k = 0 && tyIn (e.fb 0 4) ts

/-- An untyped row: F, X and K zero. -/
def fPlain (e : Enc) : Bool := e.f = 0 && e.xz && e.k = 0

def rABC (n : Nat) (d : Nat) : Roles := { d := .dst d, a := .src n true, b := .src n true, c := .src n true }
def rAB (n : Nat) (d : Nat) : Roles := { d := .dst d, a := .src n true, b := .src n true }
def rA (n : Nat) (d : Nat) : Roles := { d := .dst d, a := .src n true }

def intForm (op len : Nat) (ts : List Nat) (sat : Bool) (r : Roles) : Form :=
  { op, len, direct := true, fields := fun e => fInt e ts sat, roles := fun _ => r }

def plainForm (op len : Nat) (r : Roles) : Form :=
  { op, len, direct := true, fields := fPlain, roles := fun _ => r }

/-- Names of a SIZE code (R98): .b32, .b64, .b128. -/
def sizeNames (z : Nat) : Nat := if z = 0 then 1 else if z = 1 then 2 else 4

def formNop : Form := plainForm 0x000 0 {}
def formMov : Form :=
  { op := 0x001, direct := true, fields := fun e => e.fz 2 && e.xz && e.k = 0 && e.fb 0 2 ≠ 3,
    roles := fun e => let n := sizeNames (e.fb 0 2); { d := .dst n, a := .src n true } }
def formMovk : Form :=
  { op := 0x002, len := 2, direct := true, fields := fun e => e.fz 2 && e.xz && e.fb 0 2 ≠ 3,
    roles := fun e =>
      if e.fb 0 2 = 0 then { d := .dst 1 }
      else if e.fb 0 2 = 1 then { d := .dst 2 }
      else { d := .dst 2, a := .src 1 true } }
def formIadd : Form := intForm 0x003 0 [0, 1] true (rAB 1 1)
def formIsub : Form := intForm 0x004 0 [0, 1] true (rAB 1 1)
def formIadd3 : Form := intForm 0x005 1 [0, 1] true (rABC 1 1)
def formImul : Form := intForm 0x006 0 [0, 1] true (rAB 1 1)
def formImulh : Form := intForm 0x007 0 [0, 1] false (rAB 1 1)
def formImad : Form := intForm 0x008 1 [0, 1] true (rABC 1 1)
def formImadw : Form :=
  intForm 0x009 1 [0, 1] true { d := .dst 2, a := .src 1 true, b := .src 1 true, c := .src 2 true }
def formIadd64 : Form := intForm 0x00A 0 [2, 3] true (rAB 2 2)
def formImin : Form := intForm 0x00B 0 [0, 1] false (rAB 1 1)
def formImax : Form := intForm 0x00C 0 [0, 1] false (rAB 1 1)
def formIabs : Form := intForm 0x00D 0 [0] true (rA 1 1)
/-- ICMP and ICMP64: F[7:5] COND (0 to 5), F[3:0] type, F[4] zero. -/
def fIcmp (e : Enc) (ts : List Nat) : Bool :=
  e.fz 8 && e.fb 4 1 = 0 && e.fb 5 3 < 6 && tyIn (e.fb 0 4) ts && e.xz && e.k = 0
def formIcmp : Form :=
  { op := 0x00E, direct := true, fields := fun e => fIcmp e [0, 1], roles := fun _ => rAB 1 1 }
def formIcmp64 : Form :=
  { op := 0x020, direct := true, fields := fun e => fIcmp e [2, 3], roles := fun _ => rAB 2 1 }
def formSel : Form :=
  { op := 0x00F, len := 1, direct := true, fields := fun e => e.fz 2 && e.xz && e.k = 0 && e.fb 0 2 < 2,
    roles := fun e => let n := sizeNames (e.fb 0 2);
      { d := .dst n, a := .src n true, b := .src n true, c := .src 1 true } }
def formAnd : Form := plainForm 0x010 0 (rAB 1 1)
def formOr : Form := plainForm 0x011 0 (rAB 1 1)
def formXor : Form := plainForm 0x012 0 (rAB 1 1)
def formAndn : Form := plainForm 0x013 0 (rAB 1 1)
def formBool3 : Form :=
  { op := 0x014, len := 1, direct := true, fields := fun e => e.f = 0 && e.x.toNat < 256 && e.k = 0,
    roles := fun _ => rABC 1 1 }
/-- SHL, SHR, SAR: F[1:0] SIZE .b32 or .b64; the count is one word. -/
def shiftForm (op : Nat) : Form :=
  { op, direct := true, fields := fun e => e.fz 2 && e.xz && e.k = 0 && e.fb 0 2 < 2,
    roles := fun e => let n := sizeNames (e.fb 0 2);
      { d := .dst n, a := .src n true, b := .src 1 true } }
def formShl : Form := shiftForm 0x015
def formShr : Form := shiftForm 0x016
def formSar : Form := shiftForm 0x017
def formShf : Form :=
  { op := 0x018, len := 1, direct := true, fields := fun e => e.fz 1 && e.xz && e.k = 0, roles := fun _ => rABC 1 1 }
def formBfe : Form := intForm 0x019 0 [0, 1] false (rAB 1 1)
def formBfi : Form := plainForm 0x01A 1 (rABC 1 1)
def formPopc : Form := plainForm 0x01B 0 (rA 1 1)
def formClz : Form := plainForm 0x01C 0 (rA 1 1)
def formBrev : Form := plainForm 0x01D 0 (rA 1 1)
def formLea : Form :=
  { op := 0x01E, direct := true, fields := fun e => e.fz 7 && tyIn (e.fb 0 4) [0, 1] && e.xz && e.k = 0,
    roles := fun _ => { d := .dst 2, a := .src 2 true, b := .src 1 true } }
/-- BYTEX: a selector in X[15:0] when X[16] is set, with C = 0x10F; else in C, with X zero (R105). -/
def formBytex : Form :=
  { op := 0x01F, len := 1, direct := true,
    fields := fun e => e.f = 0 && e.k = 0 && (e.x.toNat = 0 || (2 ^ 16 ≤ e.x.toNat && e.x.toNat < 2 ^ 17)),
    roles := fun e => { d := .dst 1, a := .src 1 true, b := .src 1 true,
                        c := if e.x.toNat < 2 ^ 16 then .src 1 true else .unused } }
def formCtz : Form := plainForm 0x021 0 (rA 1 1)

/-! ### Lane movement (04 R106 to R114) -/

def laneForm (op : Nat) (fields : Enc → Bool) (roles : Enc → Roles) : Form :=
  { op, once := false, direct := true, fields := fun e => fields e && e.xz && e.k = 0, roles }

def formShfl : Form :=
  laneForm 0x040 (fun e => e.fz 5 && e.fb 2 3 < 6) (fun _ => { d := .dst 1, a := .reg 1 1, b := .src 1 true })
def formVote : Form := laneForm 0x041 (fun e => e.fz 2) (fun _ => { d := .dstU 1, a := .src 1 true })
def formMatch : Form :=
  laneForm 0x042 (fun e => e.fz 1) (fun e => { d := .dstU 1, a := .src (1 + e.fb 0 1) true })
/-- REDW and SCANW: F[6:4] the operation (0 to 5), F[3:0] type. -/
def fRed (e : Enc) (top : Nat) : Bool := e.fz top && e.fb 4 3 < 6 && tyIn (e.fb 0 4) [0, 1]
def formRedw : Form := laneForm 0x043 (fun e => fRed e 7) (fun _ => { d := .dstU 1, a := .src 1 true })
def formScanw : Form := laneForm 0x044 (fun e => fRed e 8) (fun _ => { d := .dstU 1, a := .src 1 true })
def formKsort : Form :=
  laneForm 0x045 (fun e => e.fz 5 && tyIn (e.fb 0 4) [0, 1])
    (fun _ => { d := .vo 2 2, a := .src 1 true, b := .src 1 true })
/-- The lane operand of VTOG.lane: an immediate, a broadcast g or a special that is uniform (R114). -/
def formVtog : Form :=
  laneForm 0x046 (fun e => e.fz 2) (fun e =>
    let n := 1 + e.fb 1 1
    { d := .dstG n, a := .src n true, b := if e.fb 0 1 = 1 then .unif else .unused })

/-! ### Floating point (05 R116, R118) -/

/-- The F bits a floating-point row accepts (R116): COND [14:12], ABSB 11, ABSA 10, NEGC 9, NEGB 8, NEGA 7, FTZ 6,
RND [5:4], type [3:0]. -/
def fFp (e : Enc) (ts : List Nat) (cond rnd ftz modA modB modC : Bool) : Bool :=
  e.fz 15 && e.xz && e.k = 0 && tyIn (e.fb 0 4) ts && (cond || e.fb 12 3 = 0) && (rnd || e.fb 4 2 = 0)
    && (ftz || e.fb 6 1 = 0) && (modA || (e.fb 7 1 = 0 && e.fb 10 1 = 0))
    && (modB || (e.fb 8 1 = 0 && e.fb 11 1 = 0)) && (modC || e.fb 9 1 = 0)

def fpForm (op len : Nat) (ts : List Nat) (cond rnd modB modC : Bool) (r : Roles) (once : Bool := true) : Form :=
  { op, len, once, direct := true, fields := fun e => fFp e ts cond rnd true true modB modC, roles := fun _ => r }

def clsForm (op : Nat) (ts : List Nat) (n : Nat) : Form :=
  { op, direct := true, fields := fun e => fFp e ts false false false false false false, roles := fun _ => rA n 1 }

def formFadd : Form := fpForm 0x060 0 [4] false true true false (rAB 1 1)
def formFmul : Form := fpForm 0x061 0 [4] false true true false (rAB 1 1)
def formFfma : Form := fpForm 0x062 1 [4] false true true true (rABC 1 1)
def formFmin : Form := fpForm 0x063 0 [4] false false true false (rAB 1 1)
def formFmax : Form := fpForm 0x064 0 [4] false false true false (rAB 1 1)
def formFcmp : Form := fpForm 0x065 0 [4] true false true false (rAB 1 1)
def formFrnd : Form := fpForm 0x066 0 [4] false true false false (rA 1 1)
def formFclass : Form := clsForm 0x067 [4] 1
def formFrcp : Form := fpForm 0x068 0 [4] false true false false (rA 1 1) false
def formFrsq : Form := fpForm 0x069 0 [4] false true false false (rA 1 1) false
def formFsqrt : Form := fpForm 0x06A 0 [4] false true false false (rA 1 1) false
def formFexp2 : Form := fpForm 0x06B 0 [4] false true false false (rA 1 1) false
def formFlog2 : Form := fpForm 0x06C 0 [4] false true false false (rA 1 1) false
def formFsin : Form := fpForm 0x06D 0 [4] false true false false (rA 1 1) false
def formFcos : Form := fpForm 0x06E 0 [4] false true false false (rA 1 1) false
def formFtanh : Form := fpForm 0x06F 0 [4] false true false false (rA 1 1) false
def formHadd2 : Form := fpForm 0x078 0 [5, 6] false true true false (rAB 1 1)
def formHmul2 : Form := fpForm 0x079 0 [5, 6] false true true false (rAB 1 1)
def formHfma2 : Form := fpForm 0x07A 1 [5, 6] false true true true (rABC 1 1)
def formHmin2 : Form := fpForm 0x07B 0 [5, 6] false false true false (rAB 1 1)
def formHmax2 : Form := fpForm 0x07C 0 [5, 6] false false true false (rAB 1 1)
def formHcmp2 : Form := fpForm 0x07D 0 [5, 6] true false true false (rAB 1 1)
def formFdot2 : Form := fpForm 0x07E 1 [5, 6] false true true true (rABC 1 1)
def formDadd : Form := fpForm 0x090 0 [7] false true true false (rAB 2 2)
def formDmul : Form := fpForm 0x091 0 [7] false true true false (rAB 2 2)
def formDfma : Form := fpForm 0x092 1 [7] false true true true (rABC 2 2)
def formDmin : Form := fpForm 0x093 0 [7] false false true false (rAB 2 2)
def formDmax : Form := fpForm 0x094 0 [7] false false true false (rAB 2 2)
def formDcmp : Form := fpForm 0x095 0 [7] true false true false (rAB 2 1)
def formDrcp : Form := fpForm 0x096 0 [7] false true false false (rA 2 2) false
def formDrsq : Form := fpForm 0x097 0 [7] false true false false (rA 2 2) false
def formDclass : Form := clsForm 0x098 [7] 2
def formDrnd : Form := fpForm 0x099 0 [7] false true false false (rA 2 2)

/-! ### Conversions (05 R124) -/

/-- SAT 12, STYPE [11:8], NS 7, FTZ 6, RND [5:4], DTYPE [3:0]. -/
def fCvt (e : Enc) (dts sts : List Nat) (sat ns ftz rnd : Bool) : Bool :=
  e.fz 13 && e.xz && e.k = 0 && tyIn (e.fb 0 4) dts && tyIn (e.fb 8 4) sts && (sat || e.fb 12 1 = 0)
    && (ns || e.fb 7 1 = 0) && (ftz || e.fb 6 1 = 0) && (rnd || e.fb 4 2 = 0)

def fpTypes : List Nat := [4, 5, 6, 7]
def intTypes : List Nat := [0, 1, 2, 3, 11, 12, 13, 14]
def blkTypes : List Nat := [8, 9, 10]

def cvtRoles (e : Enc) : Roles := { d := .dst (typeNames (e.fb 0 4)), a := .src (typeNames (e.fb 8 4)) true }

def formCvt : Form :=
  { op := 0x0C0, direct := true, fields := fun e => fCvt e fpTypes fpTypes true false true true, roles := cvtRoles }
def formF2i : Form :=
  { op := 0x0C1, direct := true, fields := fun e => fCvt e intTypes fpTypes false false true true, roles := cvtRoles }
def formI2f : Form :=
  { op := 0x0C2, direct := true, fields := fun e => fCvt e fpTypes intTypes true false false true, roles := cvtRoles }
def formPackq : Form :=
  { op := 0x0C3, once := false, direct := true, fields := fun e => fCvt e blkTypes [0] true true true true,
    roles := fun e => { d := .vo 1 1, a := .src 1 true, b := if e.fb 7 1 = 1 then .unused else .src 1 true } }
/-- UNPACKQ reads the packed word as a raw 32-bit operand. -/
def formUnpackq : Form :=
  { op := 0x0C4, once := false, direct := true, fields := fun e => fCvt e blkTypes [0] true true true true,
    roles := fun e => { d := .vo 1 1, a := .src 1 false, b := if e.fb 7 1 = 1 then .unused else .src 1 true } }
def formScalex : Form :=
  { op := 0x0C5, once := false, direct := true, fields := fun e => fCvt e blkTypes [0] false false true false,
    roles := fun _ => { d := .dstU 1, a := .src 1 true } }

/-! ### Control flow and loops (06 R150 to R156, 07 R169 to R176) -/

def formBra : Form :=
  { op := 0x0E0, len := 1, badEnd := true, fields := fun e => e.k = 0, roles := fun _ => {} }
def formBrx : Form :=
  { op := 0x0E1, badEnd := true, fields := fun _ => true, roles := fun _ => { a := .target } }
def formSwitch : Form :=
  { op := 0x0E2, len := 2, once := false, badEnd := true,
    fields := fun e => e.f.toNat < 2 ^ 18 && e.k.toNat < 2 ^ 27,
    roles := fun _ => { d := .raw, a := .src 1 true, b := .raw, c := .raw } }
def formJoin : Form :=
  { op := 0x0E3, once := false, unpred := true, fields := fPlain, roles := fun _ => {} }
def formCall : Form :=
  { op := 0x0E4, len := 1, badEnd := true, fields := fun e => e.k = 0, roles := fun _ => {} }
def formCallx : Form :=
  { op := 0x0E5, badEnd := true, fields := fun _ => true, roles := fun _ => { a := .target } }
def formRet : Form := { op := 0x0E6, once := false, badEnd := true, fields := fPlain, roles := fun _ => {} }
def formExit : Form := { op := 0x0E7, once := false, fields := fPlain, roles := fun _ => {} }
def formYields : Form :=
  { op := 0x0E8, once := false, unpred := true, badEnd := true, fields := fPlain, roles := fun _ => {} }
/-- LOOP: F[18] CI; with a register count F[17:0] is zero (R170). -/
def formLoop : Form :=
  { op := 0x0E9, len := 1, once := false, unpred := true, badEnd := true,
    fields := fun e => (e.fb 18 1 = 1 || e.f = 0) && e.k = 0,
    roles := fun e => { a := if e.fb 18 1 = 1 then .unused else .unif } }
def formLoopp : Form :=
  { op := 0x0EA, len := 2, once := false, unpred := true, badEnd := true,
    fields := fun e => e.fb 6 12 = 0 && (e.fb 18 1 = 1 || e.k = 0),
    roles := fun e => { a := if e.fb 18 1 = 1 then .unused else .unif } }
def formBreak : Form := { op := 0x0EB, once := false, fields := fPlain, roles := fun _ => {} }
/-- LCGET and LCSET: F[6] SAV, F[5:4] LEVEL, F[3:0] FIELD 0 to 8, LEVEL 0 for status (R173). -/
def fLc (e : Enc) : Bool := e.fz 7 && e.fb 0 4 < 9 && (e.fb 0 4 ≠ 8 || e.fb 4 2 = 0) && e.xz && e.k = 0
def formLcget : Form := { op := 0x0EC, fields := fLc, roles := fun _ => { d := .dst 1 } }
def formLcset : Form := { op := 0x0ED, fields := fLc, roles := fun _ => { a := .src 1 true } }
def formIpref : Form :=
  { op := 0x0EE, len := 1, lane := false, fields := fun e => e.fz 3 && e.k = 0, roles := fun _ => {} }
def formTrap : Form := { op := 0x0EF, once := false, fields := fun e => e.fz 16, roles := fun _ => {} }
def formBkpt : Form := { op := 0x0F0, once := false, fields := fun e => e.fz 16, roles := fun _ => {} }

/-! ### Translation bases and memory (09) -/

/-- Memory types of LD, ST, LDS and their kin: i8 n8 i16 n16 f16 bf16 i32 n32 f32 i64 n64 f64 (R186, R210). -/
def memTypes : List Nat := [0, 1, 2, 3, 4, 5, 6, 7, 11, 12, 13, 14]

/-- F[4] Q128 with type 0, else a memory type. -/
def fMemType (e : Enc) : Bool := if e.fb 4 1 = 1 then e.fb 0 4 = 0 else tyIn (e.fb 0 4) memTypes

/-- Names of the data of a memory access. -/
def memNames (e : Enc) : Nat := if e.fb 4 1 = 1 then 4 else typeNames (e.fb 0 4)

/-- Bytes of a memory access. -/
def memBytes (e : Enc) : Nat := if e.fb 4 1 = 1 then 16 else typeBytes (e.fb 0 4)

/-- R210: F[18:11] zero, NA, SCOPE, ORDER, type. ord is the one non-zero ORDER code admitted. -/
def fLdSt (e : Enc) (ord : Nat) : Bool :=
  e.fz 11 && e.fb 7 3 < 5 && (e.fb 5 2 = 0 || e.fb 5 2 = ord) && (e.fb 5 2 ≠ 0 || e.fb 7 3 = 0) && fMemType e && e.k = 0

def formTbbind : Form :=
  { op := 0x110, lane := false, fields := fun e => e.fz 3, roles := fun _ => { a := .g 2 2 false 1 0 } }
def formLd : Form :=
  { op := 0x111, len := 1, once := false, fields := fun e => fLdSt e 1,
    roles := fun e => { d := .vo (memNames e) (memNames e), a := .src 1 true } }
def formSt : Form :=
  { op := 0x112, len := 1, once := false, fields := fun e => fLdSt e 2,
    roles := fun e => { a := .src 1 true, b := .src (memNames e) true } }
def formLdx : Form :=
  { op := 0x113, once := false, fields := fun e => fLdSt e 1 && e.xz,
    roles := fun e => { d := .vo (memNames e) (memNames e), a := .addr } }
def formStx : Form :=
  { op := 0x114, once := false, fields := fun e => fLdSt e 2 && e.xz,
    roles := fun e => { a := .addr, b := .src (memNames e) true } }
/-- The address of LDS and STS: any source with U = 0; a g register, an immediate or zero with U = 1 (R186). -/
def sAddr (e : Enc) : Role := if e.uni then .g 1 1 true 0x180 0x1FF else .src 1 true
def formLds : Form :=
  { op := 0x115, fields := fun e => fMemType e, roles := fun e => { d := .dst (memNames e), a := sAddr e } }
def formSts : Form :=
  { op := 0x116, fields := fun e => fMemType e,
    roles := fun e => { a := sAddr e, b := if e.uni then .reg (memNames e) (memNames e) else .src (memNames e) true } }
def formLdr : Form :=
  { op := 0x117, once := false, fields := fun e => fMemType e,
    roles := fun e => { d := .vo (memNames e) (memNames e), a := .src 1 true } }
def formStr : Form :=
  { op := 0x118, once := false, fields := fun e => fMemType e,
    roles := fun e => { a := .src 1 true, b := .src (memNames e) true } }
def formPref : Form := { op := 0x119, fields := fun e => e.fz 4, roles := fun _ => { a := .addr } }
/-- CLEAN and INVAL: F[2:0] SCOPE; F[3] ICACHE only in INVAL at device or system scope (R218). -/
def formClean : Form :=
  { op := 0x11A, lane := false, fields := fun e => e.fz 3 && e.fb 0 3 < 5,
    roles := fun _ => { a := .g 2 2 false 1 0, b := .src 1 true } }
def formInval : Form :=
  { op := 0x11B, lane := false, fields := fun e => e.fz 4 && e.fb 0 3 < 5 && (e.fb 3 1 = 0 || 3 ≤ e.fb 0 3),
    roles := fun _ => { a := .g 2 2 false 1 0, b := .src 1 true } }

/-! ### Copies, counters and queues (08) -/

/-- R190: F[18:4] zero; with SREG K[31:6] zero. -/
def fCpy (e : Enc) (na : Bool) : Bool :=
  e.fz 4 && e.xz && (na || e.fb 2 1 = 0) && (e.fb 3 1 = 0 || e.k.toNat < 64)
def formCpy : Form :=
  { op := 0x140, len := 2, lane := false, fields := fun e => fCpy e true,
    roles := fun _ => { a := .g 2 2 false 1 0, b := .g 1 1 false 1 0, c := .g 2 2 true 1 0 } }
def formCpyo : Form :=
  { op := 0x141, len := 2, lane := false, fields := fun e => fCpy e true,
    roles := fun _ => { a := .g 2 2 false 1 0, b := .g 1 1 false 1 0, c := .g 2 2 true 1 0 } }
def formCpyr : Form :=
  { op := 0x142, len := 2, lane := false, fields := fun e => fCpy e false,
    roles := fun _ => { a := .g 1 1 false 1 0, b := .g 1 1 false 1 0, c := .g 2 2 true 1 0 } }
/-- WAITC: F[9] TREG, F[8:3] THR (zero with TREG), F[2:0] PATH 0 to 5 (R185). -/
def formWaitc : Form :=
  { op := 0x143, lane := false,
    fields := fun e => e.fz 10 && e.fb 0 3 < 6 && (e.fb 9 1 = 0 || e.fb 3 6 = 0),
    roles := fun e => { a := if e.fb 9 1 = 1 then .g 1 1 false 1 0 else .unused } }
def formQinit : Form :=
  { op := 0x144, lane := false, fields := fun e => e.fz 15 && e.fb 12 3 < 5,
    roles := fun _ => { a := .g 1 1 true 1 0 } }
def formQpush : Form :=
  { op := 0x145, fields := fun e => e.fz 6,
    roles := fun e => { d := if e.fb 4 1 = 1 then .dst 1 else .unused, a := if e.uni then .reg 1 1 else .src 1 true,
                        b := if e.fb 5 1 = 1 then .uimm else .unused } }
def formQpop : Form :=
  { op := 0x146, fields := fun e => e.fz 5, roles := fun e => { d := .dst (1 + e.fb 4 1) } }

/-! ### Atomics, fences, tickets, monitors (11) -/

def atomTypes (aop : Nat) : List Nat :=
  if aop ≤ 2 then [0, 1, 2, 3, 4, 7] else if aop ≤ 6 then [0, 1, 2, 3] else if aop ≤ 8 then [1] else []

/-- R249: FLAT 18, TB [17:15], AOP [14:11], ORDER [10:9], SCOPE [8:6], SP 5, type [3:0]. -/
def fAtom (e : Enc) : Bool :=
  e.fb 4 1 = 0 && e.fb 6 3 < 5 && !(e.fb 18 1 = 1 && e.fb 5 1 = 1)
    && ((e.fb 18 1 = 0 && e.fb 5 1 = 0) || e.fb 15 3 = 0)
/-- The address operand of an atomic (R251). -/
def atomAddr (e : Enc) : Role :=
  if e.fb 18 1 = 1 then .addr
  else if e.uni ∧ e.fb 5 1 = 0 then .g 1 1 false 1 0
  else .src 1 true
def formAtom : Form :=
  { op := 0x160, fields := fun e => fAtom e && tyIn (e.fb 0 4) (atomTypes (e.fb 11 4)),
    roles := fun e => let n := typeNames (e.fb 0 4); { d := .dst n, a := atomAddr e, b := .src n true } }
def formAtomc : Form :=
  { op := 0x161, fields := fun e => fAtom e && e.fb 11 4 = 0 && tyIn (e.fb 0 4) [0, 1, 2, 3],
    roles := fun e => let n := typeNames (e.fb 0 4);
      { d := .dst n, a := atomAddr e, b := .reg (2 * n) (2 * n) } }
def formRed : Form :=
  { op := 0x162,
    fields := fun e => fAtom e && e.fb 11 4 ≠ 6 && (e.fb 9 2 = 0 || e.fb 9 2 = 2)
      && tyIn (e.fb 0 4) (atomTypes (e.fb 11 4)),
    roles := fun e => { a := atomAddr e, b := .src (typeNames (e.fb 0 4)) true } }
def formFence : Form :=
  { op := 0x163, lane := false,
    fields := fun e => e.fz 11 && e.fb 0 5 = 0 && e.fb 6 3 < 5 && e.fb 9 2 ≠ 0, roles := fun _ => {} }
def formAfence : Form := { op := 0x164, lane := false, fields := fPlain, roles := fun _ => {} }
/-- Tickets: F[8:6] SCOPE 2 or 3, every other bit zero (R257). -/
def fTicket (e : Enc) : Bool := e.fz 9 && e.fb 0 6 = 0 && (e.fb 6 3 = 2 || e.fb 6 3 = 3)
def formTicket : Form :=
  { op := 0x165, lane := false, fields := fTicket,
    roles := fun _ => { d := .g 2 2 false 1 0, a := .g 2 2 false 1 0 } }
def formServed : Form :=
  { op := 0x166, lane := false, fields := fTicket,
    roles := fun _ => { a := .g 2 2 false 1 0, b := .g 2 2 false 1 0 } }
def formAdvance : Form :=
  { op := 0x167, lane := false, fields := fTicket, roles := fun _ => { a := .g 2 2 false 1 0 } }
def formWaitmon : Form :=
  { op := 0x168, lane := false,
    fields := fun e => e.fb 11 3 < 6 && e.fb 9 2 = 0 && 1 ≤ e.fb 6 3 && e.fb 6 3 < 5 && e.fb 4 2 = 0
      && tyIn (e.fb 0 4) [0, 1, 2, 3],
    roles := fun e => let n := typeNames (e.fb 0 4);
      { d := .g 1 1 false 1 0, a := .g 2 2 false 1 0, b := .src n true } }
def formTokpass : Form :=
  { op := 0x169, lane := false, fields := fPlain,
    roles := fun _ => { d := .g 1 1 false 1 0, a := .g 2 2 false 1 0 } }

/-! ### Matrix engines (12 R280 to R288) -/

/-- A region of SHAPE [13:12], MO 14, NO 15: MO zero with M = 64, NO zero with N = 64 (R267). -/
def fShape (e : Enc) : Bool :=
  let sh := e.fb 12 2
  (2 ≤ sh || e.fb 14 1 = 0) && (sh = 1 || sh = 3 || e.fb 15 1 = 0)
def mxForm (op : Nat) (fields : Enc → Bool) (roles : Enc → Roles) : Form := { op, lane := false, fields, roles }
def formMap : Form := mxForm 0x180 (fun e => e.fz 4) (fun _ => { a := .g 4 4 false 1 0 })
def formMma : Form :=
  mxForm 0x181 (fun e => e.fz 17 && fShape e && (e.fb 16 1 = 0 || e.fb 4 4 = 0)) (fun _ => {})
def formMmas : Form := mxForm 0x182 (fun e => e.fz 16 && fShape e) (fun _ => {})
def formMzero : Form := mxForm 0x183 (fun e => e.fz 6 && e.fb 4 2 ≠ 3) (fun _ => {})
def formMlda : Form := mxForm 0x184 (fun e => e.fz 18 && e.fb 16 2 ≠ 3 && fShape e && e.fb 8 4 = 0) (fun _ => {})
/-- MDRAIN and MBYP name an even g pair in B with .scale or .clamp, else 0x10F (R286). -/
def mdrainB (e : Enc) : Roles := { b := if e.fb 17 2 = 0 then .unused else .g 2 2 false 1 0 }
def formMdrain : Form := mxForm 0x185 (fun e => fShape e && e.fb 8 4 = 0) mdrainB
def formMbyp : Form := mxForm 0x186 (fun e => fShape e && e.fb 8 4 = 0 && e.fb 4 4 ≠ 15) mdrainB
def formMfence : Form := mxForm 0x187 fPlain (fun _ => { d := .g 1 1 false 1 0 })
def formMwait : Form :=
  mxForm 0x188 (fun e => e.fz 1) (fun e => { a := if e.fb 0 1 = 1 then .unused else .g 1 1 false 0x180 0x187 })

/-! ### Tile memory, images, rays, records (13) -/

def gfxForm (op len : Nat) (fields : Enc → Bool) (roles : Enc → Roles) : Form :=
  { op, len, once := false, fields, roles }
/-- TLDT: F[3:0] ATT, F[5] OWN (R298). The width of D depends on the attachment's format, checked as declared by the pass
(assumption 13): attachment 8 takes a quad. -/
def formTldt : Form :=
  gfxForm 0x1A0 0 (fun e => e.fz 6 && e.fb 4 1 = 0)
    (fun e => { d := if e.fb 0 4 = 8 then .vo 4 4 else .vo 1 1, a := if e.fb 5 1 = 1 then .unused else .src 1 true })
def formTstt : Form :=
  gfxForm 0x1A1 0 (fun e => e.fz 6)
    (fun e => { a := if e.fb 5 1 = 1 then .unused else .src 1 true, b := .src 1 true })
def formOrdbegin : Form := gfxForm 0x1A2 0 fPlain (fun _ => {})
def formOrdend : Form := gfxForm 0x1A3 0 fPlain (fun _ => {})
def formSample : Form :=
  gfxForm 0x1A4 0 (fun e => e.fz 9 && (e.fb 8 1 = 0 || e.fb 6 2 < 2))
    (fun _ => { d := .vo 4 4, a := .src 4 false, b := .src 1 true })
def formSampleg : Form :=
  gfxForm 0x1A5 0 (fun e => e.fz 9 && e.fb 6 2 = 0)
    (fun _ => { d := .vo 4 4, a := .reg 8 8, b := .src 1 true })
def formTfetch : Form :=
  gfxForm 0x1A6 0 (fun e => e.fz 3) (fun _ => { d := .vo 4 4, a := .src 4 true, b := .src 1 true })
def formIstore : Form :=
  gfxForm 0x1A7 0 (fun e => e.fz 3) (fun _ => { d := .src 1 true, a := .src 4 true, b := .src 4 true })
def formTrace : Form :=
  gfxForm 0x1A8 2 (fun e => e.fz 5 && e.xz)
    (fun e => { d := if e.fb 0 1 = 1 then .vo 2 2 else .src 1 true, a := .reg 8 8, b := .addr, c := .src 1 true })
def formEmit : Form :=
  gfxForm 0x1A9 0 (fun e => e.fz 6 && (e.fb 5 1 = 0 || e.fb 2 3 = 0)) (fun _ => { a := .src 1 true })
/-- VOUT: F[1:0] KIND, F[6:2] slot, zero but for attr (R317). -/
def formVout : Form :=
  gfxForm 0x1AA 0 (fun e => e.fz 7 && (e.fb 0 2 = 1 || e.fb 2 5 = 0))
    (fun e => { a := if e.fb 0 2 < 2 then .src 4 true else if e.fb 0 2 = 2 then .src 1 true else .unused })
def formDiscard : Form := gfxForm 0x1AB 0 fPlain (fun _ => {})

/-! ### System instructions (14, 16, 19, 20, 21) -/

/-- RDSYS and WRSYS: F[18:15] zero, WORD [14:13], DEST 12, INDEX [11:0], zero with DEST (R331). -/
def fSys (e : Enc) : Bool := e.fz 15 && (e.fb 12 1 = 0 || e.fb 0 12 = 0)
def formRdsys : Form := { op := 0x1C0, fields := fSys, roles := fun _ => { d := .dst 1 } }
def formWrsys : Form :=
  { op := 0x1C1, fields := fSys,
    roles := fun e => { a := if e.uni then .g 1 1 false 0x180 0x1FF else .src 1 true } }
def sysForm (op : Nat) (fields : Enc → Bool) (roles : Enc → Roles) : Form := { op, lane := false, fields, roles }
def formSret : Form := sysForm 0x1C2 fPlain (fun _ => {})
def formUret : Form := sysForm 0x1C3 fPlain (fun _ => {})
/-- TLBFILL: ACT [10:9], RES 8, ENTRY [7:2], SIZE [1:0] (R432). -/
def formTlbfill : Form :=
  sysForm 0x1C4 (fun e => e.fz 11 && e.fb 9 2 ≠ 3 && (e.fb 8 1 = 1 || (e.fb 9 2 = 0 && e.fb 2 6 = 0)))
    (fun _ => { d := .g 1 1 false 1 0, a := .g 6 8 false 1 0 })
/-- TLBINV and DHARV: MODE 0 .page (A), 1 .range (A, B), 2 .ctx (R429). -/
def invForm (op : Nat) : Form :=
  sysForm op (fun e => e.fz 2 && e.fb 0 2 ≠ 3)
    (fun e => { a := if e.fb 0 2 < 2 then .g 2 2 false 1 0 else .unused,
                b := if e.fb 0 2 = 1 then .g 1 1 false 1 0 else .unused })
def formTlbinv : Form := invForm 0x1C5
def formDharv : Form := invForm 0x1C6
def formWalkpop : Form := sysForm 0x1C7 fPlain (fun _ => { d := .g 4 4 false 1 0 })
def formHandover : Form :=
  sysForm 0x1C8 fPlain (fun _ => { d := .g 1 1 false 1 0, a := .g 1 1 false 1 0, b := .g 2 2 true 1 0 })
def formTokdef : Form :=
  sysForm 0x1C9 (fun e => e.f = 0)
    (fun _ => { d := .g 1 1 false 1 0, a := .g 2 2 false 1 0, b := .g 1 1 false 0x180 0x1FF })
def formTokdefDel : Form :=
  sysForm 0x1C9 (fun e => e.f = 1) (fun _ => { d := .g 1 1 false 1 0, a := .g 2 2 false 1 0 })
/-- CRDEF: D from 0x000 to 0x03B (R466), as five names would fit. -/
def formCrdef : Form :=
  sysForm 0x1CA (fun e => e.f = 0) (fun _ => { d := .g 5 1 false 1 0, a := .g 8 8 false 1 0 })
def crForm (f : Nat) : Form :=
  sysForm 0x1CA (fun e => e.f.toNat = f) (fun _ => { d := .g 5 1 false 1 0, b := .g 1 1 false 0x180 0x18F })
def formCrdefDel : Form := crForm 1
def formCrdefRd : Form := crForm 2
def formCrdefRdclr : Form := crForm 3
def formResumew : Form := sysForm 0x1CB fPlain (fun _ => { d := .g 1 1 false 1 0, a := .g 1 1 false 1 0 })
def formHaltw : Form := sysForm 0x1CC fPlain (fun _ => { d := .g 1 1 false 1 0, a := .g 1 1 false 1 0 })
def formRdwarp : Form :=
  { op := 0x1CD, fields := fPlain, roles := fun _ => { d := .dst 1, a := .unif, b := .src 1 true } }
def formWrwarp : Form :=
  { op := 0x1CE, fields := fPlain,
    roles := fun e => { d := if e.uni then .g 1 1 false 1 0 else .src 1 true, a := .unif, b := .src 1 true } }
def formTime : Form := sysForm 0x1CF fPlain (fun _ => { d := .g 2 2 false 1 0 })
def formBbmark : Form := sysForm 0x1D0 (fun e => e.fz 8) (fun _ => { a := .g 4 4 true 1 0 })
def formLaunch : Form :=
  sysForm 0x1D1 fPlain
    (fun _ => { d := .g 1 1 false 1 0, a := .g 2 2 false 1 0, b := .g 1 1 false 0x180 0x1BF })

end Sys2Proof
end

