-- ==== Sys2Proof/Machine/Table.lean ====
section
/-!
DEFINITION. The opcode map (02 R65): which form an instruction has, and which instruction an opcode names.
-/
namespace Sys2Proof

/-- The form and the raw fields of an instruction; none for an event or a reserved opcode. -/
def Instr.form? (i : Instr) : Option (Form × Enc) :=
  match i with
  | .nop e => some (formNop, e)
  | .mov e => some (formMov, e)
  | .movk e => some (formMovk, e)
  | .iadd e => some (formIadd, e)
  | .isub e => some (formIsub, e)
  | .iadd3 e => some (formIadd3, e)
  | .imul e => some (formImul, e)
  | .imulh e => some (formImulh, e)
  | .imad e => some (formImad, e)
  | .imadw e => some (formImadw, e)
  | .iadd64 e => some (formIadd64, e)
  | .imin e => some (formImin, e)
  | .imax e => some (formImax, e)
  | .iabs e => some (formIabs, e)
  | .icmp e => some (formIcmp, e)
  | .icmp64 e => some (formIcmp64, e)
  | .sel e => some (formSel, e)
  | .and e => some (formAnd, e)
  | .or e => some (formOr, e)
  | .xor e => some (formXor, e)
  | .andn e => some (formAndn, e)
  | .bool3 e => some (formBool3, e)
  | .shl e => some (formShl, e)
  | .shr e => some (formShr, e)
  | .sar e => some (formSar, e)
  | .shf e => some (formShf, e)
  | .bfe e => some (formBfe, e)
  | .bfi e => some (formBfi, e)
  | .popc e => some (formPopc, e)
  | .clz e => some (formClz, e)
  | .ctz e => some (formCtz, e)
  | .brev e => some (formBrev, e)
  | .lea e => some (formLea, e)
  | .bytex e => some (formBytex, e)
  | .shfl e => some (formShfl, e)
  | .vote e => some (formVote, e)
  | .matchLanes e => some (formMatch, e)
  | .redw e => some (formRedw, e)
  | .scanw e => some (formScanw, e)
  | .ksort e => some (formKsort, e)
  | .vtog e => some (formVtog, e)
  | .fadd e => some (formFadd, e)
  | .fmul e => some (formFmul, e)
  | .ffma e => some (formFfma, e)
  | .fmin e => some (formFmin, e)
  | .fmax e => some (formFmax, e)
  | .fcmp e => some (formFcmp, e)
  | .frnd e => some (formFrnd, e)
  | .fclass e => some (formFclass, e)
  | .frcp e => some (formFrcp, e)
  | .frsq e => some (formFrsq, e)
  | .fsqrt e => some (formFsqrt, e)
  | .fexp2 e => some (formFexp2, e)
  | .flog2 e => some (formFlog2, e)
  | .fsin e => some (formFsin, e)
  | .fcos e => some (formFcos, e)
  | .ftanh e => some (formFtanh, e)
  | .hadd2 e => some (formHadd2, e)
  | .hmul2 e => some (formHmul2, e)
  | .hfma2 e => some (formHfma2, e)
  | .hmin2 e => some (formHmin2, e)
  | .hmax2 e => some (formHmax2, e)
  | .hcmp2 e => some (formHcmp2, e)
  | .fdot2 e => some (formFdot2, e)
  | .dadd e => some (formDadd, e)
  | .dmul e => some (formDmul, e)
  | .dfma e => some (formDfma, e)
  | .dmin e => some (formDmin, e)
  | .dmax e => some (formDmax, e)
  | .dcmp e => some (formDcmp, e)
  | .drcp e => some (formDrcp, e)
  | .drsq e => some (formDrsq, e)
  | .dclass e => some (formDclass, e)
  | .drnd e => some (formDrnd, e)
  | .cvt e => some (formCvt, e)
  | .f2i e => some (formF2i, e)
  | .i2f e => some (formI2f, e)
  | .packq e => some (formPackq, e)
  | .unpackq e => some (formUnpackq, e)
  | .scalex e => some (formScalex, e)
  | .bra e => some (formBra, e)
  | .brx e => some (formBrx, e)
  | .switch e => some (formSwitch, e)
  | .join e => some (formJoin, e)
  | .call e => some (formCall, e)
  | .callx e => some (formCallx, e)
  | .ret e => some (formRet, e)
  | .exit e => some (formExit, e)
  | .yields e => some (formYields, e)
  | .loop e => some (formLoop, e)
  | .loopp e => some (formLoopp, e)
  | .breakLoop e => some (formBreak, e)
  | .lcget e => some (formLcget, e)
  | .lcset e => some (formLcset, e)
  | .ipref e => some (formIpref, e)
  | .trap e => some (formTrap, e)
  | .bkpt e => some (formBkpt, e)
  | .tbbind e => some (formTbbind, e)
  | .ld e => some (formLd, e)
  | .st e => some (formSt, e)
  | .ldx e => some (formLdx, e)
  | .stx e => some (formStx, e)
  | .lds e => some (formLds, e)
  | .sts e => some (formSts, e)
  | .ldr e => some (formLdr, e)
  | .str e => some (formStr, e)
  | .pref e => some (formPref, e)
  | .clean e => some (formClean, e)
  | .inval e => some (formInval, e)
  | .cpy e => some (formCpy, e)
  | .cpyo e => some (formCpyo, e)
  | .cpyr e => some (formCpyr, e)
  | .waitc e => some (formWaitc, e)
  | .qinit e => some (formQinit, e)
  | .qpush e => some (formQpush, e)
  | .qpop e => some (formQpop, e)
  | .atom e => some (formAtom, e)
  | .atomc e => some (formAtomc, e)
  | .red e => some (formRed, e)
  | .fence e => some (formFence, e)
  | .afence e => some (formAfence, e)
  | .ticket e => some (formTicket, e)
  | .served e => some (formServed, e)
  | .advance e => some (formAdvance, e)
  | .waitmon e => some (formWaitmon, e)
  | .tokpass e => some (formTokpass, e)
  | .map e => some (formMap, e)
  | .mma e => some (formMma, e)
  | .mmas e => some (formMmas, e)
  | .mzero e => some (formMzero, e)
  | .mlda e => some (formMlda, e)
  | .mdrain e => some (formMdrain, e)
  | .mbyp e => some (formMbyp, e)
  | .mfence e => some (formMfence, e)
  | .mwait e => some (formMwait, e)
  | .tldt e => some (formTldt, e)
  | .tstt e => some (formTstt, e)
  | .ordbegin e => some (formOrdbegin, e)
  | .ordend e => some (formOrdend, e)
  | .sample e => some (formSample, e)
  | .sampleg e => some (formSampleg, e)
  | .tfetch e => some (formTfetch, e)
  | .istore e => some (formIstore, e)
  | .trace e => some (formTrace, e)
  | .emit e => some (formEmit, e)
  | .vout e => some (formVout, e)
  | .discard e => some (formDiscard, e)
  | .rdsys e => some (formRdsys, e)
  | .wrsys e => some (formWrsys, e)
  | .sret e => some (formSret, e)
  | .uret e => some (formUret, e)
  | .tlbfill e => some (formTlbfill, e)
  | .tlbinv e => some (formTlbinv, e)
  | .dharv e => some (formDharv, e)
  | .walkpop e => some (formWalkpop, e)
  | .handover e => some (formHandover, e)
  | .tokdef e => some (formTokdef, e)
  | .tokdefDel e => some (formTokdefDel, e)
  | .crdef e => some (formCrdef, e)
  | .crdefDel e => some (formCrdefDel, e)
  | .crdefRd e => some (formCrdefRd, e)
  | .crdefRdclr e => some (formCrdefRdclr, e)
  | .resumew e => some (formResumew, e)
  | .haltw e => some (formHaltw, e)
  | .rdwarp e => some (formRdwarp, e)
  | .wrwarp e => some (formWrwarp, e)
  | .time e => some (formTime, e)
  | .bbmark e => some (formBbmark, e)
  | .launch e => some (formLaunch, e)
  | .reservedOpcode _ _ => none
  | .loadDataApplied _ _ _ => none
  | .storePerformed _ _ => none
  | .atomicAct _ _ _ => none
  | .homeRetry _ => none
  | .copyStart _ _ => none
  | .copyComplete _ _ => none
  | .ldrResult _ _ => none
  | .strPerformed _ _ => none
  | .remotePushArrival _ _ => none
  | .remotePushAppend _ _ => none
  | .qpushWake _ _ => none
  | .qpopWake _ _ => none
  | .waitcWake _ _ => none
  | .granuleWaitEnd _ _ => none
  | .matrixOpStart _ _ => none
  | .matrixReadComplete _ => none
  | .matrixOpComplete _ => none
  | .mwaitWake _ _ => none
  | .servedWake _ _ => none
  | .waitmonWake _ _ => none
  | .waitmonTimeout _ _ => none
  | .waitmonReread _ _ => none
  | .ordbeginGrant _ _ => none
  | .tldtResult _ _ => none
  | .textureResult _ _ => none
  | .traceComplete _ _ => none
  | .emitAppend _ _ => none
  | .tokenHandoffIdle _ => none
  | .tokenHandoffTimeout _ => none
  | .icacheFill _ _ _ => none
  | .walkerStart _ => none
  | .harvestInterval _ => none
  | .handoverDrain _ => none
  | .electrumWriteback _ _ => none
  | .homeWriteback _ _ _ => none
  | .correctionRecord _ _ _ => none
  | .warpEnd _ => none
  | .streamDescriptorWrite _ _ => none
  | .tailAdvance _ => none
  | .recordStart _ => none
  | .launchComplete _ => none
  | .waitConditionMet _ _ => none
  | .waitTimeout _ _ => none
  | .graphLoad _ => none
  | .tileTaskRetire _ => none
  | .dispatchOpportunity _ => none
  | .classWaitLimit _ => none
  | .class3Promotion _ => none
  | .class0Request _ => none
  | .victimSave _ => none
  | .orderedSectionTimeout _ => none
  | .saveAreaCopy _ => none
  | .watchdogFire _ => none
  | .xwaitTimeout _ => none
  | .thermalInterval _ _ => none
  | .migration _ => none
  | .migrationAbandon _ => none
  | .powerSample _ => none
  | .powerStateEntry _ => none
  | .unitWake _ => none
  | .frontEndBatch _ => none
  | .subpassRasterise _ => none
  | .fragmentWarpStart _ => none
  | .lateTest _ => none
  | .verticalBlank _ => none
  | .headConfigWrite _ _ _ => none
  | .peerApertureWrite _ _ => none
  | .ptrootWrite _ _ => none
  | .registerWrite _ _ _ => none
  | .hostMemRead _ _ => none
  | .hostMemWrite _ _ _ => none
  | .birsp _ _ _ _ => none
  | .snpdata _ _ => none
  | .snpinv _ _ => none
  | .snpcur _ _ => none
  | .peerCompletion _ _ => none
  | .coldStart => none
  | .linkTraining _ => none
  | .linkRetrain _ => none
  | .loadfw _ => none
  | .warm => none
  | .resync _ => none
  | .debugrd _ _ => none
  | .flowcopy _ => none
  | .spdmRequest _ _ => none
  | .ldsResult _ _ => none
  | .scanLine _ _ => none
  | .imageRegionError => none

/-- Rows of the opcode map, part 1. -/
def opRows1 : List (Nat × (Enc → Instr)) :=
  [(formNop.op, .nop),
   (formMov.op, .mov),
   (formMovk.op, .movk),
   (formIadd.op, .iadd),
   (formIsub.op, .isub),
   (formIadd3.op, .iadd3),
   (formImul.op, .imul),
   (formImulh.op, .imulh),
   (formImad.op, .imad),
   (formImadw.op, .imadw),
   (formIadd64.op, .iadd64),
   (formImin.op, .imin),
   (formImax.op, .imax),
   (formIabs.op, .iabs),
   (formIcmp.op, .icmp),
   (formIcmp64.op, .icmp64),
   (formSel.op, .sel),
   (formAnd.op, .and),
   (formOr.op, .or),
   (formXor.op, .xor),
   (formAndn.op, .andn),
   (formBool3.op, .bool3),
   (formShl.op, .shl),
   (formShr.op, .shr),
   (formSar.op, .sar),
   (formShf.op, .shf),
   (formBfe.op, .bfe),
   (formBfi.op, .bfi),
   (formPopc.op, .popc),
   (formClz.op, .clz),
   (formCtz.op, .ctz),
   (formBrev.op, .brev),
   (formLea.op, .lea),
   (formBytex.op, .bytex),
   (formShfl.op, .shfl),
   (formVote.op, .vote),
   (formMatch.op, .matchLanes),
   (formRedw.op, .redw),
   (formScanw.op, .scanw),
   (formKsort.op, .ksort),
   (formVtog.op, .vtog),
   (formFadd.op, .fadd)]

/-- Rows of the opcode map, part 2. -/
def opRows2 : List (Nat × (Enc → Instr)) :=
  [(formFmul.op, .fmul),
   (formFfma.op, .ffma),
   (formFmin.op, .fmin),
   (formFmax.op, .fmax),
   (formFcmp.op, .fcmp),
   (formFrnd.op, .frnd),
   (formFclass.op, .fclass),
   (formFrcp.op, .frcp),
   (formFrsq.op, .frsq),
   (formFsqrt.op, .fsqrt),
   (formFexp2.op, .fexp2),
   (formFlog2.op, .flog2),
   (formFsin.op, .fsin),
   (formFcos.op, .fcos),
   (formFtanh.op, .ftanh),
   (formHadd2.op, .hadd2),
   (formHmul2.op, .hmul2),
   (formHfma2.op, .hfma2),
   (formHmin2.op, .hmin2),
   (formHmax2.op, .hmax2),
   (formHcmp2.op, .hcmp2),
   (formFdot2.op, .fdot2),
   (formDadd.op, .dadd),
   (formDmul.op, .dmul),
   (formDfma.op, .dfma),
   (formDmin.op, .dmin),
   (formDmax.op, .dmax),
   (formDcmp.op, .dcmp),
   (formDrcp.op, .drcp),
   (formDrsq.op, .drsq),
   (formDclass.op, .dclass),
   (formDrnd.op, .drnd),
   (formCvt.op, .cvt),
   (formF2i.op, .f2i),
   (formI2f.op, .i2f),
   (formPackq.op, .packq),
   (formUnpackq.op, .unpackq),
   (formScalex.op, .scalex),
   (formBra.op, .bra),
   (formBrx.op, .brx),
   (formSwitch.op, .switch),
   (formJoin.op, .join)]

/-- Rows of the opcode map, part 3. -/
def opRows3 : List (Nat × (Enc → Instr)) :=
  [(formCall.op, .call),
   (formCallx.op, .callx),
   (formRet.op, .ret),
   (formExit.op, .exit),
   (formYields.op, .yields),
   (formLoop.op, .loop),
   (formLoopp.op, .loopp),
   (formBreak.op, .breakLoop),
   (formLcget.op, .lcget),
   (formLcset.op, .lcset),
   (formIpref.op, .ipref),
   (formTrap.op, .trap),
   (formBkpt.op, .bkpt),
   (formTbbind.op, .tbbind),
   (formLd.op, .ld),
   (formSt.op, .st),
   (formLdx.op, .ldx),
   (formStx.op, .stx),
   (formLds.op, .lds),
   (formSts.op, .sts),
   (formLdr.op, .ldr),
   (formStr.op, .str),
   (formPref.op, .pref),
   (formClean.op, .clean),
   (formInval.op, .inval),
   (formCpy.op, .cpy),
   (formCpyo.op, .cpyo),
   (formCpyr.op, .cpyr),
   (formWaitc.op, .waitc),
   (formQinit.op, .qinit),
   (formQpush.op, .qpush),
   (formQpop.op, .qpop),
   (formAtom.op, .atom),
   (formAtomc.op, .atomc),
   (formRed.op, .red),
   (formFence.op, .fence),
   (formAfence.op, .afence),
   (formTicket.op, .ticket),
   (formServed.op, .served),
   (formAdvance.op, .advance),
   (formWaitmon.op, .waitmon),
   (formTokpass.op, .tokpass)]

/-- Rows of the opcode map, part 4. -/
def opRows4 : List (Nat × (Enc → Instr)) :=
  [(formMap.op, .map),
   (formMma.op, .mma),
   (formMmas.op, .mmas),
   (formMzero.op, .mzero),
   (formMlda.op, .mlda),
   (formMdrain.op, .mdrain),
   (formMbyp.op, .mbyp),
   (formMfence.op, .mfence),
   (formMwait.op, .mwait),
   (formTldt.op, .tldt),
   (formTstt.op, .tstt),
   (formOrdbegin.op, .ordbegin),
   (formOrdend.op, .ordend),
   (formSample.op, .sample),
   (formSampleg.op, .sampleg),
   (formTfetch.op, .tfetch),
   (formIstore.op, .istore),
   (formTrace.op, .trace),
   (formEmit.op, .emit),
   (formVout.op, .vout),
   (formDiscard.op, .discard),
   (formRdsys.op, .rdsys),
   (formWrsys.op, .wrsys),
   (formSret.op, .sret),
   (formUret.op, .uret),
   (formTlbfill.op, .tlbfill),
   (formTlbinv.op, .tlbinv),
   (formDharv.op, .dharv),
   (formWalkpop.op, .walkpop),
   (formHandover.op, .handover),
   (formResumew.op, .resumew),
   (formHaltw.op, .haltw),
   (formRdwarp.op, .rdwarp),
   (formWrwarp.op, .wrwarp),
   (formTime.op, .time),
   (formBbmark.op, .bbmark),
   (formLaunch.op, .launch)]

/-- Rows whose F field tells the rows of the operation table apart (20 R451, 21 R466). -/
def opRowsF : List (Nat × (Enc → Instr)) :=
  [(formTokdef.op, fun e => if e.fb 0 1 = 1 then .tokdefDel e else .tokdef e),
   (formCrdef.op, fun e =>
     if e.fb 0 2 = 0 then .crdef e else if e.fb 0 2 = 1 then .crdefDel e
     else if e.fb 0 2 = 2 then .crdefRd e else .crdefRdclr e)]

/-- The assigned opcodes (R65). -/
def opTable : List (Nat × (Enc → Instr)) := opRows1 ++ opRows2 ++ opRows3 ++ opRows4 ++ opRowsF

/-- The instruction an opcode names, with its raw fields; an unassigned opcode is a reserved one (R66). -/
def instrOf (op : BitVec 9) (e : Enc) : Instr :=
  match opTable.find? (fun r => r.1 == op.toNat) with
  | some r => r.2 e
  | none => .reservedOpcode op e

/-- Whether an opcode value is unassigned (R66). -/
def opUnassigned (op : BitVec 9) : Bool := (opTable.find? (fun r => r.1 == op.toNat)).isNone

end Sys2Proof
end

