-- ==== Sys2Proof/WellFormed.lean ====
section
/-!
DEFINITION. Well-formed instructions: the checks of R69 steps 3, 4, 6 and 7 that the words alone decide (with the largest
allocation, 256 registers).
-/
namespace Sys2Proof

/-- LEN and U are legal (R65): step 4 of R69. -/
def Form.lenU (f : Form) (e : Enc) : Bool :=
  e.len.toNat = f.len && (if e.uni then f.once else f.lane)

/-- PRED is none of the reserved codes (R58) and, where the entry asks for it, 0. -/
def Form.predOk (f : Form) (e : Enc) : Bool :=
  if f.unpred then e.pred = 0 else 8 ≤ e.pred.toNat || e.pred = 0

/-- W is legal (R55). -/
def Form.wOk (f : Form) (e : Enc) : Bool := e.w = 0 || (f.direct && !e.uni)

/-- No reserved field is violated: step 6 of R69. -/
def Form.fieldsOk (f : Form) (e : Enc) : Bool := f.fields e && f.predOk e && f.wOk e

/-- The first operand position that fails, as POS of R68, and how: step 7 of R69, in the order predicate, D, A, B, C. -/
def Form.operands (f : Form) (e : Enc) (vregs : Nat) : Option (Nat × SpecCheck) :=
  let r := f.roles e
  let u := e.uni
  let pred : SpecCheck := if 16 ≤ e.pred.toNat ∧ !u ∧ vregs ≤ e.pred.toNat % 8 then .allocation else .ok
  let d := if e.w = 1 then .ok else r.d.check u vregs e.d.toNat
  let a := r.a.check u vregs e.a.toNat
  let b := r.b.check u vregs e.b.toNat
  let c := if f.len = 0 then .ok else r.c.check u vregs e.c.toNat
  if pred ≠ .ok then some (0, pred)
  else if d ≠ .ok then some (1, d)
  else if a ≠ .ok then some (2, a)
  else if b ≠ .ok then some (3, b)
  else if c ≠ .ok then some (4, c)
  else none

/-- The words a length leaves out hold nothing. -/
def Enc.absentZero (e : Enc) : Bool :=
  (2 ≤ e.len.toNat || e.k = 0) && (1 ≤ e.len.toNat || (e.c = 0 && e.x = 0))

/-- Why an instruction is ill-formed. -/
inductive IllFormed where
  /-- LEN or U is not the opcode's (R65), or a word the length leaves out is not zero. -/
  | badLengthOrU
  /-- A reserved field, a reserved code or an illegal W (R54, R55, R58, R64). -/
  | reservedField
  /-- A specifier illegal at position pos, as POS of R68 (R59, R60, R61). -/
  | operand (pos : Nat) (why : SpecCheck)
  /-- The opcode of a reserved-opcode row is assigned (R66), or its LEN is that of a pad unit (R48). -/
  | notReserved
  /-- An event is no instruction of the opcode map. -/
  | event
deriving DecidableEq, Repr

/-- The first check of R69 that the words of an instruction fail. -/
def Instr.illFormed (i : Instr) : Option IllFormed :=
  match i with
  | .reservedOpcode op e =>
    if opUnassigned op && e.len ≠ 3 && e.absentZero then none else some .notReserved
  | i =>
    match i.form? with
    | none => some .event
    | some (f, e) =>
      if !(f.lenU e && e.absentZero) then some .badLengthOrU
      else if !f.fieldsOk e then some .reservedField
      else (f.operands e 256).map fun p => .operand p.1 p.2

/-- A well-formed instruction of the opcode map. -/
def Instr.wellFormed (i : Instr) : Bool := i.illFormed.isNone

end Sys2Proof
end

