-- ==== Sys2Proof/Machine/Operands.lean ====
section
/-!
DEFINITION. Operands: the execution mask, the reading of every operand form and the writing of every destination form
(02 R58 to R62, R70 to R72, 03 R95, 07 R166).
-/
namespace Sys2Proof.Machine

/-- An instruction at issue: the issuing warp and split as they stand, its fields, its form, its execution mask. -/
structure Issue where
  w : Nat
  k : Nat
  warp : Warp
  sp : Split
  e : Enc
  f : Form
  em : Word

/-- Key of a lane's register word in a store. -/
def laneKey (n lane : Nat) : Nat := 32 * n + lane

/-- The physical v register a name stands for (07 R166). -/
def rotName (sp : Split) (n : Nat) : Nat :=
  match sp.frame.pipe with
  | some l => if l.depth = sp.frame.depth ∧ 192 ≤ n ∧ n < 192 + l.win then 192 + (n - 192 + l.rb) % l.win else n
  | none => n

/-- The execution mask (02 R70). -/
def execMask (warp : Warp) (sp : Split) (e : Enc) : Word :=
  let p := e.pred.toNat
  let neg := (p / 8) % 2 = 1
  if 16 ≤ p then
    let n := p % 8
    if e.uni then (if ((Store.get warp.g n).getLsbD 0) != neg then sp.live else 0)
    else maskOf ((lanesOf sp.live).filter fun i => ((Store.get warp.v (laneKey n i)).getLsbD 0) != neg)
  else if 8 ≤ p then
    match sp.frame.pipe with
    | some l => if p % 8 < l.stages ∧ l.stagemask.getLsbD (p % 8) then sp.live else 0
    | none => 0
  else sp.live

/-- The register word that word j of a specifier names for a lane; none where it names no register. -/
def Issue.reg (c : Issue) (spec j : Nat) : Option RegName :=
  if c.e.uni ∧ spec < 0x40 then some (.g (spec + j))
  else if spec < 0x100 then some (.v (rotName c.sp (spec + j)))
  else if spec < 0x108 then some (.o (spec - 0x100 + j))
  else if 0x140 ≤ spec ∧ spec < 0x180 then some (.g (spec - 0x140 + j))
  else none

/-- A register word of a lane. -/
def Warp.getReg (w : Warp) (r : RegName) (lane : Nat) : Word :=
  match r with
  | .v n => Store.get w.v (laneKey n lane)
  | .o n => Store.get w.o (laneKey n lane)
  | .g n => Store.get w.g n

/-- The poison mark of a register word. -/
def Warp.poison (w : Warp) (r : RegName) (lane : Nat) : Nat :=
  match r with
  | .v n => (Tab.get? w.pv (laneKey n lane)).getD 0
  | .o n => (Tab.get? w.po (laneKey n lane)).getD 0
  | .g n => (Tab.get? w.pg n).getD 0

/-- An inline immediate as an integer (02 R59). -/
def immInt (spec : Nat) : Int := let n := spec % 128; if n < 64 then (n : Int) else (n : Int) - 128

/-- Word j of a source as a raw, integer or untyped operand (02 R61, R70). -/
def Issue.word (c : Issue) (spec lane j : Nat) : Word :=
  match c.reg spec j with
  | some r => c.warp.getReg r lane
  | none =>
    if 0x180 ≤ spec then (BitVec.ofInt 64 (immInt spec)).extractLsb' (32 * j) 32
    else if spec < 0x10C then
      if j < 2 then (Store.get c.sp.latches.data (laneKey (spec - 0x108) lane)).extractLsb' (32 * j) 32 else 0
    else if j ≠ 0 then 0
    else if spec = 0x10C then BitVec.ofNat 32 lane
    else if spec = 0x10D then BitVec.ofNat 32 c.warp.index
    else if spec = 0x10E then c.sp.live
    else 0

/-- A 32-bit source. -/
def Issue.rd (c : Issue) (spec : BitVec 9) (lane : Nat) : Word := c.word spec.toNat lane 0

/-- A 64-bit source, low word first. -/
def Issue.rd64 (c : Issue) (spec : BitVec 9) (lane : Nat) : DWord := c.word spec.toNat lane 1 ++ c.word spec.toNat lane 0

/-- n words of a source. -/
def Issue.rdWords (c : Issue) (spec : BitVec 9) (lane n : Nat) : List Word := (List.range n).map (c.word spec.toNat lane)

/-- A floating-point source's encoding in a format (02 R61): an immediate is the format's encoding of its value, in both
halves for a packed operand. -/
def Issue.rdFp (c : Issue) (spec : BitVec 9) (lane : Nat) (f : Fmt) (packed : Bool) : Nat :=
  let sp := spec.toNat
  if 0x180 ≤ sp then
    let x := (roundTo f (Num.ofInt (immInt sp) 0 false) 0 false false).1
    if packed then x + 2 ^ 16 * x else x
  else if f = .f64 then (c.rd64 spec lane).toNat
  else (c.rd spec lane).toNat % (if packed then 2 ^ 32 else 2 ^ f.width)

/-- The lane an instruction reads once from: the lowest lane of its execution mask. -/
def Issue.first (c : Issue) : Nat := ((lanesOf c.em).head?).getD 0

/-- A g register. -/
def Warp.gReg (w : Warp) (n : Nat) : Word := Store.get w.g n

/-- A g pair. -/
def Warp.gPair (w : Warp) (n : Nat) : DWord := w.gReg (n + 1) ++ w.gReg n

/-! ### Writing -/

/-- A register word written, its poison cleared (09 R216). -/
def Warp.setReg (w : Warp) (r : RegName) (lane : Nat) (x : Word) : Warp :=
  match r with
  | .v n => { w with v := Store.set w.v (laneKey n lane) x, pv := Tab.erase w.pv (laneKey n lane) }
  | .o n => { w with o := Store.set w.o (laneKey n lane) x, po := Tab.erase w.po (laneKey n lane) }
  | .g n => { w with g := Store.set w.g n x, pg := Tab.erase w.pg n }

/-- A register word marked poisoned (09 R216, 26 R502). -/
def Warp.setPoison (w : Warp) (r : RegName) (lane kind : Nat) : Warp :=
  match r with
  | .v n => { w with pv := Tab.set w.pv (laneKey n lane) kind }
  | .o n => { w with po := Tab.set w.po (laneKey n lane) kind }
  | .g n => { w with pg := Tab.set w.pg n kind }

/-- A destination word is the register word of a lane (of no lane, for a g register). -/
def DstWord.names (d : DstWord) (r : RegName) (lane : Nat) : Bool :=
  d.reg = r && (match r with | .g _ => true | _ => d.lane = lane)

/-- The destination words of an older operation once a later instruction has written a register word: that word is gone (03 R95).
Where the later write is its instruction's at issue, it is the register's youngest pending write while its latency lasts (R94), which
the words of the split's other lanes note. -/
def PendOp.overtaken (p : PendOp) (r : RegName) (lane : Nat) (direct : Bool) : PendOp :=
  { p with dsts := (p.dsts.filter fun d => !d.names r lane).map fun d =>
      if direct && d.reg = r && p.mask.getLsbD lane then { d with passed := true } else d }

/-- No pending operation has a number this high. -/
def allOps : Nat := 2 ^ 128

/-- A write by a later instruction has been applied: results of operations below `limit` no longer write the word (03 R95). -/
def Warp.supersede (w : Warp) (limit : Nat) (r : RegName) (lane : Nat) : Warp :=
  { w with pend := w.pend.map fun p => if p.id < limit then p.overtaken r lane (limit == allOps) else p }

/-- A register word written at issue: the results of every operation pending so far lose it. -/
def Warp.put (w : Warp) (r : RegName) (lane : Nat) (x : Word) : Warp := (w.supersede allOps r lane).setReg r lane x

/-- The words of a result written to a specifier for a lane (02 R71). -/
def Issue.putWords (c : Issue) (w : Warp) (spec lane : Nat) (xs : List Word) : Warp :=
  (xs.zip (List.range xs.length)).foldl (fun w p =>
    match c.reg spec p.2 with
    | some r => w.put r lane p.1
    | none => w) w

/-- A 64-bit value as two words. -/
def words2 (x : DWord) : List Word := [x.extractLsb' 0 32, x.extractLsb' 32 32]

/-- The low 64 bits of a result. -/
def low64 (xs : List Word) : DWord := (xs.getD 1 0) ++ (xs.getD 0 0)

/-- latch_push (02 R72): results of the executing lanes into l0, zero for the others. -/
def Latches.push (l : Latches) (res : List (Nat × DWord)) : Latches :=
  let moved := (l.data.filter fun p => p.1 < 96).map fun p => (p.1 + 32, p.2)
  { data := res.foldl (fun d p => Store.set d p.1 p.2) moved, valid := (l.valid <<< 1) ||| 1 }

/-- Latches no longer valid (03 R86). -/
def Latches.clear (l : Latches) : Latches := { l with valid := 0 }

/-- A split changed. -/
def Warp.modSplit (w : Warp) (k : Nat) (f : Split → Split) : Warp := { w with splits := Tab.modify w.splits k f }

/-! ### The register that TDEST names (14 R325, R332) -/

/-- What TDEST names. -/
inductive DestName where
  | none | v (n : Nat) | o (n : Nat) | g (n : Nat)

/-- Word j of the register that TDEST names, through the recorded rotation. -/
def UserFrame.destName (u : UserFrame) (j : Nat) : DestName :=
  let spec := u.tdest.toNat % 512
  if spec = 0x1FF then .none
  else if u.tdest.getLsbD 9 && spec < 0x40 then .g (spec + j)
  else if spec < 0x100 then
    let n := spec + j
    .v (if 192 ≤ n ∧ n < 192 + u.win then 192 + (n - 192 + u.rb) % u.win else n)
  else if spec < 0x108 then .o (spec - 0x100 + j)
  else if 0x140 ≤ spec ∧ spec < 0x180 then .g (spec - 0x140 + j)
  else .none

/-- RDSYS.dest, which reads the register that TDEST names. -/
def Issue.readsDest (c : Issue) : Bool := c.f.op = 0x1C0 && c.e.fb 12 1 = 1 && c.sp.level = 1

/-- The register word of the warp that RDSYS.dest reads: a v register of each lane, or a g register. -/
def Issue.destSource (c : Issue) : Option RegName :=
  if c.readsDest then
    match c.sp.user.destName (c.e.fb 13 2) with
    | .v n => if c.e.uni then none else some (.v n)
    | .g n => some (.g n)
    | _ => none
  else none

/-- The poison mark of the saved operand-file word that RDSYS.dest reads for a lane (09 R216). -/
def Issue.destMark (c : Issue) (i : Nat) : Nat :=
  if c.readsDest && !c.e.uni then
    match c.sp.user.destName (c.e.fb 13 2), c.sp.user.saved with
    | .o n, some x => (Tab.get? x.omarks (laneKey n i)).getD 0
    | _, _ => 0
  else 0

/-! ### Checks on operands -/

/-- Names a role takes. -/
def roleNames (r : Role) : Nat :=
  match r with
  | .unused | .raw => 0
  | .src n _ | .reg n _ | .g n _ _ _ _ | .vo n _ | .dst n | .dstU n | .dstG n => n
  | .unif | .uimm => 1
  | .addr | .target => 2

/-- D is a source of the instruction and no destination: ISTORE, TRACE, WRWARP. -/
def dIsSource (f : Form) : Bool := f.op = 0x1A7 || f.op = 0x1A8 || f.op = 0x1CE

/-- Names the instruction writes through D (14 R325): none for a source, and the status alone for CRDEF. -/
def destNames (f : Form) (e : Enc) : Nat :=
  if e.w = 1 || dIsSource f then 0
  else match (f.roles e).d with
    | .unused | .raw => 0
    | r => if f.op = 0x1CA then 1 else roleNames r

/-- The source specifiers with their positions (02 R68) and counts of names. -/
def Issue.sources (c : Issue) : List (Nat × Nat × Nat) :=
  let r := c.f.roles c.e
  (if dIsSource c.f then [(1, c.e.d.toNat, roleNames r.d)] else []) ++
    [(2, c.e.a.toNat, roleNames r.a), (3, c.e.b.toNat, roleNames r.b)] ++ (if c.f.len = 0 then [] else [(4, c.e.c.toNat, roleNames r.c)])

/-- The register words that an instruction reads, its register predicate's among them (02 R58, R59). -/
def Issue.readRegs (c : Issue) : List RegName :=
  let p := c.e.pred.toNat
  (if 16 ≤ p then [if c.e.uni then .g (p % 8) else .v (p % 8)] else []) ++
    c.destSource.toList ++ c.sources.flatMap fun q => (List.range q.2.2).filterMap (c.reg q.2.1)

/-- The first source that names a latch whose valid bit is clear (02 R69 step 9). -/
def Issue.staleLatch (c : Issue) : Option Nat :=
  (c.sources.find? fun p =>
    p.2.2 ≠ 0 && !c.e.uni && 0x108 ≤ p.2.1 && p.2.1 < 0x10C && !(c.sp.latches.valid.getLsbD (p.2.1 - 0x108))).map (·.1)

/-- The poison mark a lane reads, if any: its register predicate's, and, where it executes, its sources', the register that TDEST names
among them. -/
def Issue.laneMark (c : Issue) (i : Nat) : Nat :=
  let p := c.e.pred.toNat
  let pm := if 16 ≤ p then c.warp.poison (if c.e.uni then .g (p % 8) else .v (p % 8)) i else 0
  if pm ≠ 0 then pm
  else if !c.em.getLsbD i then 0
  else
    let regs := c.destSource.toList ++ c.sources.flatMap fun q => (List.range q.2.2).filterMap (c.reg q.2.1)
    (regs.findSome? fun r => let m := c.warp.poison r i; if m = 0 then none else some m).getD (c.destMark i)

/-- The lanes that read a poisoned word, with the mark first met (09 R216, 26 R502). DESIGN CHOICE (assumption 128): where the words were poisoned in
different ways, the lowest lane's first source gives the cause, and SMASK has every lane that reads a poisoned word. -/
def Issue.poisoned (c : Issue) : Option (Nat × Word) :=
  let bad := (lanesOf c.sp.live).filter fun i => c.laneMark i ≠ 0
  match bad with
  | [] => none
  | i :: _ => some (c.laneMark i, maskOf bad)

end Sys2Proof.Machine
end

