-- ==== Sys2Proof/Machine/Codec.lean ====
section
/-!
DEFINITION. The Electrum FP64 block code (21 R456 to R459, R461). A raw block is a number of 16 b bits, stream bit k being its
bit k; a decoded line holds element e in bits 64 e + 63 to 64 e.
-/
namespace Sys2Proof.Machine

/-- The forward transform of four values. -/
def elFwd (x0 x1 x2 x3 : Int) : List Int :=
  let a := (x0 + x1) / 2
  let b := (x2 + x3) / 2
  [(a + b) / 2, a - b, x0 - x1, x2 - x3]

/-- The inverse transform. -/
def elInv (s d0 d1 d2 : Int) : List Int :=
  let a := s + (d0 + 1) / 2
  let b := a - d0
  let x0 := a + (d1 + 1) / 2
  let x2 := b + (d2 + 1) / 2
  [x0, x0 - d1, x2, x2 - d2]

/-- A transform applied to each row of a 4 by 4 block in row order. -/
def elRows (f : Int → Int → Int → Int → List Int) (v : List Int) : List Int :=
  (List.range 4).flatMap fun r => f (v.getD (4 * r) 0) (v.getD (4 * r + 1) 0) (v.getD (4 * r + 2) 0) (v.getD (4 * r + 3) 0)

/-- Rows and columns exchanged. -/
def elTranspose (v : List Int) : List Int := (List.range 16).map fun i => v.getD (4 * (i % 4) + i / 4) 0

/-- The coefficient order, as positions 4 row + column. -/
def elOrder : List Nat := [0, 1, 4, 5, 2, 3, 8, 12, 6, 7, 9, 13, 10, 11, 14, 15]

/-- Class of a value: 0 finite, 1 +inf, 2 -inf, 3 NaN. -/
def elClass (x : Num) : Nat :=
  match x with | .nan _ => 3 | .inf false => 1 | .inf true => 2 | .fin .. => 0

/-- Unbiased exponent of a non-zero finite value, a subnormal counting as -1022. -/
def elExp (x : Num) : Int :=
  match x with | .fin _ m e => max (-1022) (e + (bitLen m : Int) - 1) | _ => -1022

/-- A value times 2^(59 - emax), truncated toward zero. -/
def elQuant (x : Num) (emax : Int) : Int :=
  match x with
  | .fin neg m e => let (n, _) := quantise false m e (emax - 59) 1; if neg then -(n : Int) else n
  | _ => 0

/-- Bits packed: each field's value in its width, first field lowest. -/
def packFields (fs : List (Nat × Nat)) : Nat := fs.foldr (fun p acc => (p.1 % 2 ^ p.2) + acc * 2 ^ p.2) 0

/-- A number with bit j set where the j-th of a list holds. -/
def bitsOfList (l : List Bool) : Nat := l.foldr (fun b acc => (if b then 1 else 0) + 2 * acc) 0

/-- Encoding of 16 values at b bits a value (R456, R457). -/
def elEncode (vals : List Nat) (b : Nat) : Nat :=
  let xs := vals.map Fmt.f64.value
  let cls := xs.map elClass
  let s := cls.any (· ≠ 0)
  let ys := xs.map fun x => if elClass x = 0 then x else .fin false 0 0
  let live := ys.filter fun y => !y.isZero
  let head (e p sg : Nat) (planes : List (Nat × Nat)) : Nat :=
    packFields ([(if s then 1 else 0, 1), (e, 11), (p, 6)] ++ (if s then cls.map fun c => (c, 2) else []) ++ [(sg, 16)] ++ planes)
      % 2 ^ (16 * b)
  match live.map elExp with
  | [] => head 0 0 0 []
  | e0 :: es =>
    let emax := es.foldl max e0
    let q := ys.map (elQuant · emax)
    let c := elTranspose (elRows elFwd (elTranspose (elRows elFwd q)))
    let co := elOrder.map fun i => c.getD i 0
    let mags := co.map Int.natAbs
    let p := (mags.foldl max 0).log2
    let planes := (List.range (p + 1)).map fun k => (bitsOfList (mags.map fun m => m.testBit (p - k)), 16)
    head (emax + 1023).toNat p (bitsOfList (co.map (· < 0))) planes

/-- The stored plane p of a block whose planes begin at bit off with plane top. -/
def elPlane (raw off top p : Nat) : Nat := (raw >>> (off + 16 * (top - p))) % 65536

/-- Decoding of a block; none where its header is inconsistent (R458, R459). -/
def elDecode (raw b : Nat) : Option (List Nat) :=
  let raw := raw % 2 ^ (16 * b)
  let s := raw % 2 = 1
  let e := (raw >>> 1) % 2048
  let p := (raw >>> 12) % 64
  let cls := (List.range 16).map fun k => if s then (raw >>> (18 + 2 * k)) % 4 else 0
  let so := if s then 50 else 18
  let signs := (raw >>> so) % 65536
  let off := so + 16
  let bad := e = 0x7FF
    || (e = 0 && (p ≠ 0 || signs ≠ 0 || elPlane raw off 0 0 ≠ 0))
    || (e ≠ 0 && elPlane raw off p p = 0)
    || (s && cls.all (· = 0))
  if bad then none
  else
    let mag (j : Nat) : Nat := (List.range (p + 1)).foldl (fun a k => a + (if (elPlane raw off p k).testBit j then 2 ^ k else 0)) 0
    let co := (List.range 16).map fun j => let m : Int := mag j; (BitVec.ofInt 64 (if signs.testBit j then -m else m)).toInt
    let c := (List.range 16).map fun i => co.getD (elOrder.findIdx (· = i)) 0
    let x := elRows elInv (elTranspose (elRows elInv (elTranspose c)))
    let lim : Int := 2 ^ 60 - 1
    some ((List.range 16).map fun k =>
      match cls.getD k 0 with
      | 1 => Fmt.f64.infEnc
      | 2 => Fmt.f64.signed true Fmt.f64.infEnc
      | 3 => Fmt.f64.nanEnc
      | _ =>
        if e = 0 then 0
        else (roundTo .f64 (Num.ofInt (min (max (x.getD k 0) (-lim)) lim) ((e : Int) - 1082) false) 0 false false).1)

/-- The elements of a decoded line. -/
def elElems (line : BitVec 1024) : List Nat := (List.range 16).map fun k => (line.extractLsb' (64 * k) 64).toNat

/-- A decoded line of its elements. -/
def elLine (vals : List Nat) : BitVec 1024 := BitVec.ofNat 1024 (packFields (vals.map fun v => (v, 64)))

/-- What the act of R461 leaves. -/
structure ElAct where
  raw : Nat
  drift : Bool
  /-- The largest error exponent of a written value. -/
  err : Option Int
  bad : Bool
deriving DecidableEq, Repr

/-- The exponent of the difference of two finite f64 values, none where they are equal or one is not finite. -/
def elErr (x y : Nat) : Option Int :=
  match Fmt.f64.value x, Fmt.f64.value y with
  | .fin a m e, .fin b n d =>
    match sumAll 0 [.fin a m e, .fin (!b) n d] with
    | .fin _ k q => if k = 0 then none else some (q + k.log2)
    | _ => none
  | _, _ => none

/-- The larger of two optional exponents. -/
def optMax (a b : Option Int) : Option Int :=
  match a, b with | some x, some y => some (max x y) | some x, none => some x | none, y => y

/-- The home's act on a writeback: written values merged, the block re-encoded (R461, R463). `entered` treats the old block
as inconsistent (R503). -/
def elMerge (raw b : Nat) (entered : Bool) (written : Nat → Bool) (vals : List Nat) : ElAct :=
  let full := (List.range 16).all written
  let dec := if entered then none else elDecode raw b
  let bad := dec.isNone && !full
  let old := dec.getD (List.replicate 16 Fmt.f64.nanEnc)
  let new := (List.range 16).map fun k => if written k then vals.getD k 0 else old.getD k 0
  let raw' := elEncode new b
  let out := (elDecode raw' b).getD new
  let err := (List.range 16).foldl (fun a k => if written k then optMax a (elErr (new.getD k 0) (out.getD k 0)) else a) none
  let drift := bad || (List.range 16).any fun k => !written k && out.getD k 0 ≠ old.getD k 0
  { raw := raw', drift, err, bad }

end Sys2Proof.Machine
end

