-- ==== Sys2Proof/Machine/Home.lean ====
section
/-!
DEFINITION. Places of physical memory (19 R412, R413), the home slices and what meets a request there (21 R461, 22 R473 to R475,
26 R503), cluster units (11 R245) and column caches (09 R209, 10 R233). A line is named by its key: PA / 128, or for a line of an
Electrum decoded view 2^60 + 2^45 ID + block. A column holds a line apart for each virtual line by which it was reached (10 R222, R236):
its key there has that virtual line above 2^64.
-/
namespace Sys2Proof.Machine

/-! ### Units -/

/-- The die of a core (00 R3). -/
def dieOf (core : Nat) : Nat := core / 12
/-- The cluster of a core, 0 to 5. -/
def clusterOf (core : Nat) : Nat := core / 4

/-- A core. -/
def State.core (s : State) (c : Nat) : Core := (Tab.get? s.cores c).getD .init
/-- A core changed. -/
def State.modCore (s : State) (c : Nat) (f : Core → Core) : State := { s with cores := Tab.set s.cores c (f (s.core c)) }
/-- A die. -/
def State.die (s : State) (d : Nat) : Die := (Tab.get? s.dies d).getD .init
/-- A die changed. -/
def State.modDie (s : State) (d : Nat) (f : Die → Die) : State := { s with dies := Tab.set s.dies d (f (s.die d)) }
/-- A stack's home. -/
def State.home (s : State) (n : Nat) : StackHome := (Tab.get? s.homes n).getD (.init (n / 4))
/-- A stack's home changed. -/
def State.modHome (s : State) (n : Nat) (f : StackHome → StackHome) : State :=
  { s with homes := Tab.set s.homes n (f (s.home n)) }
/-- A context. -/
def State.ctx (s : State) (n : Nat) : Context := (Tab.get? s.ctxs n).getD .init
/-- A context changed. -/
def State.modCtx (s : State) (n : Nat) (f : Context → Context) : State := { s with ctxs := Tab.set s.ctxs n (f (s.ctx n)) }
/-- A value of the configuration window (22 R471). -/
def State.winNat (s : State) (off n : Nat) : Nat := s.win.readNat off n
/-- A warp changed, where there is one. -/
def State.modWarp (s : State) (w : Nat) (f : Warp → Warp) : State := { s with warps := Tab.modify s.warps w f }
/-- A warp. -/
def State.warp? (s : State) (w : Nat) : Option Warp := Tab.get? s.warps w
/-- A workgroup changed. -/
def State.modWg (s : State) (w : Nat) (f : Workgroup → Workgroup) : State := { s with wgs := Tab.modify s.wgs w f }
/-- A gang changed. -/
def State.modGang (s : State) (g : Nat) (f : Gang → Gang) : State := { s with gangs := Tab.modify s.gangs g f }

/-- An MSI-X vector raised (22 R472). -/
def State.raiseVector (s : State) (v : Nat) : State := { s with msix := s.msix ++ [v] }

/-- Something goes out over the link (22 R469). -/
def State.send (s : State) (x : Sent) : State := { s with sent := s.sent ++ [x] }

/-- An uncorrectable error detected (26 R501). -/
def State.noteError (s : State) : State := { s with mgmt := { s.mgmt with uncorr := s.mgmt.uncorr + 1 } }

/-- A unit is not at full power (24 R487). -/
def State.asleep (s : State) (u : Nat) : Bool := (Tab.get? s.power u).isSome

/-- A record appended to a die's Flowstone log (26 R507); codes 0x101 to 0x103 raise vector 32 (R505). -/
def State.log (s : State) (d event source ctx : Nat) (data : Nat) : State :=
  let die := s.die d
  let r : FlowRec := { time := s.timer % 2 ^ 48, event, source, ctx, data := BitVec.ofNat 128 data }
  let s := s.modDie d fun x => { x with flow := Tab.set x.flow (die.written % 4096) r, written := (die.written + 1) % 2 ^ 64 }
  if 0x101 ≤ event ∧ event ≤ 0x103 then s.raiseVector 32 else s

/-- A record whose fields have no stated places in DATA (26 R508; assumption 31). -/
def State.logFields (s : State) (d event source ctx : Nat) (fields : List Nat) : State :=
  s.log d event source ctx (Config.flowData event fields).toNat

/-- The log of a stack's home slice: its owner's die, or die 0 (26 R507). -/
def State.stackDie (s : State) (n : Nat) : Nat := if (s.home n).owner.owner = 1 then 1 else 0

/-- No start is under way: Galena binds slots, fetches and starts records (25 R494, R496). -/
def State.started (s : State) : Bool := s.mgmt.phase = .running && !s.mgmt.warmPending

/-- A handover of a stack is between its steps 1 and 8 (20 R441). -/
def State.inHandover (s : State) (n : Nat) : Bool := (s.home n).handover.isSome

/-- A handover of a stack has come to a step (20 R442). -/
def State.handoverAt (s : State) (n k : Nat) : Bool := match (s.home n).handover with | some h => k ≤ h.step | none => false

/-- An access from a core to these stacks needs a unit that is not at full power: the core's column banks, a stack, or the link
between the dies (24 R488). -/
def State.wakesFor (s : State) (core : Nat) (ns : List Nat) : Bool :=
  s.asleep (312 + core) || ns.any fun n => s.asleep (362 + n) || (s.stackDie n ≠ dieOf core && s.asleep 370)

/-! ### Places -/

/-- The name under which a column holds a byte that a context reaches by a virtual address: aliases have names of their own (10 R222, R236;
assumption 51). -/
def aliasName (ctx : Nat) (va : DWord) (pa : Nat) : Nat := 2 ^ 71 * (1 + ctx * 2 ^ 57 + va.toNat / 128) + pa

/-- The physical address of a name. -/
def physOf (name : Nat) : Nat := name % 2 ^ 71

/-- The line of a key at its home. -/
def physKey (key : Nat) : Nat := key % 2 ^ 64

/-- The context and the virtual line of a column line's key; none for a line reached by its physical address. -/
def aliasOf (key : Nat) : Option (Nat × Nat) :=
  if key < 2 ^ 64 then none else some ((key / 2 ^ 64 - 1) / 2 ^ 57, (key / 2 ^ 64 - 1) % 2 ^ 57)

/-- The location that a context's virtual address names, for the order of accesses to it (10 R222). -/
def virtLoc (ctx : Nat) (va : DWord) : Nat := 2 ^ 71 + 128 + 2 ^ 64 * ctx + va.toNat

/-- The location that a name is of. -/
def locOf (name : Nat) : Nat := if name < 2 ^ 71 then name else 2 ^ 71 + 128 * (name / 2 ^ 71) + name % 128

/-- Bytes at their physical addresses. -/
def physBytes (bs : List (Nat × Byte)) : List (Nat × Byte) := bs.map fun b => (physOf b.1, b.2)

/-- Where a physical address lies. -/
inductive Place where
  | stack (n : Nat)
  | grotto (core : Nat)
  | host
  | ats
  | nothing
deriving DecidableEq, Repr

/-- The place of a physical address, or of a name's (19 R412, R413). -/
def placeOf (name : Nat) : Place :=
  let pa := physOf name
  if pa < 2 ^ 37 then (if pa % 2 ^ 34 < Config.stackBytes then .stack (pa / 2 ^ 34) else .nothing)
  else if 0x2000000000000 ≤ pa ∧ pa < 0x3000000000000 then .ats
  else if 0x4000000000000 ≤ pa ∧ pa < 0x400000C000000 then .grotto ((pa - 0x4000000000000) / 2 ^ 23)
  else if 0x8000000000000 ≤ pa ∧ pa < 2 ^ 52 then .host
  else .nothing

/-- Keys of decoded-view lines start here. -/
def viewBase : Nat := 2 ^ 60

/-- The key of block n of a region's view. -/
def viewKey (id n : Nat) : Nat := viewBase + id * 2 ^ 45 + n

/-- Region and block of a view line's key. -/
def viewOf (key : Nat) : Option (Nat × Nat) :=
  if physKey key < viewBase then none else some ((physKey key - viewBase) / 2 ^ 45, (physKey key - viewBase) % 2 ^ 45)

/-- Bits per value of a region. -/
def ElRegion.bits (r : ElRegion) : Nat := 8 * 2 ^ r.bud

/-- The raw address of a block. -/
def ElRegion.rawOf (r : ElRegion) (n : Nat) : Nat := r.rpa + 2 * r.bits * n

/-- The physical line that a key's bytes lie in at the home: itself, or the line of the raw block. -/
def State.rawLine (s : State) (key : Nat) : Nat :=
  match viewOf key with
  | none => physKey key
  | some (id, n) => match Tab.get? s.electrum id with | some r => r.rawOf n / 128 | none => 0

/-- Two keys name bytes of one physical line: those of a region's raw line and of its decoded view meet at the home (10 R236). -/
def State.sameLine (s : State) (a b : Nat) : Bool :=
  physKey a = physKey b || (((viewOf a).isSome || (viewOf b).isSome) && s.rawLine a = s.rawLine b)

/-- The stack whose home slice serves a key, if any. -/
def State.stackOf (s : State) (key : Nat) : Option Nat :=
  match placeOf (128 * s.rawLine key) with | .stack n => some n | _ => none

/-- A key of host memory. -/
def hostKey (key : Nat) : Bool := physKey key < viewBase && placeOf (128 * key) = .host

/-- The enabled peer aperture that holds a physical address (22 R479). -/
def State.peerOf (s : State) (name : Nat) : Option Nat :=
  let pa := physOf name
  if pa < 0x8000000000000 then none
  else
    let a := pa - 0x8000000000000
    (List.range 4).find? fun n =>
      let o := 0xF80 + 16 * n
      s.winNat (o + 14) 1 % 2 = 1 && s.linkFull && s.winNat o 8 ≤ a && a < s.winNat o 8 + s.winNat (o + 8) 6

/-! ### Bytes of a line -/

/-- The 128 bytes of memory at a line. -/
def lineBytes (m : Memory) (line : Nat) : BitVec 1024 := BitVec.ofNat 1024 (m.readNat (128 * line) 128)

/-- Byte k of a line. -/
def lineByte (d : BitVec 1024) (k : Nat) : Byte := d.extractLsb' (8 * k) 8

/-- Bytes of a line written to memory under a mask. -/
def writeLine (m : Memory) (line : Nat) (mask : BitVec 128) (d : BitVec 1024) : Memory :=
  (List.range 128).foldl (fun m k => if mask.getLsbD k then m.write (128 * line + k) (lineByte d k) else m) m

/-- 128 bits of a byte mask as 1024 bits of data. -/
def spreadMask (mask : BitVec 128) : BitVec 1024 :=
  (List.range 128).foldl (fun b k => if mask.getLsbD k then b ||| (0xFF#1024 <<< (8 * k)) else b) 0

/-- A line with bytes of another put in under a mask. -/
def mergeLine (old new : BitVec 1024) (mask : BitVec 128) : BitVec 1024 :=
  let m := spreadMask mask; (old &&& ~~~m) ||| (new &&& m)

/-! ### Page tables and TLBs -/

/-- A field of a page-table entry (19 R414). -/
def pteBit (e : BitVec 64) (k : Nat) : Bool := e.getLsbD k
/-- FRAME as an address: PA[51:12] in place. -/
def pteFrame (e : BitVec 64) : Nat := (e.toNat >>> 12) % 2 ^ 40 * 4096

/-- Bytes a size code maps (19 R432). -/
def sizeBytes (z : Nat) : Nat := if z = 0 then 2 ^ 12 else if z = 1 then 2 ^ 16 else if z = 2 then 2 ^ 21 else 2 ^ 30

/-- A canonical virtual address: bits [63:57] equal bit 56 (09 R214 row 1). -/
def canonical (va : DWord) : Bool := va.toNat >>> 56 = 0 || va.toNat >>> 56 = 0xFF

/-- An entry maps an address of a context. -/
def TlbEntry.covers (e : TlbEntry) (ctx va : Nat) : Bool :=
  e.ctx = ctx && e.vpn * 4096 ≤ va && va < e.vpn * 4096 + sizeBytes e.size

/-- The entry that maps an address. -/
def tlbFind (l : List TlbEntry) (ctx va : Nat) : Option TlbEntry := l.find? fun e => e.covers ctx va

/-- The physical address under an entry; its view line's name where its page lies in a decoded view (21 R454). -/
def TlbEntry.pa (e : TlbEntry) (va : Nat) : Nat := pteFrame e.leaf + (va - e.vpn * 4096)

/-! ### Words of memory with an uncorrectable error (26 R500) -/

/-- The mask of bytes [lo, lo + n) of a line. -/
def maskRange (lo n : Nat) : BitVec 128 := BitVec.ofNat 128 ((2 ^ n - 1) <<< lo)

/-- The bytes of some of a line's sixteen 64-bit words; of all of them where none is named. -/
def wordsMask (ws : BitVec 16) : BitVec 128 :=
  if ws = 0 then BitVec.allOnes 128
  else (List.range 16).foldl (fun (m : BitVec 128) k => if ws.getLsbD k then m ||| maskRange (8 * k) 8 else m) 0

/-- The bytes of a physical line that lie in bad words. -/
def State.memMask (s : State) (line : Nat) : BitVec 128 := (Tab.get? s.memBad line).getD 0

/-- Those bytes set. -/
def State.setMemMask (s : State) (line : Nat) (m : BitVec 128) : State :=
  { s with memBad := if m = 0 then Tab.erase s.memBad line else Tab.set s.memBad line m }

/-- Bytes of a physical line that have gone bad, or have come from bad words. -/
def State.spoilMem (s : State) (line : Nat) (m : BitVec 128) : State := s.setMemMask line (s.memMask line ||| m)

/-- The poison of n bytes read from memory at a physical address. -/
def State.memMark (s : State) (pa n : Nat) : Nat := if s.memMask (pa / 128) &&& maskRange (pa % 128) n = 0 then 0 else 1

/-- Bytes written to memory; what they rewrite is good again. -/
def State.putBytes (s : State) (bs : List (Nat × Byte)) : State :=
  { s with
    mem := s.mem.writeAll bs,
    memBad := bs.foldl (fun (t : Tab (BitVec 128)) b =>
      match Tab.get? t (b.1 / 128) with
      | some m => let m' := m &&& ~~~(maskRange (b.1 % 128) 1); if m' = 0 then Tab.erase t (b.1 / 128) else Tab.set t (b.1 / 128) m'
      | none => t) s.memBad }

/-! ### The home -/

/-- The error-address entry of a physical line (26 R503). -/
def State.errEntry (s : State) (line : Nat) : Option ErrEntry :=
  match placeOf (128 * line) with
  | .stack n => (s.home n).errors.find? fun e => e.line = line
  | _ => none

/-- The bytes of a line as its home holds it that lie in bad words; those of a decoded view stand in its raw block. -/
def State.homeBad (s : State) (key : Nat) : BitVec 128 := if (viewOf key).isSome then 0 else s.memMask (physKey key)

/-- The bytes of a region's raw block in its line. -/
def ElRegion.rawMask (r : ElRegion) (raw : Nat) : BitVec 128 := maskRange (raw % 128) (2 * r.bits)

/-- What a read of a line at its home returns: data, and 1 for an error of all of it, 2 for an inconsistent block (21 R460, 26 R503). -/
def State.homeLine (s : State) (key : Nat) : BitVec 1024 × Nat :=
  match viewOf key with
  | none => (lineBytes s.mem (physKey key), if (s.errEntry (physKey key)).isSome then 1 else 0)
  | some (id, n) =>
    match Tab.get? s.electrum id with
    | none => (0, 2)
    | some r =>
      if (s.errEntry (r.rawOf n / 128)).isSome || s.memMask (r.rawOf n / 128) &&& r.rawMask (r.rawOf n) ≠ 0 then (0, 1)
      else
        match elDecode (s.mem.readNat (r.rawOf n) (2 * r.bits)) r.bits with
        | some vals => (elLine vals, 0)
        | none => (0, 2)

/-- A line entered in the error-address table of its home slice, or, the table being full, its stack failed, every context admitted to it to
be killed before anything else happens (26 R503, R504). -/
def State.enterError (s : State) (line : Nat) : State :=
  match placeOf (128 * line) with
  | .stack n =>
    if (s.errEntry line).isSome then s
    else if 256 ≤ (s.home n).errors.length then
      (s.modHome n fun h => { h with failed := true, killing := true }).log (s.stackDie n) 0x103 (0x20 + n) 0xFF n
    else
      let s : State := s.modHome n fun h => { h with errors := h.errors ++ [{ line, mask := 0 }] }
      s.log (s.stackDie n) 0x102 (0x20 + n) 0xFF (128 * line + (s.home n).errors.length * 2 ^ 64)
  | _ => s

/-- What the home finds in a line of its own that it reads to merge bytes into: a word with an uncorrectable error enters the line, unless
all of the line is written (26 R503). -/
def State.mergeCheck (s : State) (line : Nat) (mask : BitVec 128) : State :=
  match placeOf (128 * line) with
  | .stack _ =>
    if s.memMask line = 0 then s
    else (if mask = BitVec.allOnes 128 then s else s.enterError line).setMemMask line (s.memMask line &&& ~~~mask)
  | _ => s.setMemMask line (s.memMask line &&& ~~~mask)

/-- A write at the home ORs its mask into an error entry; a full mask clears it (26 R503). -/
def State.errRewrite (s : State) (line : Nat) (mask : BitVec 128) : State :=
  match placeOf (128 * line) with
  | .stack n =>
    match (s.home n).errors.find? (fun e => e.line = line) with
    | none => s
    | some e =>
      let m := e.mask ||| mask
      if m = BitVec.allOnes 128 then
        let s := s.modHome n fun h => { h with errors := h.errors.filter fun e => e.line ≠ line }
        s.log (s.stackDie n) 0x105 (0x20 + n) 0xFF (128 * line + (s.home n).errors.length * 2 ^ 64)
      else
        s.modHome n fun h => { h with errors := h.errors.map fun e => if e.line = line then { e with mask := m } else e }
  | _ => s

/-- A masked write performed at the home; on a decoded view, the act of R461. -/
def State.homeWrite (s : State) (key : Nat) (mask : BitVec 128) (d : BitVec 1024) : State :=
  match viewOf key with
  | none =>
    let s : State := s.mergeCheck (physKey key) mask
    { s with mem := writeLine s.mem (physKey key) mask d }.errRewrite (physKey key) mask
  | some (id, n) =>
    match Tab.get? s.electrum id with
    | none => s
    | some r =>
      let raw := r.rawOf n
      let s : State := if s.memMask (raw / 128) &&& r.rawMask raw = 0 then s else s.mergeCheck (raw / 128) (r.rawMask raw)
      let a := elMerge (s.mem.readNat raw (2 * r.bits)) r.bits (s.errEntry (raw / 128)).isSome
        (fun k => mask.getLsbD (8 * k)) (elElems d)
      let r' : ElRegion :=
        { r with encodes := r.encodes + 1,
                 drift := if a.drift ∧ r.drift ≠ 0xFFFFFFFF then r.drift + 1 else r.drift,
                 errmax := match a.err with
                   | some x => if r.errmax.toInt < x then BitVec.ofInt 32 x else r.errmax
                   | none => r.errmax }
      let s := { s with mem := s.mem.writeNat raw (2 * r.bits) a.raw, electrum := Tab.set s.electrum id r' }
      let s := s.errRewrite (raw / 128) (r.rawMask raw)
      if a.bad then
        match placeOf raw with
        | .stack k => s.log (s.stackDie k) 0x1A0 (0x20 + k) 0xFF raw
        | _ => s
      else s

/-- Bytes of a line written at its home from bad words are bad there (26 R500); of a decoded view's line, the block that holds them. -/
def State.spoilHome (s : State) (key : Nat) (bad : BitVec 128) : State :=
  if bad = 0 then s
  else match viewOf key with
    | none => s.spoilMem (physKey key) bad
    | some (id, n) =>
      match Tab.get? s.electrum id with
      | some r => s.spoilMem (r.rawOf n / 128) (r.rawMask (r.rawOf n))
      | none => s

/-- The dirty bytes of a line written at its home, those of bad words bad. -/
def State.homeMerge (s : State) (key : Nat) (l : Line) : State := (s.homeWrite key l.dirty l.data).spoilHome key (l.bad &&& l.dirty)

/-- Bytes of a line that have gone bad, or have come from bad words. -/
def Line.spoil (l : Line) (m : BitVec 128) : Line := { l with bad := l.bad ||| m }

/-- Where a half that a write has to have back stands among the things in a request's way: above this number. -/
def invalMark : Nat := 2 ^ 70

/-- The host-held halves, as 2 line + half, that a request under a mask has to snoop first (22 R474): a read those in E; a
write those in S or E, marked as such. -/
def State.heldHalves (s : State) (key : Nat) (mask : BitVec 128) (write : Bool) : List Nat :=
  let line := s.rawLine key
  let halves := match viewOf key with
    | none => (if mask.extractLsb' 0 64 ≠ 0 then [2 * line] else []) ++ (if mask.extractLsb' 64 64 ≠ 0 then [2 * line + 1] else [])
    | some (id, n) => match Tab.get? s.electrum id with | some r => [r.rawOf n / 64] | none => []
  (halves.filter fun h => match Tab.get? s.hostHalf h with | some 2 => true | some 1 => write | _ => false).map fun h =>
    if write then invalMark + h else h

/-- A request that a home slice turned away still waits: its operation has not completed, or a split of its warp stalls. -/
def State.stillAsks (s : State) (id : Nat) : Bool :=
  s.warps.any fun w => (w.1 = id && w.2.splits.any fun k => match k.2.wait with | .stall _ => true | _ => false) ||
    w.2.pend.any fun p => p.id = id && !p.done

/-- The requests that a line is reserved for: those refused eight times, in the order of their first refusal, at most 16 (11 R248). -/
def State.reserved (s : State) (line : Nat) : List Nat :=
  ((((Tab.get? s.refusals line).getD []).filter fun r => 8 ≤ r.2 && s.stillAsks r.1).map (·.1)).take 16

/-- The requester that a line is reserved for next. -/
def State.reservedFor (s : State) (line : Nat) : Option Nat := (s.reserved line).head?

/-- A back-invalidation of a line of which the host has not answered (22 R474). -/
def State.snooping (s : State) (line : Nat) : Bool := s.snoops.any fun p => p.line = line && !p.answered

/-- An atomic is between its read and its write of a line at the home (10 R241, 11 R248). -/
def State.atomicBusy (s : State) (line : Nat) : Bool :=
  s.warps.any fun w => w.2.pend.any fun p => !p.done && (match p.body with
    | .atomic _ _ _ _ _ _ _ taken => taken.any fun t => s.rawLine t.1 = line
    | _ => false)

/-- Where a refusal stands among the things in a request's way: the line above this number. -/
def refusalMark : Nat := 2 ^ 72

/-- The line of a request that waits at a home slice. -/
def HomeReq.line (r : HomeReq) : Nat :=
  match r with
  | .hostRead pa _ => pa / 128
  | .hostWrite pa _ _ => pa / 128
  | .put _ bs => (bs.head?.map fun b => b.1 / 128).getD 0
  | .harvest _ a _ _ _ => a / 128
  | .frame _ a _ _ => a / 128

/-- A request of a unit of the part waits at the home for a line: later ones come after it. -/
def State.unitWaits (s : State) (line : Nat) : Bool :=
  s.homeQ.any fun r => s.sameLine r.line line && (match r with | .hostRead .. => false | .hostWrite .. => false | _ => true)

/-- What turns away a request for a line: an atomic at it, a back-invalidation outstanding, its reservation for another requester, or an
earlier request of a unit that waits (11 R248). -/
def State.refused (s : State) (key : Nat) : List Nat :=
  let line := s.rawLine key
  if s.atomicBusy line || s.unitWaits line || s.snooping line || (match s.reservedFor line with | some r => r ≠ s.asker | none => false)
    then [refusalMark + line] else []

/-- A refusal of the present requester's request for a line counted. -/
def State.noteRefusal (s : State) (line : Nat) : State :=
  let l := (Tab.get? s.refusals line).getD []
  if l.any fun r => r.1 = s.asker then
    { s with refusals := Tab.set s.refusals line (l.map fun r => if r.1 = s.asker then (r.1, min 8 (r.2 + 1)) else r) }
  else { s with refusals := Tab.set s.refusals line (l ++ [(s.asker, 1)]) }

/-- The present requester's request for a line is served: its refusals and the back-invalidations it asked for are forgotten. -/
def State.served (s : State) (line : Nat) : State :=
  let s : State := { s with snoops := s.snoops.filter fun p => !(p.answered && p.line = line && p.asker = s.asker) }
  match Tab.get? s.refusals line with
  | none => s
  | some l =>
    let l := l.filter fun r => r.1 ≠ s.asker && s.stillAsks r.1
    { s with refusals := if l.isEmpty then Tab.erase s.refusals line else Tab.set s.refusals line l }

/-- A host request waits at the home for a line. -/
def State.hostWaits (s : State) (line : Nat) : Bool :=
  s.homeQ.any fun r => match r with
    | .hostRead pa _ => pa / 128 = line
    | .hostWrite pa _ _ => pa / 128 = line
    | _ => false

/-- The host yields to a back-invalidation of a line once more (22 R475). -/
def State.hostYields (s : State) (line : Nat) : State :=
  { s with yields := Tab.set s.yields line (min 4 ((Tab.get? s.yields line).getD 0 + 1)) }

/-- Back-invalidations sent for the halves in a request's way (22 R474), but not while the line is reserved for the host; one that meets
a host request makes that yield (R475), unless the host's own request needs it; refusals counted (11 R248). -/
def State.sendSnoops (s : State) (way : List Nat) (forHost : Bool := false) : State :=
  way.foldl (fun s h =>
    if refusalMark ≤ h then s.noteRefusal (h - refusalMark)
    else
      let inv := decide (invalMark ≤ h)
      let h := if inv then h - invalMark else h
      if !forHost && 4 ≤ (Tab.get? s.yields (h / 2)).getD 0 then s
      else if s.snoops.any fun p => 2 * p.line + p.half = h && !p.answered && (p.inv || !inv) then s
      else
        let s : State := if !forHost && s.hostWaits (h / 2) then s.hostYields (h / 2) else s
        { s with snoops := (s.snoops.filter fun p => 2 * p.line + p.half ≠ h) ++
            [{ line := h / 2, half := h % 2, inv, asker := s.asker }] }) s

/-- A request of a die reaches a home slice: hot-page sampling of the home's die (19 R428) records one in every 4,096, as a store that
waits at the home where the host holds its half. -/
def State.sample (s : State) (die key : Nat) (write : Bool) : State :=
  match s.stackOf key with
  | none => s
  | some n =>
    let d := s.stackDie n
    let o := 0xE00 + 16 * d
    if s.winNat (o + 12) 1 % 2 = 0 then s
    else if (s.die d).samples + 1 < 4096 then s.modDie d fun x => { x with samples := x.samples + 1 }
    else
      let i := (s.die d).sampleIndex
      let at_ := s.winNat o 8 + 8 * (i % 8192)
      let pa := 128 * s.rawLine key
      let word := pa - pa % 4096 + (if write then 4 else 0) + 2 * die + 1
      let s : State := s.modDie d fun x => { x with samples := 0, sampleIndex := (i + 1) % 2 ^ 32 }
      match placeOf at_ with
      | .stack _ => { s with homeQ := s.homeQ ++ [.put d ((List.range 8).map fun k => (at_ + k, BitVec.ofNat 8 (word / 2 ^ (8 * k))))] }
      | _ => s

/-- A request of the present requester is served at the home of a line. -/
def State.request (s : State) (die key : Nat) (write : Bool) : State := (s.served (s.rawLine key)).sample die key write

/-! ### Cluster units -/

/-- The line a cluster unit holds. -/
def State.clusterLine (s : State) (cl key : Nat) : Option Line := (Tab.get? s.clusters cl).bind fun t => Tab.get? t (physKey key)

/-- A cluster unit's line set. -/
def State.setClusterLine (s : State) (cl key : Nat) (l : Line) : State :=
  { s with clusters := Tab.set s.clusters cl (Tab.set ((Tab.get? s.clusters cl).getD []) (physKey key) l) }

/-- A cluster unit's line dropped. -/
def State.dropClusterLine (s : State) (cl key : Nat) : State :=
  { s with clusters := Tab.set s.clusters cl (Tab.erase ((Tab.get? s.clusters cl).getD []) (physKey key)) }

/-- The cluster units' lines that a request for a line has to recall: those of its physical line, under whatever name, but for the line
itself in one cluster's unit (11 R245, 10 R236). -/
def State.unitLines (s : State) (key : Nat) (keep : Option Nat) : List (Nat × Nat × Line) :=
  s.clusters.flatMap fun c =>
    (c.2.filter fun l => s.sameLine l.1 key && !(keep = some c.1 && l.1 = physKey key)).map fun l => (c.1, l.1, l.2)

/-- A cluster unit's line written back to its home and dropped, a request of the cluster's die (19 R428). -/
def State.returnLine (s : State) (u : Nat × Nat × Line) : State :=
  (if u.2.2.dirty = 0 then s else (s.sample (u.1 / 3) u.2.1 true).homeMerge u.2.1 u.2.2).dropClusterLine u.1 u.2.1

/-- The home recalls a line from every cluster unit but one (11 R245). -/
def State.recall (s : State) (key : Nat) (keep : Option Nat) : State := (s.unitLines key keep).foldl State.returnLine s

/-- Whether a recall before a request would have to snoop the host. -/
def State.recallHeld (s : State) (key : Nat) (keep : Option Nat) : List Nat :=
  (s.unitLines key keep).flatMap fun u => if u.2.2.dirty = 0 then [] else s.heldHalves u.2.1 u.2.2.dirty true

/-! ### Columns -/

/-- The bytes of the halves that a host line holds in no state (22 R477). -/
def Line.gone (l : Line) : BitVec 128 := (if l.h0 = 0 then maskRange 0 64 else 0) ||| (if l.h1 = 0 then maskRange 64 64 else 0)

/-- The bytes that a line lacks taken from another copy of it, bad ones as such. -/
def Line.refill (l u : Line) : Line :=
  { l with data := mergeLine l.data u.data l.gone, bad := (l.bad &&& ~~~l.gone) ||| (u.bad &&& l.gone) }

/-- A host line whose missing halves have been obtained from another copy, in a state (1 S, 2 E), which for E the shared halves reach too (22
R477). -/
def Line.regain (l u : Line) (st : Nat) : Line := { l.refill u with h0 := max l.h0 st, h1 := max l.h1 st }

/-- A line as its home has it, its halves in a state. -/
def State.homeCopy (s : State) (key st : Nat) : Line :=
  let p := s.homeLine key
  { data := p.1, dirty := 0, poison := p.2, h0 := st, h1 := st, bad := s.homeBad key }

/-- The bytes of a host line's half that a column of a cluster holds in no state read as the cluster's unit, or else the home, has them (22
R477). -/
def State.refreshHalves (s : State) (cl key : Nat) (l : Line) : Line :=
  if hostKey key && l.gone ≠ 0 then
    l.refill ((s.clusterLine cl key).getD (s.homeCopy key 0))
  else l

/-- The line a core's column holds. -/
def State.colLine (s : State) (c key : Nat) : Option Line := (Tab.get? (s.core c).lines key).map (s.refreshHalves (clusterOf c) key)

/-- A column's line set. -/
def State.setColLine (s : State) (c key : Nat) (l : Line) : State :=
  s.modCore c fun x => { x with lines := Tab.set x.lines key l }

/-- The bytes of a half of a line. -/
def halfOf (d : BitVec 1024) (hi : Bool) : BitVec 512 := d.extractLsb' (if hi then 512 else 0) 512

/-- The halves of a host line evicted: DirtyEvict for one in M, CleanEvict for any other that is held (22 R477). -/
def State.sendEvicts (s : State) (key : Nat) (l : Line) : State :=
  if !hostKey key then s
  else
    let one (s : State) (st : Nat) (hi : Bool) : State :=
      let half := 2 * physKey key + (if hi then 1 else 0)
      if st = 0 then s else s.send (if st = 3 then .dirtyEvict half (halfOf l.data hi) else .cleanEvict half)
    one (one s l.h0 false) l.h1 true

/-- A column's line removed. -/
def State.dropColLine (s : State) (c key : Nat) : State :=
  let s := match Tab.get? (s.core c).lines key with | some l => s.sendEvicts key l | none => s
  s.modCore c fun x => { x with lines := Tab.erase x.lines key }

/-- A column's lines that satisfy p removed. -/
def State.dropColLines (s : State) (c : Nat) (p : Nat → Line → Bool) : State :=
  let s := ((s.core c).lines.filter fun l => p l.1 l.2).foldl (fun (s : State) l => s.sendEvicts l.1 l.2) s
  s.modCore c fun x => { x with lines := x.lines.filter fun l => !p l.1 l.2 }

/-- What stands in the way of a fill of a line into a core's column: host halves to be snooped, a refusal. -/
def State.fillHeld (s : State) (c key : Nat) : List Nat :=
  let cl := clusterOf c
  s.recallHeld key (some cl) ++
    (if (s.clusterLine cl key).isSome then [] else s.refused key ++ s.heldHalves key (BitVec.allOnes 128) false)

/-- A cluster unit's line of host memory with both halves held, exclusive for a write (22 R477). -/
def State.regainUnit (s : State) (cl key : Nat) (write : Bool) : State :=
  match s.clusterLine cl key with
  | some l => if hostKey key then s.setClusterLine cl key (l.regain (s.homeCopy key 0) (if write then 2 else 1)) else s
  | none => s

/-- The line as a fill of the column brings it: from the cluster's unit, or from the home after a recall; host halves in S, or
in E for a write (22 R477). -/
def State.fillLine (s : State) (c key : Nat) (write : Bool) : State × Line :=
  let cl := clusterOf c
  let s := (s.recall key (some cl)).regainUnit cl key write
  let h := if hostKey key then (if write then 2 else 1) else 0
  match s.clusterLine cl key with
  | some l => (s, { data := l.data, dirty := 0, poison := 0, h0 := h, h1 := h, bad := l.bad ||| (if l.poison = 0 then 0 else ~~~l.dirty) })
  | none =>
    (s.request (dieOf c) key write, s.homeCopy key h)

/-- Bytes of a line written into the column (present or filled): dirty, host halves touched in M (22 R477). -/
def Line.store (l : Line) (mask : BitVec 128) (d : BitVec 1024) : Line :=
  let host := l.h0 ≠ 0 || l.h1 ≠ 0
  let dirty := l.dirty ||| mask
  { data := mergeLine l.data d mask, dirty, poison := if dirty = BitVec.allOnes 128 then 0 else l.poison, bad := l.bad &&& ~~~mask,
    h0 := if host ∧ mask.extractLsb' 0 64 ≠ 0 then 3 else l.h0,
    h1 := if host ∧ mask.extractLsb' 64 64 ≠ 0 then 3 else l.h1 }

/-- What a read of n bytes of a line from a byte finds wrong with them: 1 an uncorrectable error, 2 an inconsistent block, 0 nothing; bytes
that have been written are good (21 R460, 26 R500). -/
def Line.mark (l : Line) (lo n : Nat) : Nat :=
  let m := maskRange lo n
  if l.bad &&& m ≠ 0 then 1 else if m &&& ~~~l.dirty = 0 then 0 else l.poison

/-- The halves to be snooped before a column's dirty bytes of a line can be written back. -/
def State.writebackHeld (s : State) (c key : Nat) : List Nat :=
  match s.colLine c key with
  | some l =>
    if l.dirty = 0 then []
    else if (s.clusterLine (clusterOf c) key).isSome then s.recallHeld key (some (clusterOf c))
    else s.recallHeld key none ++ s.refused key ++ s.heldHalves key l.dirty true
  | none => []

/-- A column line's virtual line lies in a token region (20 R449). -/
def Region.covers (r : Region) (key : Nat) : Bool :=
  match aliasOf key with
  | some (_, n) => r.base.toNat ≤ 128 * n && 128 * n < r.base.toNat + 2 ^ r.k
  | none => false

/-- A line lies in a token region whose token the core holds. -/
def State.heldToken (s : State) (c key : Nat) : Bool := s.regions.any fun r => r.2.holder = some c && r.2.covers key

/-- A line whose dirty bytes have been written back: a half of host memory in M is evicted (22 R477). -/
def Line.cleaned (l : Line) : Line := { l with dirty := 0, h0 := if l.h0 = 3 then 0 else l.h0, h1 := if l.h1 = 3 then 0 else l.h1 }

/-- The line after its writeback: a host line's halves in M go with DirtyEvict. -/
def State.cleanedCol (s : State) (c key : Nat) (l : Line) : State :=
  let s := s.sendEvicts key { l with h0 := if l.h0 = 3 then 3 else 0, h1 := if l.h1 = 3 then 3 else 0 }
  if hostKey key && l.cleaned.h0 = 0 && l.cleaned.h1 = 0 then s.modCore c fun x => { x with lines := Tab.erase x.lines key }
  else s.setColLine c key l.cleaned

/-- A column's dirty bytes of a line written back: merged into the cluster's unit where that holds the line, else at the home. The line
stays clean; a decoded view's line is dropped (21 R461), and one of a token region that the core holds, whose other bytes may be older than
what others have written (10 R238). -/
def State.writeback (s : State) (c key : Nat) : State :=
  match s.colLine c key with
  | none => s
  | some l =>
    if l.dirty = 0 then s
    else
      let cl := clusterOf c
      let s := match s.clusterLine cl key with
        | some u => (s.recall key (some cl)).setClusterLine cl key ((u.store l.dirty l.data).spoil (l.bad &&& l.dirty))
        | none => ((s.recall key none).request (dieOf c) key true).homeMerge key l
      let s := s.cleanedCol c key l
      if (viewOf key).isSome || s.heldToken c key then s.dropColLine c key else s

/-- The keys of a column's dirty lines that satisfy p. -/
def State.dirtyKeys (s : State) (c : Nat) (p : Nat → Bool) : List Nat :=
  ((s.core c).lines.filter fun l => l.2.dirty ≠ 0 && p l.1).map (·.1)

/-- Every dirty line of a column that satisfies p cleaned to its home; the second part is false, and only snoops are sent,
while a host half stands in the way. -/
def State.cleanColumn (s : State) (c : Nat) (p : Nat → Bool) : State × Bool :=
  let ks := s.dirtyKeys c p
  let held := ks.flatMap (s.writebackHeld c)
  if held.isEmpty then (ks.foldl (fun s k => s.writeback c k) s, true) else (s.sendSnoops held, false)

/-- The cluster units' lines that satisfy p (of cluster and key) written back and dropped; false, with snoops sent, while a host half
stands in the way. -/
def State.flushUnits (s : State) (p : Nat → Nat → Bool) : State × Bool :=
  let ks := s.clusters.flatMap fun c => (c.2.filter fun l => p c.1 l.1).map fun l => (c.1, l.1, l.2)
  let held := ks.flatMap fun k => if k.2.2.dirty = 0 then [] else s.heldHalves k.2.1 k.2.2.dirty true
  if held.isEmpty then
    (ks.foldl State.returnLine s, true)
  else (s.sendSnoops held, false)

/-- The acquire action on a column's lines that satisfy p (10 R233): clean lines go, but for those of token regions the core holds; the
clean bytes of dirty lines are fetched again, as if the line's clean bytes had gone (assumption 15). -/
def State.acquireLines (s : State) (c : Nat) (p : Nat → Bool) : State × Bool :=
  let ks := s.dirtyKeys c p
  let held := ks.flatMap (s.fillHeld c)
  if held.isEmpty then
    let s := s.dropColLines c fun k l => l.dirty = 0 && !s.heldToken c k && p k
    (ks.foldl (fun s k =>
      match s.colLine c k with
      | some l =>
        let r := s.fillLine c k false
        r.1.setColLine c k { l with data := mergeLine r.2.data l.data l.dirty, poison := r.2.poison, bad := (r.2.bad &&& ~~~l.dirty) ||| (l.bad &&& l.dirty) }
      | none => s) s, true)
  else (s.sendSnoops held, false)

/-- The acquire action on a column. -/
def State.acquireColumn (s : State) (c : Nat) : State × Bool := s.acquireLines c fun _ => true

/-- A cluster unit's bytes of host lines written to host memory (10 R233, system scope); it keeps the lines. -/
def State.flushHost (s : State) (cl : Nat) : State :=
  (((Tab.get? s.clusters cl).getD []).filter fun l => hostKey l.1 && l.2.dirty ≠ 0).foldl (fun (s : State) l =>
    ((s.homeMerge l.1 l.2).sendEvicts l.1 { l.2 with h0 := if l.2.h0 = 3 then 3 else 0, h1 := if l.2.h1 = 3 then 3 else 0 }).setClusterLine
      cl l.1 l.2.cleaned) s

/-! ### Room in a column (00 R3, R10) -/

/-- Lines that a core's column has beside its Grotto: 12 MiB less the units reserved. -/
def Core.lineRoom (x : Core) : Nat := 98304 - 4096 * x.grotto.foldl (fun n g => n + g.2) 0

/-- Uncommitted lines of a core over all its tasks (16 R363). -/
def State.taskLines (s : State) (core : Nat) : Nat :=
  (s.taskBuf.filter fun b => b.1 % 32 = core).foldl (fun n b => n + ((b.2.map fun p => p.1 / 128).foldl setAdd []).length) 0

/-- The lines that a column may let go now: those with nothing to write back, or whose writeback nothing holds up. -/
def State.leavers (s : State) (c : Nat) : List Nat := ((s.core c).lines.map (·.1)).filter fun k => (s.writebackHeld c k).isEmpty

/-- A full column makes room for `want` lines: lines leave it, dirty ones written back, which of them the spec does not say
(assumption 107). The second part is false where none may leave. -/
def State.colRoom (s : State) (c want fuel : Nat) : State × Bool :=
  if (s.core c).lines.length + s.taskLines c + want ≤ (s.core c).lineRoom then (s, true)
  else match fuel with
    | 0 => (s, false)
    | n + 1 =>
      let ks := s.leavers c
      match ks[Config.choice c s.free % ks.length]? with
      | some k => ((s.writeback c k).dropColLine c k).colRoom c want n
      | none => (s, false)

/-- A line brought into a column where there is room for it. -/
def State.allocLine (s : State) (c key : Nat) (l : Line) : State :=
  match s.colRoom c 1 98305 with
  | (s, true) => s.setColLine c key l
  | (s, false) => s

/-- Grotto units of a core reserved for a gang or a task, which the column's lines give up (00 R10). -/
def State.reserveGrotto (s : State) (c id units : Nat) : State :=
  if units = 0 then s else ((s.modCore c fun x => { x with grotto := Tab.set x.grotto id units }).colRoom c 0 98305).1

/-! ### Bytes through a column -/

/-- A read of n bytes at a name within one line by a core, its task's uncommitted bytes first (10 R239): value and poison;
none while something stands in the way of the fill. A clean line may have left the column meanwhile (assumption 108); `alloc` keeps a
missed line (09 R210). -/
def State.readCol (s : State) (c : Nat) (task : Option Nat) (pa n : Nat) (alloc : Bool) : State × Option (Nat × Nat) :=
  let lay (v : Nat) : Nat :=
    match task.bind fun t => Tab.get? s.taskBuf (t * 32 + c) with
    | none => v
    | some m => (List.range n).foldl (fun v k =>
        match Tab.get? m (pa + k) with
        | some b => v - ((v >>> (8 * k)) % 256) * 2 ^ (8 * k) + b.toNat * 2 ^ (8 * k)
        | none => v) v
  let key := pa / 128
  let cut (d : BitVec 1024) : Nat := (d.toNat >>> (8 * (pa % 128))) % 2 ^ (8 * n)
  match placeOf pa with
  | .grotto _ => (s, some (lay (s.mem.readNat (physOf pa) n), s.memMark (physOf pa) n))
  | _ =>
    match (s.colLine c key).filter fun l => l.dirty ≠ 0 || !Config.leaves key s.free with
    | some l =>
      if l.gone &&& maskRange (pa % 128) n = 0 || !hostKey key then (s, some (lay (cut l.data), l.mark (pa % 128) n))
      else
        let held := s.fillHeld c key
        if held.isEmpty then
          let r := s.fillLine c key false
          let l := l.regain r.2 1
          (r.1.setColLine c key l, some (lay (cut l.data), l.mark (pa % 128) n))
        else (s.sendSnoops held, none)
    | none =>
      let s := s.dropColLine c key
      let held := s.fillHeld c key
      if held.isEmpty then
        let r := s.fillLine c key false
        (if alloc then r.1.allocLine c key r.2 else r.1, some (lay (cut r.2.data), r.2.mark (pa % 128) n))
      else (s.sendSnoops held, none)

/-- Bytes of one line as a mask and data. -/
def lineOfBytes (bs : List (Nat × Byte)) : BitVec 128 × BitVec 1024 :=
  bs.foldl (fun p b =>
    let k := b.1 % 128
    (p.1 ||| (1#128 <<< k), (p.2 &&& ~~~(0xFF#1024 <<< (8 * k))) ||| BitVec.ofNat 1024 (b.2.toNat <<< (8 * k)))) (0, 0)

/-- Byte writes grouped by line, lines in the order met. -/
def byLine (bs : List (Nat × Byte)) : List (Nat × List (Nat × Byte)) :=
  let keys := bs.foldl (fun ks b => if ks.contains (b.1 / 128) then ks else ks ++ [b.1 / 128]) []
  keys.map fun k => (k, bs.filter fun b => b.1 / 128 = k)

/-- What stands in the way of bytes being written through a column: of the fill of a missed line, and of its write where it may go past
the column. -/
def State.storeHeld (s : State) (c : Nat) (bs : List (Nat × Byte)) (alloc : Bool) : List Nat :=
  (byLine bs).flatMap fun p =>
    match placeOf (128 * p.1) with
    | .grotto _ => []
    | _ =>
      if (match s.colLine c p.1 with | some l => !hostKey p.1 || l.gone &&& (lineOfBytes p.2).1 = 0 | none => false) then []
      else if (s.colLine c p.1).isSome then s.fillHeld c p.1
      else if alloc && (s.core c).lines.length + s.taskLines c < (s.core c).lineRoom then s.fillHeld c p.1
      else s.fillHeld c p.1 ++
        (if (s.clusterLine (clusterOf c) p.1).isSome then [] else s.recallHeld p.1 none ++ s.heldHalves p.1 (lineOfBytes p.2).1 true)

/-- Bytes of a line written past the column: into the cluster's unit that holds it, else at the home. -/
def State.writePast (s : State) (c key : Nat) (mask : BitVec 128) (d : BitVec 1024) : State :=
  match s.clusterLine (clusterOf c) key with
  | some u => s.setClusterLine (clusterOf c) key (u.store mask d)
  | none => ((s.recall key none).request (dieOf c) key true).homeWrite key mask d

/-- Bytes written through a core's column, in order: a Grotto page at its owning column, else into the line (09 R209); a missed line is
not brought in without `alloc` (R210), nor where the column has no room. -/
def State.writeCol (s : State) (c : Nat) (bs : List (Nat × Byte)) (alloc : Bool) : State :=
  (byLine bs).foldl (fun s p =>
    match placeOf (128 * p.1) with
    | .grotto _ => s.putBytes (physBytes p.2)
    | _ =>
      let md := lineOfBytes p.2
      match s.colLine c p.1 with
      | some l =>
        if !hostKey p.1 || l.gone &&& md.1 = 0 then s.setColLine c p.1 (l.store md.1 md.2)
        else let r := s.fillLine c p.1 true; r.1.setColLine c p.1 ((l.regain r.2 2).store md.1 md.2)
      | none =>
        match (if alloc then s.colRoom c 1 98305 else (s, false)) with
        | (s, true) => let r := s.fillLine c p.1 true; r.1.setColLine c p.1 (r.2.store md.1 md.2)
        | (s, false) => s.writePast c p.1 md.1 md.2) s

/-- Bytes kept as a task's uncommitted bytes (10 R239). -/
def State.writeTask (s : State) (t c : Nat) (bs : List (Nat × Byte)) : State :=
  let m := (Tab.get? s.taskBuf (t * 32 + c)).getD []
  { s with taskBuf := Tab.set s.taskBuf (t * 32 + c) (bs.foldl (fun m b => Tab.set m b.1 b.2) m) }

/-- Bytes performed at their home for a requester of a die, after the recall of their lines. -/
def State.writeHome (s : State) (bs : List (Nat × Byte)) (die : Nat := 0) : State :=
  (byLine bs).foldl (fun s p =>
    match placeOf (128 * p.1) with
    | .grotto _ => s.putBytes (physBytes p.2)
    | _ => let md := lineOfBytes p.2; ((s.recall p.1 none).request die p.1 true).homeWrite p.1 md.1 md.2) s

/-- What stands in the way of bytes being performed at their home. -/
def State.homeHeld (s : State) (bs : List (Nat × Byte)) : List Nat :=
  (byLine bs).flatMap fun p =>
    match placeOf (128 * p.1) with
    | .grotto _ => []
    | _ => s.refused p.1 ++ s.recallHeld p.1 none ++ s.heldHalves p.1 (lineOfBytes p.2).1 true

/-- A read of n bytes within one line at its home for a requester of a die, after a recall: value and poison. -/
def State.readHome (s : State) (pa n : Nat) (die : Nat := 0) : State × Nat × Nat :=
  match placeOf pa with
  | .grotto _ => (s, s.mem.readNat (physOf pa) n, s.memMark (physOf pa) n)
  | _ =>
    let s := (s.recall (pa / 128) none).request die (pa / 128) false
    let l := s.homeCopy (pa / 128) 0
    (s, (l.data.toNat >>> (8 * (pa % 128))) % 2 ^ (8 * n), l.mark (pa % 128) n)

/-- The value that such a read of a physical address finds: the home's line under what cluster units hold dirty of it. -/
def State.peekHome (s : State) (pa n : Nat) : Nat :=
  match placeOf pa with
  | .grotto _ => s.mem.readNat (physOf pa) n
  | _ =>
    let d := (List.range 6).foldl (fun d cl => match s.clusterLine cl (pa / 128) with
      | some l => mergeLine d l.data l.dirty
      | none => d) (s.homeLine (pa / 128)).1
    (d.toNat >>> (8 * (pa % 128))) % 2 ^ (8 * n)

/-- What stands in the way of a read at the home. -/
def State.readHeld (s : State) (pa n : Nat) : List Nat :=
  match placeOf pa with
  | .grotto _ => []
  | _ => s.refused (pa / 128) ++ s.recallHeld (pa / 128) none ++ s.heldHalves (pa / 128) (maskRange (pa % 128) n) false

/-! ### Errors that a read meets (26 R500) -/

/-- The words of a line that an error is found in now. -/
def State.errMask (s : State) (key : Nat) : BitVec 128 := wordsMask (Config.errWords key s.free)

/-- Bytes of a line in a cluster's unit, or else at its home, that go bad. -/
def State.spoilUnit (s : State) (cl key : Nat) (m : BitVec 128) : State :=
  match s.clusterLine cl key with
  | some l => s.setClusterLine cl key (l.spoil m)
  | none => s.spoilHome key m

/-- Bytes of a line as a core's column reads it that go bad: in the column where that holds the line. -/
def State.spoilCol (s : State) (core key : Nat) (m : BitVec 128) : State :=
  match Tab.get? (s.core core).lines key with
  | some l => s.setColLine core key (l.spoil m)
  | none => s.spoilUnit (clusterOf core) key m

/-- A read through a core's column finds an uncorrectable error in the line. -/
def State.readError (s : State) (core key : Nat) : State := s.noteError.spoilCol core key (s.errMask key)

/-! ### Page tables -/

/-- A walk of the tables as a fault would make one (19 R411, R415), by the part's own units, which have no warp (assumption
16): the leaf, its size code and the address of its entry. -/
def State.walk (s : State) (ctx va level table : Nat) : Option (BitVec 64 × Nat × Nat) :=
  let idx := (va >>> (12 + 9 * level)) % 512
  let at_ := table + 8 * idx
  match placeOf at_ with
  | .stack _ | .host =>
    let e := BitVec.ofNat 64 (s.peekHome at_ 8)
    if !pteBit e 0 then none
    else
      match level with
      | 0 => some (e, if pteBit e 8 then 1 else 0, if pteBit e 8 then at_ - 8 * (idx % 16) else at_)
      | l + 1 =>
        if (l = 0 || l = 1) && pteBit e 7 then some (e, if l = 1 then 3 else 2, at_)
        else s.walk ctx va l (pteFrame e)
  | _ => none

/-- The addresses of the words that such a walk reads. -/
def State.walkPath (s : State) (va level table : Nat) : List Nat :=
  let at_ := table + 8 * ((va >>> (12 + 9 * level)) % 512)
  match placeOf at_ with
  | .stack _ | .host =>
    let e := BitVec.ofNat 64 (s.peekHome at_ 8)
    at_ :: (match level with
      | 0 => []
      | l + 1 => if !pteBit e 0 || ((l = 0 || l = 1) && pteBit e 7) then [] else s.walkPath va l (pteFrame e))
  | _ => []

/-- The translation a unit of the part finds for a virtual address: the L2 TLB of a die, else a walk. -/
def State.findLeaf (s : State) (d ctx : Nat) (va : DWord) : Option (BitVec 64 × Nat) :=
  if !canonical va then none
  else
    match tlbFind (s.die d).l2 ctx va.toNat with
    | some e => some (e.leaf, e.pa va.toNat)
    | none =>
      (s.walk ctx va.toNat 4 (s.ctx ctx).ptroot.toNat).map fun p =>
        let size := sizeBytes p.2.1
        let base := if p.2.1 = 1 then pteFrame p.1 - pteFrame p.1 % 65536 else pteFrame p.1
        (p.1, base + va.toNat % size)

/-- The word an Electrum page's address names, where its region is defined and holds the page (21 R453, R454). -/
def State.viewName (s : State) (leaf : BitVec 64) (va : Nat) : Option Nat :=
  match Tab.get? s.electrum ((leaf.toNat >>> 52) % 16) with
  | some r =>
    if !r.deleting ∧ r.vbase.toNat ≤ va ∧ va < r.vbase.toNat + r.size then
      let off := va - r.vbase.toNat
      some (128 * viewKey ((leaf.toNat >>> 52) % 16) (off / 128) + off % 128)
    else none
  | none => none

end Sys2Proof.Machine
end

