-- ==== Sys2Proof/Machine/Records.lean ====
section
/-!
DEFINITION. What the part's own units write: harvests (19 R425), the end of stream records and their completion areas (16 R341
to R344), the freeing of a gang's pages (20 R447), and the kill of a context (18 R407), which taking a trap may lead to.
-/
namespace Sys2Proof.Machine

/-! ### Requests of units at the home slices -/

/-- A request that is an access in the sense of 20 R441, which a handover of its stack makes wait; a harvest is a part of one. -/
def HomeReq.admitted (r : HomeReq) : Bool :=
  match r with
  | .harvest .. => false
  | .frame .. => false
  | _ => true

/-- The die whose unit asks. -/
def HomeReq.die? (r : HomeReq) : Option Nat :=
  match r with
  | .put die _ | .harvest die .. | .frame die .. => some die
  | _ => none

/-- A request waits: for its stack or the link to it to wake (24 R488), or for the end of a handover (20 R441). -/
def State.homeStalls (s : State) (r : HomeReq) : Bool :=
  match s.stackOf r.line with
  | some n => s.asleep (362 + n) || (r.die?.any (· ≠ s.stackDie n) && s.asleep 370) || (r.admitted && s.inHandover n)
  | none => false

/-- What stands in the way of a unit's request at the home; nothing where it is the host's. -/
def State.homeWay (s : State) (r : HomeReq) : List Nat :=
  match r with
  | .put _ bs => s.homeHeld bs
  | .harvest _ a _ _ _ => s.homeHeld (cellsOf a 8 0)
  | .frame _ a _ _ => s.homeHeld (cellsOf a 8 0)
  | _ => []

/-- The word at an address replaced as one act of a unit of a die, where f answers with a new one (11 R244). -/
def State.homeWord (s : State) (die a : Nat) (f : BitVec 64 → Option (BitVec 64)) : State :=
  let r := s.readHome a 8 die
  match f (BitVec.ofNat 64 r.2.1) with
  | some w => r.1.writeHome (cellsOf a 8 w.toNat) die
  | none => r.1

/-- A unit's request performed: bytes written; the A and D bits of an entry ORed into its word while that still holds the entry's page (19
R425); the FRAME of a word replaced while it still holds another (20 R447). -/
def State.homeDo (s : State) (r : HomeReq) : State :=
  match r with
  | .put die bs => s.writeHome bs die
  | .harvest die at_ leaf a d => s.homeWord die at_ fun w =>
      if pteBit w 0 && pteFrame w = pteFrame leaf then some (w ||| (if a then 0x20 else 0) ||| (if d then 0x40 else 0)) else none
  | .frame die at_ old new => s.homeWord die at_ fun w =>
      if pteFrame w = old then some ((w &&& 0xFFF0000000000FFF) ||| BitVec.ofNat 64 new) else none
  | _ => s

/-- A request of a unit of the part reaches its home: performed at once where nothing is in its way and none is before it, else it waits.
Host memory that cannot be reached takes none (22 R470; assumption 119). -/
def State.homeAsk (s : State) (r : HomeReq) : State :=
  if hostKey r.line && !s.linkFull then s
  else
    let way := s.homeWay r
    if way.isEmpty && !s.homeStalls r && !s.homeQ.any fun q => s.sameLine q.line r.line then s.homeDo r
    else { s.sendSnoops way with homeQ := s.homeQ ++ [r] }

/-- Bytes that peer memory answers with (22 R480; assumption 4). -/
def State.peerNat (s : State) (pa n : Nat) : Nat :=
  match n with
  | 0 => 0
  | n + 1 => (Config.peerByte (physOf pa) s.free).toNat + 256 * s.peerNat (pa + 1) n

/-- Peer memory, which no column holds (22 R480). -/
def State.isPeer (s : State) (pa : Nat) : Bool := (s.peerOf pa).isSome

/-- The bytes that lie in a peer's memory leave the part (22 R480). -/
def State.toPeers (s : State) (bs : List (Nat × Byte)) : State :=
  let out := bs.filter fun b => (s.peerOf b.1).isSome
  if out.isEmpty then s else s.send (.peer (physBytes out))

/-- Bytes that a unit of the part writes at their home, line by line. -/
def State.unitWrite (s : State) (bs : List (Nat × Byte)) (die : Nat := 0) : State :=
  (byLine (bs.filter fun b => (s.peerOf b.1).isNone)).foldl (fun (s : State) l => s.homeAsk (.put die l.2)) (s.toPeers bs)

/-- A harvest of an entry of a TLB of a die (19 R425). -/
def State.harvest (s : State) (die : Nat) (e : TlbEntry) : State :=
  if !e.a && !e.d then s else s.homeAsk (.harvest die e.ptepa e.leaf e.a e.d)

/-- Harvests have still to be performed. -/
def State.harvesting (s : State) : Bool := s.homeQ.any fun r => match r with | .harvest .. => true | _ => false

/-- Translation bases that an entry of a TLB serves unbound, in the warps of the cores that use that TLB (09 R205). -/
def State.unbindBases (s : State) (e : TlbEntry) (mine : Nat → Bool) : State :=
  { s with warps := s.warps.map fun x =>
      if x.2.ctx = e.ctx && mine x.2.core then
        (x.1, { x.2 with tbs := x.2.tbs.map fun t => if e.covers e.ctx t.2.vbase.toNat then (t.1, { t.2 with bound := false }) else t })
      else x }

/-- The entries of every TLB of the part that satisfy p, with their die (19 R417). -/
def State.tlbEntries (s : State) (p : TlbEntry → Bool) : List (Nat × TlbEntry) :=
  (s.dies.flatMap fun d => (d.2.l2.filter p).map fun e => (d.1, e)) ++
    s.cores.flatMap fun c => (c.2.l1.filter p ++ c.2.itlb.filter p).map fun e => (dieOf c.1, e)

/-- Every TLB of the part changed. -/
def State.mapTlbs (s : State) (f : List TlbEntry → List TlbEntry) : State :=
  { s with dies := s.dies.map fun d => (d.1, { d.2 with l2 := f d.2.l2 }),
           cores := s.cores.map fun c => (c.1, { c.2 with l1 := f c.2.l1, itlb := f c.2.itlb }) }

/-- Every TLB entry that satisfies p harvested and removed, on both dies and in every core, and the translation bases bound
from it unbound (19 R425, R426, 09 R205). -/
def State.removeTlb (s : State) (p : TlbEntry → Bool) : State :=
  let gone := s.tlbEntries p
  let s : State := gone.foldl (fun s e => s.harvest e.1 e.2) s
  let s : State := gone.foldl (fun s e => s.unbindBases e.2 fun _ => true) s
  s.mapTlbs fun l => l.filter fun e => !p e

/-- A bit of a context's event word rises: its vector is raised (22 R472). -/
def State.ctxEvent (s : State) (n bit : Nat) : State :=
  let e := (s.ctx n).event
  if e.getLsbD bit then s
  else (s.modCtx n fun x => { x with event := x.event ||| (1#32 <<< bit) }).raiseVector n

/-- A slot changed. -/
def State.modSlot (s : State) (n : Nat) (f : Slot → Slot) : State := { s with slots := Tab.modify s.slots n f }

/-- A virtual address of a context as the front end reaches it: die 0's L2 TLB, die 1's, else a walk. -/
def State.unitPa (s : State) (ctx : Nat) (va : DWord) : Option (BitVec 64 × Nat) :=
  match s.findLeaf 0 ctx va with
  | some x => some x
  | none => s.findLeaf 1 ctx va

/-- The name under which such a unit reaches it, none where nothing translates it. -/
def State.unitName (s : State) (ctx : Nat) (va : DWord) : Option Nat :=
  (s.unitPa ctx va).bind fun x => if pteBit x.1 56 then s.viewName x.1 va.toNat else some x.2

/-- What the cluster units hold dirty of host memory goes there: the release action at system scope of a unit that has no column (10 R233). -/
def State.flushHosts (s : State) : State := (List.range 6).foldl State.flushHost s

/-- The completion area of a slot written, a release at system scope (16 R343). -/
def State.writeArea (s : State) (n : Nat) : State :=
  match Tab.get? s.slots n with
  | none => s
  | some x =>
    match s.unitName x.ctx x.doneaddr with
    | none => s
    | some pa =>
      s.flushHosts.unitWrite (cellsOf pa 8 x.done ++ cellsOf (pa + 8) 8 x.fetched ++ cellsOf (pa + 16) 8 x.errseq
        ++ cellsOf (pa + 24) 4 x.errtag.toNat ++ cellsOf (pa + 28) 4 x.errcode.toNat ++ cellsOf (pa + 32) 4 x.errcount.toNat
        ++ cellsOf (pa + 36) 28 0)

/-- Whether a record has finished. -/
def StreamRec.finished (r : StreamRec) : Bool := match r.st with | .finished .. => true | _ => false

/-- DONE advances over the finished records at the head (16 R344), and the completion area is written. -/
def State.retireRecs (s : State) (n : Nat) : State :=
  match Tab.get? s.slots n with
  | none => s
  | some x =>
    let k := (x.recs.takeWhile StreamRec.finished).length
    if k = 0 then s
    else (s.modSlot n fun x => { x with done := (x.done + k) % 2 ^ 64, recs := x.recs.drop k }).writeArea n

/-- The error fields of a slot (16 R343): code, detail, index, at a sequence number and TAG. -/
def State.slotError (s : State) (n seq : Nat) (tag : Word) (code detail index : Nat) : State :=
  match Tab.get? s.slots n with
  | none => s
  | some x =>
    (s.modSlot n fun x => { x with errseq := seq, errtag := tag, errcount := x.errcount + 1,
                                   errcode := BitVec.ofNat 32 (code + 256 * detail + 65536 * index) }).ctxEvent x.ctx 1

/-- A record finishes with an error code, 0 for none (16 R344, R346). -/
def State.finishRec (s : State) (n seq code detail index : Nat) : State :=
  match Tab.get? s.slots n with
  | none => s
  | some x =>
    match x.recs.find? (fun r => r.seq = seq && !r.finished) with
    | none => s
    | some r =>
      let s : State := s.modSlot n fun x => { x with recs := x.recs.map fun r => if r.seq = seq then { r with st := .finished code detail index } else r }
      let s : State := if code = 0 then s else s.slotError n seq (r.bytes.extractLsb' 32 32) code detail index
      if code = 0 then s.retireRecs n else (s.retireRecs n).writeArea n

/-- ENABLE of a slot cleared; it reads back 0 (16 R340, R341). -/
def State.disableSlot (s : State) (n : Nat) : State :=
  let b := s.winNat (64 * n + 13) 1
  { s.modSlot n (fun x => { x with enabled := false }) with win := s.win.write (64 * n + 13) (BitVec.ofNat 8 (b % 128)) }

/-- A gang's column-class pages freed: entries removed, FRAME cleared at PTEPA while it still names the page (20 R447). -/
def State.freePages (s : State) (ctx : Nat) (pages : List (Nat × Nat)) : State :=
  pages.foldl (fun (s : State) (p : Nat × Nat) =>
    let s : State := s.removeTlb fun e => e.ctx = ctx && pteFrame e.leaf = p.1
    let s : State := { s with mem := s.mem.filter (fun b => b.1 / 4096 ≠ p.1 / 4096), memBad := s.memBad.filter fun l => l.1 / 32 ≠ p.1 / 4096 }
    if p.1 = 0 then s else s.homeAsk (.frame (match placeOf p.1 with | .grotto c => dieOf c | _ => 0) p.2 p.1 0)) s

/-- Warps leave the part: their copies and engine operations go with them. A miss that a walker had claimed stays claimed (19 R431). -/
def State.dropWarps (s : State) (ws : List Nat) : State :=
  { s with
    warps := s.warps.filter fun x => !ws.contains x.1,
    engines := s.engines.map fun x => (x.1, { x.2 with
      queue := x.2.queue.filter fun o => !ws.contains o.warp,
      bypass := x.2.bypass.map fun b => { b with holder := b.holder.filter fun h => !ws.contains h } }),
    cores := s.cores.map fun x => (x.1, { x.2 with copies := x.2.copies.filter fun c => !ws.contains c.1 }) }

/-- SAVEBASE and SAVEKB of a context (18 R388). -/
def State.saveArea (s : State) (ctx : Nat) : DWord × Nat := (BitVec.ofNat 64 (s.winNat (0x800 + 16 * ctx) 8), s.winNat (0x808 + 16 * ctx) 4)

/-- A gang's entry in the directory of its context's save area is free again (18 R399). -/
def State.freeEntry (s : State) (g : Nat) : State :=
  match (Tab.get? s.gangs g).bind fun x => x.chunk.map fun c => (x, c) with
  | none => s
  | some (x, c) =>
    let s : State := s.modGang g fun x => { x with chunk := none }
    match s.unitName x.ctx ((s.saveArea x.ctx).1 + BitVec.ofNat 64 (16 * c.1 + 14)) with
    | some pa => s.unitWrite (cellsOf pa 2 0)
    | none => s

/-- The victims of a class-0 request give their cores back once none of them is still to be saved (18 R396 step 6). -/
def State.releaseVictims (s : State) : State :=
  let open_ (r : Nat) : Bool := s.gangs.any fun h => h.2.victim && h.2.victimOf.1 = r && h.2.saved.isNone
  { s with gangs := s.gangs.map fun g => if g.2.victim && !open_ g.2.victimOf.1 then (g.1, { g.2 with victim := false }) else g }

/-- A gang and everything it holds leaves the part. -/
def State.dropGang (s : State) (g : Nat) : State :=
  match Tab.get? s.gangs g with
  | none => s
  | some x =>
    let s : State := (s.freeEntry g).dropWarps ((s.warps.filter fun w => w.2.gang = g).map (·.1))
    let s : State :=
      { s with
        gangs := Tab.erase s.gangs g, wgs := s.wgs.filter fun w => w.2.gang ≠ g,
        cores := s.cores.map fun c => (c.1, { c.2 with grotto := Tab.erase c.2.grotto g }) }
    (s.freePages x.ctx x.pages).releaseVictims

/-- A task leaves the part; uncommitted bytes are discarded. -/
def State.dropTask (s : State) (t : Nat) : State :=
  { s with tasks := Tab.erase s.tasks t, taskBuf := s.taskBuf.filter fun b => b.1 / 32 ≠ t }

/-- A task that is pinned, or whose uncommitted lines are already being committed (16 R364). -/
def Task.fixed (t : Task) : Bool := t.pinned || t.pinning

/-- A gang and a task in it that a graph's failure or a pre-emption ends at once. -/
def State.dropTaskGangs (s : State) (t : Nat) (x : Task) : State :=
  let s : State := x.gangs.foldl State.dropGang s
  { s with cores := s.cores.map fun c => (c.1, { c.2 with grotto := Tab.erase c.2.grotto t }) }

/-- A graph fails with a detail, by code 4 where no other is given (16 R368, R346): unpinned tasks that run are aborted and not rerun; tasks
that have reached their commit go on (R365). -/
def State.failGraph (s : State) (g detail : Nat) (code : Nat := 4) : State :=
  match Tab.get? s.graphs g with
  | none => s
  | some x =>
    if x.failed.isSome then s
    else
      let s : State := { s with graphs := Tab.set s.graphs g { x with failed := some (code, detail) } }
      (s.tasks.filter fun t => t.2.graph = g && !t.2.fixed && t.2.st ≠ 2).foldl
        (fun (s : State) (t : Nat × Task) => (s.dropTaskGangs t.1 t.2).dropTask t.1) s

/-! ### Tiles of resources -/

/-- Bytes of an element of a format (13 R292); 16 for an ASTC block. -/
def formatBytes (f : Nat) : Nat :=
  if f = 0x01 then 1
  else if f = 0x02 ∨ f = 0x05 ∨ f = 0x0A then 2
  else if f = 0x06 ∨ f = 0x09 then (if f = 0x06 then 4 else 8)
  else if f = 0x07 then 8
  else if f = 0x0B ∨ 0x20 ≤ f then 16
  else 4

/-- Columns of tiles of a resource (16 R355). -/
def Resource.tx (r : Resource) : Nat := (r.width + r.ts - 1) / r.ts
/-- Rows of tiles. -/
def Resource.ty (r : Resource) : Nat := (r.height + r.ts - 1) / r.ts
/-- Its slot size. -/
def Resource.slot (r : Resource) : Nat := (r.ts * r.ts * formatBytes r.format + 4095) / 4096 * 4096

/-! ### Tile slots (16 R355, 23 R486) -/

/-- The address of the level-0 entry of a page, where its tables lead there. -/
def State.pteAt (s : State) (va level table : Nat) : Option Nat :=
  let at_ := table + 8 * ((va >>> (12 + 9 * level)) % 512)
  match placeOf at_ with
  | .stack _ | .host =>
    (match level with
     | 0 => some at_
     | l + 1 =>
       let e := BitVec.ofNat 64 (s.peekHome at_ 8)
       if !pteBit e 0 || ((l = 0 || l = 1) && pteBit e 7) then none else s.pteAt va l (pteFrame e))
  | _ => none

/-- A level-0 entry of a context written by Galena. -/
def State.putPte (s : State) (ctx : Nat) (va : DWord) (leaf : BitVec 64) : State :=
  match s.pteAt va.toNat 4 (s.ctx ctx).ptroot.toNat with
  | some a => s.unitWrite (cellsOf a 8 leaf.toNat)
  | none => s

/-- The address of a tile as programs see it. -/
def Resource.tileVa (r : Resource) (t : Nat) : DWord := r.rva + BitVec.ofNat 64 (t * r.slot)

/-- The addresses of the entries of a tile's pages. -/
def State.tilePtes (s : State) (ctx : Nat) (r : Resource) (t : Nat) : List Nat :=
  (List.range (r.slot / 4096)).filterMap fun k => s.pteAt (r.tileVa t + BitVec.ofNat 64 (4096 * k)).toNat 4 (s.ctx ctx).ptroot.toNat

/-- A tile's pages taken out of the context's tables. -/
def State.clearTile (s : State) (ctx : Nat) (r : Resource) (t : Nat) : State :=
  (s.tilePtes ctx r t).foldl (fun (s : State) a => s.unitWrite (cellsOf a 8 0)) s

/-- The bytes of a run of Grotto pages go. -/
def State.dropBytes (s : State) (frame n : Nat) : State := { s with
    mem := s.mem.filter (fun b => !(frame ≤ b.1 && b.1 < frame + n)),
    memBad := s.memBad.filter fun l => !(frame ≤ 128 * l.1 && 128 * l.1 < frame + n) }

/-- The graphs of a context leave the part with it: their tiles are unmapped (18 R407, 23 R486). -/
def State.dropGraphs (s : State) (c : Nat) : State :=
  let gs := s.graphs.filter fun g => g.2.ctx = c
  let s : State := gs.foldl (fun (s : State) g =>
    (g.2.slots.map fun x => (x.1, x.2.1)).foldl (fun (s : State) x =>
      match g.2.ress[x.1 / 2 ^ 26]? with
      | some r => (s.clearTile c r (x.1 % 2 ^ 26)).dropBytes x.2 r.slot
      | none => s) (g.2.freeing.foldl (fun (s : State) f => s.dropBytes f.frame f.size) s)) s
  { s with graphs := s.graphs.filter fun g => g.2.ctx ≠ c, rasters := s.rasters.filter fun r => !(gs.any fun g => g.1 = r.2.graph) }

/-- The records of a context's streams that have started fail with code 5 (18 R407). -/
def State.failRecords (s : State) (c detail : Nat) : State :=
  (s.slots.filter fun x => x.2.ctx = c).foldl (fun s x =>
    x.2.recs.foldl (fun s r => match r.st with
      | .fetched => s
      | .finished .. => s
      | _ => s.finishRec x.1 r.seq 5 detail 0) s) s

/-- A context kill (18 R407). -/
def State.killContext (s : State) (c detail : Nat) : State :=
  let gs := (s.gangs.filter fun g => g.2.ctx = c).map (·.1)
  let s : State := gs.foldl State.dropGang s
  let s : State := s.dropWarps ((s.warps.filter fun w => w.2.ctx = c).map (·.1))
  let gr := (s.graphs.filter fun g => g.2.ctx = c).map (·.1)
  let s : State := (s.tasks.filter fun t => gr.contains t.2.graph).foldl (fun (s : State) t => (s.dropTaskGangs t.1 t.2).dropTask t.1) s
  let s : State := s.dropGraphs c
  let s : State :=
    { s with
      launches := s.launches.filter fun l => l.2.ctx ≠ c,
      heads := s.heads.map fun h => (h.1, { h.2 with flips := h.2.flips.filter fun f => f.2.2.2.2.2 ≠ c }) }
  let s : State := s.failRecords c detail
  let s : State := ((s.slots.filter fun x => x.2.ctx = c).map (·.1)).foldl State.disableSlot s
  let s : State := s.removeTlb fun e => e.ctx = c
  let s : State := { s with
    wgs := s.wgs.filter fun g => (Tab.get? s.gangs g.2.gang).isSome || s.warps.any fun w => w.2.wg = g.1,
    dies := s.dies.map fun d => (d.1, { d.2 with miss := d.2.miss.filter fun m => m.2.ctx ≠ c }) }
  (s.modCtx c fun x => { x with killed := true, wdSince := none, xwSince := none }).ctxEvent c 2

end Sys2Proof.Machine
end

