-- ==== Sys2Proof/Machine/Ops.lean ====
section
/-!
DEFINITION. The issue of an instruction: successors (02 R52), leaving an instruction, stalls and waits, taking a trap and
returning from one (14 R321 to R330, 19 R423, R430), and the checks every instruction passes (02 R69).
-/
namespace Sys2Proof.Machine

/-! ### Successors -/

/-- The line of a key as a core would find it now: in its column, its cluster's unit, or at the home. -/
def State.peekLine (s : State) (core key : Nat) : BitVec 1024 :=
  match s.colLine core key with
  | some l => l.data
  | none =>
    match s.clusterLine (clusterOf core) key with
    | some l => l.data
    | none => (s.homeLine key).1

/-- The line of a key as a fetch would find it: in the core's instruction cache, else as the core finds it. -/
def State.codeLine (s : State) (core key : Nat) : BitVec 1024 :=
  match Tab.get? (s.core core).icache (physKey key) with
  | some d => d
  | none => s.peekLine core key

/-- The address space of the walkers' code, which is physical (19 R420; assumption 121), beside the 32 contexts'. -/
def physCtx : Nat := 32

/-- The address space that a warp's code lies in. -/
def Warp.codeCtx (w : Warp) : Nat := if w.walker then physCtx else w.ctx

/-- Physical memory that a walker fetches from lies there (19 R412, R413). -/
def physCode (a : Nat) : Bool := match placeOf a with | .nothing => false | .ats => false | _ => a < 2 ^ 52

/-- The instruction word at an address, as the part finds it in the decoded blocks (02 R52): by the core's instruction TLB, else as a
walk would; none where nothing maps the address. -/
def State.codeWord? (s : State) (core ctx : Nat) (a : Nat) : Option Word :=
  if ctx = physCtx then (if physCode a then some ((s.codeLine core (a / 128)).extractLsb' (32 * (a % 128 / 4)) 32) else none)
  else
  let leaf : Option (BitVec 64 × Nat) := match tlbFind (s.core core).itlb ctx a with
    | some t => some (t.leaf, t.pa a)
    | none => s.findLeaf (dieOf core) ctx (BitVec.ofNat 64 a)
  leaf.bind fun t =>
    (if pteBit t.1 56 then s.viewName t.1 a else some t.2).map fun pa =>
      (s.codeLine core (aliasName ctx (BitVec.ofNat 64 a) pa / 128)).extractLsb' (32 * (a % 128 / 4)) 32

/-- A pad unit (02 R48). -/
def isPad (x : Word) : Bool := x.extractLsb' 0 2 = 3

/-- Sequential flow from a block start: past blocks that begin with a pad unit, as far as code is mapped. -/
def State.blockStart (s : State) (core ctx : Nat) (a : DWord) (fuel : Nat) : DWord :=
  match fuel with
  | 0 => a
  | n + 1 =>
    match s.codeWord? core ctx a.toNat with
    | some x => if isPad x then s.blockStart core ctx (a + 32) n else a
    | none => a

/-- The successor of an instruction of n bytes at an address (02 R52). A pad at a block start that is not mapped yet, or beyond 4,096
blocks of pads, is passed over when the block is fetched. -/
def State.succLen (s : State) (core ctx : Nat) (a : DWord) (n : Nat) : DWord :=
  let b := a + BitVec.ofNat 64 n
  let up := (b &&& ~~~(31 : DWord)) + 32
  if b.toNat % 32 = 0 then s.blockStart core ctx b 4096
  else
    match s.codeWord? core ctx b.toNat with
    | some x => if isPad x then s.blockStart core ctx up 4096 else b
    | none => b

/-- The successor of the instruction at an address, its length read from its own word; where nothing maps it any more, a free one of the
three lengths (assumption 18). -/
def State.succAt (s : State) (core ctx : Nat) (a : DWord) : DWord :=
  match s.codeWord? core ctx a.toNat with
  | some x => s.succLen core ctx a (lenBytesOf (x.extractLsb' 0 2))
  | none => s.succLen core ctx a (match Config.choice (500 + core) s.free % 3 with | 0 => 8 | 1 => 12 | _ => 16)
where
  /-- Bytes by LEN (02 R48). -/
  lenBytesOf (len : BitVec 2) : Nat := if len = 1 then 12 else if len = 2 then 16 else 8

/-- Bytes of the issuing instruction. -/
def Issue.bytes (c : Issue) : Nat := if c.e.len = 1 then 12 else if c.e.len = 2 then 16 else 8

/-- The successor function of the issuing split. -/
def Issue.succ (c : Issue) (s : State) (a : DWord) : DWord :=
  if a = c.sp.pc then s.succLen c.warp.core c.warp.codeCtx a c.bytes else s.succAt c.warp.core c.warp.codeCtx a

/-- The address after the issuing instruction. -/
def Issue.next (c : Issue) (s : State) : DWord := c.succ s c.sp.pc

/-! ### Leaving an instruction -/

/-- The issuing warp changed. -/
def Issue.warpDo (c : Issue) (s : State) (f : Warp → Warp) : State := s.modWarp c.w f

/-- The issuing split changed. -/
def Issue.splitDo (c : Issue) (s : State) (f : Split → Split) : State := s.modWarp c.w fun w => w.modSplit c.k f

/-- A fresh age: the youngest in its partition (03 R90). -/
def State.bump (s : State) : State := { s with nextId := s.nextId + 1 }

/-- The tables of a warp settle after a change (06 R139, 07 R162). -/
def State.settleWarp (s : State) (w : Nat) (succ : DWord → DWord) : State :=
  (s.modWarp w fun x => x.settle s.nextId succ).bump

/-- The split leaves the instruction toward its successor, running the end step of a loop that ends here (07 R160). -/
def Issue.leave (c : Issue) (s : State) : State :=
  (s.modWarp c.w fun w => w.leaveAt c.k c.sp.pc (c.succ s)).settleWarp c.w (c.succ s)

/-- The split goes to an address it did not reach by sequential flow. -/
def Issue.goto (c : Issue) (s : State) (a : DWord) : State :=
  (c.splitDo s fun sp => { sp with pc := a, seq := false }).settleWarp c.w (c.succ s)

/-- The split stalls at the instruction, which changed nothing; its age stays (03 R87). -/
def Issue.stall (c : Issue) (s : State) (why : Stall) : State :=
  c.splitDo s fun sp => { sp with wait := .stall why, age := c.sp.age, xfails := c.sp.xfails }

/-- The split is descheduled: it waits, its latches invalid (03 R86). -/
def Issue.block (c : Issue) (s : State) (wait : Wait) : State :=
  c.splitDo s fun sp => { sp with wait, latches := sp.latches.clear }

/-- The latch valid bits of the issuing split cleared. -/
def Issue.clearLatches (c : Issue) (s : State) : State := c.splitDo s fun sp => { sp with latches := sp.latches.clear }

/-! ### Traps -/

/-- Causes taken after the instruction has completed (07 R164). -/
def causeDone (n : Nat) : Bool := n = 0x0D || n = 0x0E || n = 0x13

/-- The layout of TCAUSE and SCAUSE (02 R68). -/
def causeWord (t : Trap) : Word :=
  BitVec.ofNat 32 (t.cause + 256 * t.sub + if t.cause = 2 then 65536 * t.pos else 0)

/-- The layout of TDEST and SDEST (14 R325). -/
def destWord (c : Issue) : Word :=
  let n := destNames c.f c.e
  if n = 0 then 0x1FF
  else BitVec.ofNat 32 (c.e.d.toNat + 512 * c.e.u.toNat + 1024 * (if n = 1 then 0 else if n = 2 then 1 else 2))

/-- The operand file of some lanes. -/
def ofileOf (w : Warp) (lanes : Word) : Store 32 := w.o.filter fun p => lanes.getLsbD (p.1 % 32)

/-- A destination word lies in the operand file of some lanes. -/
def DstWord.inO (d : DstWord) (lanes : Word) : Bool :=
  lanes.getLsbD d.lane && (match d.reg with | .o _ => true | _ => false)

/-- The operand file of some lanes put back with its poison marks (03 R84, 09 R216). Results that the handler asked for no longer
reach it; those due at the trap still do. -/
def restoreO (w : Warp) (x : Saved) (lanes : Word) : Warp :=
  { w with
    o := (lanesOf lanes).foldl (fun m i => (List.range 8).foldl (fun m q =>
      Store.set m (laneKey q i) (Store.get x.ofile (laneKey q i))) m) w.o
    po := (x.omarks.filter fun p => lanes.getLsbD (p.1 % 32)).foldl (fun m p => Tab.set m p.1 p.2)
      (w.po.filter fun p => !lanes.getLsbD (p.1 % 32))
    pend := w.pend.map fun p =>
      if p.done then p
      else { p with dsts := (p.dsts.filter fun d => !d.inO lanes) ++
                      ((x.odue.filter fun y => y.1 = p.id && lanes.getLsbD y.2.lane).map (·.2)) } }

/-- What a trap saves with a split (14 R328, 19 R423). -/
def saveSplit (w : Warp) (sp : Split) (pend : Bool) : Saved :=
  { latches := sp.latches, loops := sp.frame.loops, pend, ofile := ofileOf w sp.mask,
    omarks := w.po.filter fun p => sp.mask.getLsbD (p.1 % 32)
    odue := w.pend.flatMap fun p => if p.done then [] else (p.dsts.filter fun d => d.inO sp.mask).map fun d => (p.id, d)
    level := sp.level }

/-- A split as a handler's first instruction finds it. -/
def Split.enter (sp : Split) (pc : DWord) (level : Nat) (mask : Word) : Split :=
  { sp with pc, seq := false, mask, level, latches := .empty, frame := { sp.frame with loops := [] }, wait := .ready,
            xfails := [] }

/-- Entry to the user handler (14 R328): TMASK, TNPC and the destination words are the trap's. -/
def userEntry (w : Warp) (sp : Split) (t : Trap) (tmask : Word) (npc : DWord) (dest : Word) (direct : Bool) : Split :=
  let pipe := match sp.frame.pipe with | some l => if l.depth = sp.frame.depth then some l else none | none => none
  let pend := match sp.frame.inner with | some (_, l) => l.stop = sp.pc | none => false
  let fr : UserFrame :=
    { tcause := causeWord t, tpc := sp.pc, tnpc := npc, tmask, tact := sp.mask, tdest := dest,
      tinfo := BitVec.ofNat 32 t.info, tnpcSeq := true, rb := (pipe.map (·.rb)).getD 0, win := (pipe.map (·.win)).getD 0, direct,
      saved := some (saveSplit w sp pend) }
  { sp.enter w.utvec 1 sp.mask with user := fr }

/-- SINFO (19 R422). -/
def sinfoWord (sp : Split) (t : Trap) : Word :=
  BitVec.ofNat 32 ((if sp.level = 1 then 2 ^ 31 else 0) + (if causeDone t.cause then 0 else 2 ^ 30)
    + (if t.fetch then 2 ^ 17 else 0) + (if t.write then 2 ^ 16 else 0) + (if causeDone t.cause then t.info % 65536 else 0))

/-- Entry to the supervisor handler (19 R423). -/
def supEntry (w : Warp) (sp : Split) (t : Trap) (smask : Word) (pc npc : DWord) (dest : Word) (stvec : DWord) : Split :=
  let pend := causeDone t.cause && (match sp.frame.inner with | some (_, l) => l.stop = sp.pc | none => false)
  let held := sp.mask &&& ~~~smask
  let fr : SupFrame :=
    { scause := causeWord t, spc := pc, snpc := npc, smask, sact := sp.mask, sdest := dest,
      sva := t.va.foldl (fun m p => Store.set m p.1 p.2) [], sinfo := sinfoWord sp t, held,
      cause := t.cause, spcSeq := sp.seq && t.fetch, snpcSeq := true, heldOp := none, saved := some (saveSplit w sp pend) }
  { sp.enter stvec 2 smask with sup := fr }

/-- A record of code 0x101 for cause 0x11 (26 R502, R508). -/
def State.logDataError (s : State) (w : Warp) (t : Trap) : State :=
  if t.cause = 0x11 then
    s.log (dieOf w.core) 0x101 w.core w.ctx (((t.va.head?.map (·.2.toNat)).getD 0) + t.sub * 2 ^ 64)
  else s

/-- A trap at LEVEL 2 cannot be handled: both dies log it and the context is killed (19 R421). -/
def State.fatalTrap (s : State) (w : Warp) (t : Trap) (pc : DWord) : State :=
  let data := [(causeWord t).toNat, pc.toNat]
  ((s.logFields 0 0x182 w.core w.ctx data).logFields 1 0x182 w.core w.ctx data).killContext w.ctx t.cause

/-- TAKING A TRAP (14 R321, R323, R328, 19 R421, R423) by entry k of warp w: em is the instruction's execution mask, uni its U,
pc and npc the trapping address and its successor, dest the destination word. -/
def State.takeTrap (s : State) (wi k : Nat) (t : Trap) (em : Word) (uni : Bool) (pc npc : DWord) (dest : Word) (direct : Bool) :
    State :=
  match s.warp? wi with
  | none => s
  | some w =>
    match w.split? k with
    | none => s
    | some sp =>
      let s : State := s.logDataError w t
      if sp.level = 2 then s.fatalTrap w t pc
      else if causeDone t.cause && w.utvec ≠ 0 && sp.level = 0 then
        s.modWarp wi fun w => w.setSplit k (userEntry w sp t (t.lanes.getD em) npc dest direct)
      else
        let named := (t.lanes.getD em) &&& sp.mask
        let smask := if (uni ∧ !t.exact) ∨ named = 0 then sp.mask else named
        let va := if uni ∧ !t.exact then (match t.va with | p :: _ => (lanesOf smask).map fun i => (i, p.2) | [] => []) else t.va
        s.modWarp wi fun w => w.setSplit k (supEntry w sp { t with va } smask pc npc dest (s.ctx w.ctx).stvec)

/-- A trap of the issuing instruction. -/
def Issue.trap (c : Issue) (s : State) (t : Trap) : State :=
  s.takeTrap c.w c.k t c.em c.e.uni c.sp.pc (c.next s)
    (if t.cause = 0x0E ∨ t.cause = 0x13 then 0x1FF else destWord c) c.f.direct

/-- What a frame saved, put back: latches, loops, operand file and LEVEL; lanes that have exited stay out. -/
def restoreSaved (w : Warp) (k : Nat) (sp : Split) (x : Saved) (mask : Word) : Warp :=
  restoreO (w.setSplit k { sp with latches := x.latches, frame := { sp.frame with loops := x.loops }, level := x.level, mask })
    x mask

/-- The jump of URET and SRET: the end step where the restored PEND is set, else to pc (14 R330, 07 R164, R175). -/
def Issue.resumeAt (c : Issue) (s : State) (pend : Bool) (pc : DWord) (seq : Bool) : State :=
  let s : State := c.splitDo s fun sp => { sp with pc, seq }
  let s : State := if pend then s.modWarp c.w fun w =>
      match w.split? c.k with
      | some sp => if sp.live = 0 ∨ sp.frame.inner.isNone then w else w.endStep c.k (c.succ s) 5
      | none => w
    else s
  s.settleWarp c.w (c.succ s)

/-- RETURN FROM A USER HANDLER (14 R330), its checks made. -/
def Issue.userReturn (c : Issue) (s : State) : State :=
  match c.sp.user.saved with
  | none => s
  | some x =>
    let s' : State := c.warpDo s fun w => 
      restoreSaved w c.k { c.sp with age := s.nextId, wait := .ready, user := { c.sp.user with saved := none } } x c.sp.mask
    c.resumeAt s' x.pend c.sp.user.tnpc c.sp.user.tnpcSeq

/-- RETURN FROM THE SUPERVISOR HANDLER (19 R430), its checks made: REEXEC goes to SPC, else the end step or SNPC. -/
def Issue.supReturn (c : Issue) (s : State) : State :=
  match c.sp.sup.saved with
  | none => s
  | some x =>
    let f := c.sp.sup
    let mask := c.sp.mask ||| f.held
    let s' : State := c.warpDo s fun w => 
      restoreSaved w c.k { c.sp with age := s.nextId, wait := .ready, sup := { f with saved := none, held := 0 } } x mask
    if f.sinfo.getLsbD 30 then c.resumeAt s' false f.spc f.spcSeq
    else c.resumeAt s' x.pend f.snpc f.snpcSeq

/-! ### The checks of an issuing instruction -/

/-- A trap of an undefined or misused instruction: cause 0x01. -/
def illegal (sub : Nat) : Trap := { cause := 0x01, sub }

/-- A system opcode the level may not execute (02 R67, 14 R322, R324). -/
def Issue.privileged (c : Issue) : Bool :=
  let op := c.f.op
  let index := c.e.fb 0 12
  if op < 0x1C0 ∨ c.sp.level = 2 then false
  else if op = 0x1CF ∨ op = 0x1D0 ∨ op = 0x1D1 then false
  else if op = 0x1C0 ∨ op = 0x1C1 then
    !(c.e.fb 12 1 = 1) && !(index ≤ 0x00D || (0x020 ≤ index && index ≤ 0x025) || (0x030 ≤ index && index ≤ 0x035))
  else if op = 0x1C3 then c.sp.level = 0
  else true

/-- An active level of the split at its depth ends at the instruction (07 R163). -/
def Issue.atEnd (c : Issue) : Bool := c.sp.frame.loops.any fun l => l.depth = c.sp.frame.depth && l.stop = c.sp.pc

/-- RDSYS.dest and WRSYS.dest of a WORD beyond TDEST.WID (14 R331). -/
def Issue.wordBeyond (c : Issue) : Bool :=
  (c.f.op = 0x1C0 || c.f.op = 0x1C1) && c.e.fb 12 1 = 1 &&
    (let wid := c.sp.user.tdest.toNat / 1024 % 4; (if wid = 0 then 0 else if wid = 1 then 1 else 3) < c.e.fb 13 2)

/-- Steps 4 to 9 of R69, a poisoned operand (09 R216) and R163, in order. DESIGN CHOICE (assumption 128): R69 gives the poisoned operand no place; it
comes before R163's bad end. -/
def Issue.precheck (c : Issue) : Option Trap :=
  if !c.f.lenU c.e then some (illegal 0x02)
  else if c.privileged then some { cause := 0x15 }
  else if !c.f.fieldsOk c.e || c.wordBeyond then some (illegal 0x05)
  else
    match c.f.operands c.e c.warp.vregs with
    | some (pos, .specifier) => some { cause := 0x02, sub := 0x01, pos }
    | some (pos, _) => some { cause := 0x02, sub := 0x02, pos }
    | none =>
      if 8 ≤ c.e.pred.toNat ∧ c.e.pred.toNat < 16 ∧ c.sp.frame.pipe.isNone then some { cause := 0x0B, sub := 0x04 }
      else
        match c.staleLatch with
        | some pos => some { cause := 0x02, sub := 0x03, pos }
        | none =>
          match c.poisoned with
          | some (kind, lanes) =>
            some { cause := if kind = 2 then 0x12 else 0x11, sub := if kind = 2 then 0x05 else if kind = 3 then 0x03 else 0x01,
                   lanes := some lanes }
          | none => if c.f.badEnd && c.atEnd then some { cause := 0x0B, sub := 0x08 } else none

/-- The issue that a state names, for an instruction of a form; the second pick of a ck reads g as it stood at the start of the ck
(02 R57). -/
def State.issue? (s : State) (f : Form) (e : Enc) : Option Issue :=
  s.cur.bind fun u => (s.warp? u.warp).bind fun w => (w.split? u.entry).map fun sp =>
    let w := match u.g with | some g => { w with g } | none => w
    { w := u.warp, k := u.entry, warp := w, sp, e, f, em := execMask w sp e }

/-- The issuing split is ready again and, having issued, the youngest of its partition (03 R90). -/
def Issue.begin (c : Issue) (s : State) : State :=
  (c.splitDo s fun sp => { sp with wait := .ready, age := s.nextId, xfails := [] }).bump

/-- A load or an atomic with an acquire side. -/
def OpBody.acquires (b : OpBody) : Bool :=
  match b with
  | .load _ _ _ _ acq => acq ≠ 5
  | .atomic _ _ _ _ _ _ acq _ => acq ≠ 5
  | .atomLocal _ _ _ _ _ acq => acq ≠ 5
  | _ => false

/-- A memory, engine, atomic or queue instruction of lanes whose acquire load has not completed: it is held (09 R215, 10
R233). -/
def Issue.acquiring (c : Issue) : Bool :=
  0x110 ≤ c.f.op && c.f.op < 0x1C0 && c.f.op ≠ 0x143 &&
    c.warp.pend.any fun p => !p.done && (p.mask &&& c.sp.mask) ≠ 0 && p.body.acquires

/-- An instruction of the opcode map executes: its checks, in order, a hold behind an acquire, then its own body. -/
def runIsa (f : Form) (e : Enc) (body : Issue → State → State) (s : State) : Host.Outcome State Fault Refusal :=
  match s.issue? f e with
  | none => .fault .noIssuingSplit
  | some c =>
    match c.precheck with
    | some t => .next (c.trap (c.begin s) t)
    | none => .next (if c.acquiring then c.stall (c.begin s) .acquire else body c (c.begin s))

end Sys2Proof.Machine
end

