-- ==== Sys2Proof/Machine/Flags.lean ====
section
/-!
DEFINITION. How a direct-class instruction ends: results written, l0 pushed, FPSTAT updated and the FP exception trap taken
(01 R46, R47, 02 R71, R72, 04 R97, R107, 05 R115).
-/
namespace Sys2Proof.Machine

/-- What a lane (or the one execution of U = 1) computes: its result's words, low first, and the flags it raises. -/
structure LaneOut where
  words : List Word
  flags : FpFlags := 0
deriving DecidableEq, Repr

/-- The union of flags. -/
def unionFlags (fs : List (Nat × FpFlags)) : FpFlags := fs.foldl (fun a p => a ||| p.2) 0

/-- FPSTAT with flags ORed in (R46). -/
def Warp.raise (w : Warp) (fl : FpFlags) : Warp := { w with fpstat := w.fpstat ||| fl.setWidth 32 }

/-- The lanes that raised a flag whose FPTRAP bit is set (R47). -/
def trapLanes (w : Warp) (fs : List (Nat × FpFlags)) : Word :=
  maskOf ((fs.filter fun p => (p.2.setWidth 32 &&& w.fptrap) ≠ 0).map (·.1))

/-- The instruction leaves, or takes the FP exception trap where an enabled flag was raised (R47); the lanes named are the
split's for U = 1 (R115). -/
def Issue.flagEnd (c : Issue) (s : State) (fs : List (Nat × FpFlags)) : State :=
  let s' : State := c.warpDo s fun w => w.raise (unionFlags fs)
  let lanes := trapLanes c.warp fs
  if lanes = 0 then c.leave s'
  else c.trap s' { cause := 0x0D, lanes := some (if c.e.uni then c.em else lanes), exact := true, info := (unionFlags fs).toNat }

/-- The lanes an instruction computes for: those of the execution mask, or one computation with U = 1 whose predicate holds. -/
def Issue.lanes (c : Issue) : List Nat := if c.e.uni then (if c.em = 0 then [] else [0]) else lanesOf c.em

/-- A result pushed into l0 of the executing lanes; no push with U = 1 (R72). -/
def Issue.push (c : Issue) (w : Warp) (res : List (Nat × DWord)) : Warp :=
  if c.e.uni then w else w.modSplit c.k fun sp => { sp with latches := sp.latches.push res }

/-- A direct-class instruction with a result of its own in every lane (02 R71, R72). -/
def Issue.direct (c : Issue) (s : State) (f : Nat → LaneOut) : State :=
  let outs := c.lanes.map fun i => (i, f i)
  let s' : State := c.warpDo s fun w =>
    let w := if c.e.w = 1 then w else outs.foldl (fun w p => c.putWords w c.e.d.toNat p.1 p.2.words) w
    c.push w (outs.map fun p => (p.1, low64 p.2.words))
  c.flagEnd s' (outs.map fun p => (p.1, p.2.flags))

/-- D is a uniform destination (R59). -/
def Issue.uniformD (c : Issue) : Bool := 0x140 ≤ c.e.d.toNat && c.e.d.toNat < 0x180

/-- A lane instruction: each lane's value, and, where D is uniform, the one result g receives while a lane executes (R107). -/
def Issue.laneResult (c : Issue) (s : State) (f : Nat → List Word) (g : List Word) (fs : List (Nat × FpFlags)) : State :=
  let outs := (lanesOf c.em).map fun i => (i, f i)
  let s' : State := c.warpDo s fun w =>
    let w :=
      if c.e.w = 1 then w
      else if c.uniformD then (if c.em = 0 then w else c.putWords w c.e.d.toNat 0 g)
      else outs.foldl (fun w p => c.putWords w c.e.d.toNat p.1 p.2) w
    c.push w (outs.map fun p => (p.1, low64 p.2))
  c.flagEnd s' fs

end Sys2Proof.Machine
end

