-- ==== Sys2Proof/Machine/Integer.lean ====
section
/-!
DEFINITION. The integer and logic instructions (04 R97 to R105): one meaning each over the shared end of a direct-class
instruction.
-/
namespace Sys2Proof.Machine

/-- A word read under an integer type: i types signed, n types unsigned (R99). -/
def readInt {w : Nat} (signed : Bool) (x : BitVec w) : Int := if signed then x.toInt else x.toNat

/-- A type code is signed: i32, i64, i8, i16. -/
def signedType (t : Nat) : Bool := t = 0 || t = 2 || t = 11 || t = 13

/-- An exact result wrapped to w bits, or clamped to the type's range with .sat (R24, R100). -/
def narrow (w : Nat) (signed sat : Bool) (x : Int) : BitVec w :=
  if sat then
    let lo : Int := if signed then -(2 ^ (w - 1) : Nat) else 0
    let hi : Int := if signed then (2 ^ (w - 1) : Nat) - 1 else (2 ^ w : Nat) - 1
    BitVec.ofInt w (if x < lo then lo else if hi < x then hi else x)
  else BitVec.ofInt w x

/-- The row's type code. -/
def Enc.ty (e : Enc) : Nat := e.fb 0 4
/-- The .sat bit of an integer row (R98). -/
def satBit (e : Enc) : Bool := e.fb 4 1 = 1

/-- A one-word result. -/
def out1 (x : Word) : LaneOut := { words := [x] }
/-- A pair result. -/
def out2 (x : DWord) : LaneOut := { words := words2 x }

/-- A 32-bit source under the row's type. -/
def Issue.int (c : Issue) (spec : BitVec 9) (i : Nat) : Int := readInt (signedType (c.e.fb 0 4)) (c.rd spec i)
/-- A 64-bit source under the row's type. -/
def Issue.int64 (c : Issue) (spec : BitVec 9) (i : Nat) : Int := readInt (signedType (c.e.fb 0 4)) (c.rd64 spec i)

/-- An arithmetic row with a 32-bit result (R100). -/
def arith32 (f : Form) (e : Enc) (r : Issue → Nat → Int) (s : State) : Host.Outcome State Fault Refusal :=
  runIsa f e (fun c s => c.direct s fun i => out1 (narrow 32 (signedType (e.fb 0 4)) (satBit e) (r c i))) s

/-- A row whose one-word result comes from words (R99). -/
def logic32 (f : Form) (e : Enc) (r : Issue → Nat → Word) (s : State) : Host.Outcome State Fault Refusal :=
  runIsa f e (fun c s => c.direct s fun i => out1 (r c i)) s

/-- A condition code on two exact integers (R98). -/
def icond (code : Nat) (a b : Int) : Bool :=
  match code with
  | 0 => a = b | 1 => a ≠ b | 2 => a < b | 3 => a ≤ b | 4 => b < a | _ => b ≤ a

/-- A truth value as a word. -/
def bit32 (b : Bool) : Word := if b then 1 else 0

/-- NOP (R102): pushes zero; with U = 1 no effect. -/
def execNop (e : Enc) (s : State) : Host.Outcome State Fault Refusal :=
  runIsa formNop e (fun c s => c.direct s fun _ => { words := [] }) s

/-- MOV (R102). -/
def execMov (e : Enc) (s : State) : Host.Outcome State Fault Refusal :=
  runIsa formMov e (fun c s => c.direct s fun i => { words := c.rdWords e.a i (sizeNames (e.fb 0 2)) }) s

/-- MOVK (R101). -/
def execMovk (e : Enc) (s : State) : Host.Outcome State Fault Refusal :=
  runIsa formMovk e (fun c s => c.direct s fun i =>
    if e.fb 0 2 = 0 then out1 e.k
    else if e.fb 0 2 = 1 then out2 (e.k.signExtend 64)
    else { words := [c.rd e.a i, e.k] }) s

/-- IADD (R100). -/
def execIadd (e : Enc) (s : State) : Host.Outcome State Fault Refusal :=
  arith32 formIadd e (fun c i => c.int e.a i + c.int e.b i) s

/-- ISUB (R100). -/
def execIsub (e : Enc) (s : State) : Host.Outcome State Fault Refusal :=
  arith32 formIsub e (fun c i => c.int e.a i - c.int e.b i) s

/-- IADD3 (R100). -/
def execIadd3 (e : Enc) (s : State) : Host.Outcome State Fault Refusal :=
  arith32 formIadd3 e (fun c i => c.int e.a i + c.int e.b i + c.int e.c i) s

/-- IMUL (R100). -/
def execImul (e : Enc) (s : State) : Host.Outcome State Fault Refusal :=
  arith32 formImul e (fun c i => c.int e.a i * c.int e.b i) s

/-- IMULH (R99, R100): the high word of the exact product. -/
def execImulh (e : Enc) (s : State) : Host.Outcome State Fault Refusal :=
  arith32 formImulh e (fun c i => (c.int e.a i * c.int e.b i) / (2 ^ 32 : Nat)) s

/-- IMAD (R100). -/
def execImad (e : Enc) (s : State) : Host.Outcome State Fault Refusal :=
  arith32 formImad e (fun c i => c.int e.a i * c.int e.b i + c.int e.c i) s

/-- IMADW (R100): a 64-bit addend and result, .sat clamping to i64 or n64. -/
def execImadw (e : Enc) (s : State) : Host.Outcome State Fault Refusal :=
  runIsa formImadw e (fun c s => c.direct s fun i =>
    out2 (narrow 64 (signedType (e.fb 0 4)) (satBit e) (c.int e.a i * c.int e.b i + c.int64 e.c i))) s

/-- IADD64 (R100). -/
def execIadd64 (e : Enc) (s : State) : Host.Outcome State Fault Refusal :=
  runIsa formIadd64 e (fun c s => c.direct s fun i =>
    out2 (narrow 64 (signedType (e.fb 0 4)) (satBit e) (c.int64 e.a i + c.int64 e.b i))) s

/-- IMIN (R99). -/
def execImin (e : Enc) (s : State) : Host.Outcome State Fault Refusal :=
  arith32 formImin e (fun c i => min (c.int e.a i) (c.int e.b i)) s

/-- IMAX (R99). -/
def execImax (e : Enc) (s : State) : Host.Outcome State Fault Refusal :=
  arith32 formImax e (fun c i => max (c.int e.a i) (c.int e.b i)) s

/-- IABS (R100). -/
def execIabs (e : Enc) (s : State) : Host.Outcome State Fault Refusal :=
  arith32 formIabs e (fun c i => ((c.int e.a i).natAbs : Int)) s

/-- ICMP (R99, R100). -/
def execIcmp (e : Enc) (s : State) : Host.Outcome State Fault Refusal :=
  logic32 formIcmp e (fun c i => bit32 (icond (e.fb 5 3) (c.int e.a i) (c.int e.b i))) s

/-- ICMP64 (R99, R100). -/
def execIcmp64 (e : Enc) (s : State) : Host.Outcome State Fault Refusal :=
  logic32 formIcmp64 e (fun c i => bit32 (icond (e.fb 5 3) (c.int64 e.a i) (c.int64 e.b i))) s

/-- SEL (R99, R102). -/
def execSel (e : Enc) (s : State) : Host.Outcome State Fault Refusal :=
  runIsa formSel e (fun c s => c.direct s fun i =>
    { words := c.rdWords (if (c.rd e.c i).getLsbD 0 then e.a else e.b) i (sizeNames (e.fb 0 2)) }) s

/-- AND (R99). -/
def execAnd (e : Enc) (s : State) : Host.Outcome State Fault Refusal := logic32 formAnd e (fun c i => c.rd e.a i &&& c.rd e.b i) s
/-- OR (R99). -/
def execOr (e : Enc) (s : State) : Host.Outcome State Fault Refusal := logic32 formOr e (fun c i => c.rd e.a i ||| c.rd e.b i) s
/-- XOR (R99). -/
def execXor (e : Enc) (s : State) : Host.Outcome State Fault Refusal := logic32 formXor e (fun c i => c.rd e.a i ^^^ c.rd e.b i) s
/-- ANDN (R99). -/
def execAndn (e : Enc) (s : State) : Host.Outcome State Fault Refusal := logic32 formAndn e (fun c i => c.rd e.a i &&& ~~~(c.rd e.b i)) s

/-- BOOL3's result through its truth table (R103). -/
def bool3 (tab : Nat) (a b c : Word) : Word :=
  (List.range 32).foldl (fun r j =>
    let n := (if a.getLsbD j then 1 else 0) + (if b.getLsbD j then 2 else 0) + (if c.getLsbD j then 4 else 0)
    if tab.testBit n then r ||| (1#32 <<< j) else r) 0

/-- BOOL3 (R103). -/
def execBool3 (e : Enc) (s : State) : Host.Outcome State Fault Refusal :=
  logic32 formBool3 e (fun c i => bool3 e.x.toNat (c.rd e.a i) (c.rd e.b i) (c.rd e.c i)) s

/-- A shift of 32 or 64 bits by a count modulo the width (R24, R99). -/
def shiftOut (c : Issue) (e : Enc) (i : Nat) (f : (w : Nat) → BitVec w → Nat → BitVec w) : LaneOut :=
  let n := (c.rd e.b i).toNat
  if e.fb 0 2 = 1 then out2 (f 64 (c.rd64 e.a i) (n % 64)) else out1 (f 32 (c.rd e.a i) (n % 32))

/-- SHL (R99). -/
def execShl (e : Enc) (s : State) : Host.Outcome State Fault Refusal :=
  runIsa formShl e (fun c s => c.direct s fun i => shiftOut c e i fun _ x n => x <<< n) s
/-- SHR (R99). -/
def execShr (e : Enc) (s : State) : Host.Outcome State Fault Refusal :=
  runIsa formShr e (fun c s => c.direct s fun i => shiftOut c e i fun _ x n => x >>> n) s
/-- SAR (R99). -/
def execSar (e : Enc) (s : State) : Host.Outcome State Fault Refusal :=
  runIsa formSar e (fun c s => c.direct s fun i => shiftOut c e i fun _ x n => x.sshiftRight n) s

/-- SHF (R103). -/
def execShf (e : Enc) (s : State) : Host.Outcome State Fault Refusal :=
  logic32 formShf e (fun c i =>
    let v : DWord := c.rd e.b i ++ c.rd e.a i
    let n := (c.rd e.c i).toNat % 32
    if e.fb 0 1 = 0 then (v >>> n).extractLsb' 0 32 else (v <<< n).extractLsb' 32 32) s

/-- BFE's result (R104): position and length from s, sign or zero extension. -/
def bfe (signed : Bool) (a s : Word) : Word :=
  let pos := s.toNat % 256
  let len := min (s.toNat / 256 % 256) 32
  if len = 0 then 0
  else
    let wide : BitVec 320 := if signed then a.signExtend 320 else a.setWidth 320
    let f := (wide >>> pos).toNat % 2 ^ len
    if signed ∧ 2 ^ (len - 1) ≤ f then BitVec.ofInt 32 ((f : Int) - (2 ^ len : Nat)) else BitVec.ofNat 32 f

/-- BFE (R104). -/
def execBfe (e : Enc) (s : State) : Host.Outcome State Fault Refusal :=
  logic32 formBfe e (fun c i => bfe (signedType (e.fb 0 4)) (c.rd e.a i) (c.rd e.b i)) s

/-- BFI's result (R104). -/
def bfi (a b s : Word) : Word :=
  let pos := s.toNat % 256
  let len := min (s.toNat / 256 % 256) 32
  let m : Word := BitVec.ofNat 32 ((2 ^ len - 1) <<< pos)
  (a &&& ~~~m) ||| ((b <<< pos) &&& m)

/-- BFI (R104). -/
def execBfi (e : Enc) (s : State) : Host.Outcome State Fault Refusal :=
  logic32 formBfi e (fun c i => bfi (c.rd e.a i) (c.rd e.b i) (c.rd e.c i)) s

/-- POPC (R99). -/
def execPopc (e : Enc) (s : State) : Host.Outcome State Fault Refusal :=
  logic32 formPopc e (fun c i => BitVec.ofNat 32 (lanesOf (c.rd e.a i)).length) s
/-- CLZ (R99). -/
def execClz (e : Enc) (s : State) : Host.Outcome State Fault Refusal :=
  logic32 formClz e (fun c i => BitVec.ofNat 32 (32 - bitLen (c.rd e.a i).toNat)) s
/-- CTZ (R99). -/
def execCtz (e : Enc) (s : State) : Host.Outcome State Fault Refusal :=
  logic32 formCtz e (fun c i => BitVec.ofNat 32 (((lanesOf (c.rd e.a i)).head?).getD 32)) s
/-- BREV (R99). -/
def execBrev (e : Enc) (s : State) : Host.Outcome State Fault Refusal :=
  logic32 formBrev e (fun c i => maskOf ((lanesOf (c.rd e.a i)).map fun j => 31 - j)) s

/-- LEA (R99): a 64-bit base plus a shifted 32-bit index under its type. -/
def execLea (e : Enc) (s : State) : Host.Outcome State Fault Refusal :=
  runIsa formLea e (fun c s => c.direct s fun i =>
    out2 (c.rd64 e.a i + BitVec.ofInt 64 (c.int e.b i * (2 ^ e.fb 4 3 : Nat)))) s

/-- BYTEX's result under a 16-bit selector (R105). -/
def bytex (a b : Word) (sel : Nat) : Word :=
  let v : DWord := b ++ a
  BitVec.ofNat 32 ((List.range 4).foldl (fun r k =>
    let n := (sel >>> (4 * k)) % 16
    let x := if n < 8 then (v.toNat >>> (8 * n)) % 256 else if n % 2 = 0 then 0 else 255
    r + (x <<< (8 * k))) 0)

/-- BYTEX (R105). -/
def execBytex (e : Enc) (s : State) : Host.Outcome State Fault Refusal :=
  logic32 formBytex e (fun c i =>
    bytex (c.rd e.a i) (c.rd e.b i) (if e.x.toNat < 2 ^ 16 then (c.rd e.c i).toNat % 2 ^ 16 else e.x.toNat % 2 ^ 16)) s

end Sys2Proof.Machine
end

