-- ==== Sys2Proof/Machine/Float.lean ====
section
/-!
DEFINITION. The floating-point instructions (05 R115 to R123): operands under their modifiers (R117), one computation per
element (R119), one meaning per instruction.
-/
namespace Sys2Proof.Machine

/-- Which source of a row: its specifier and its modifier bits. -/
inductive FpSrc where
  | a | b | c
deriving DecidableEq, Repr

/-- The specifier of a source. -/
def fpSpec (e : Enc) (x : FpSrc) : BitVec 9 := match x with | .a => e.a | .b => e.b | .c => e.c
/-- ABS of a source (R116); there is none for c. -/
def fpAbs (e : Enc) (x : FpSrc) : Bool := match x with | .a => e.fb 10 1 = 1 | .b => e.fb 11 1 = 1 | .c => false
/-- NEG of a source (R116). -/
def fpNeg (e : Enc) (x : FpSrc) : Bool := match x with | .a => e.fb 7 1 = 1 | .b => e.fb 8 1 = 1 | .c => e.fb 9 1 = 1

/-- The modifiers of R117 on an encoding: ABS clears the sign bit, NEG then inverts it. -/
def modifyEnc (f : Fmt) (abs neg : Bool) (x : Nat) : Nat :=
  let top := 2 ^ (f.width - 1)
  let y := if abs then x % top else x
  if neg then (if top ≤ y then y - top else y + top) else y

/-- Element k of a source of a lane, after R117. -/
def Issue.fpElem (c : Issue) (x : FpSrc) (i k : Nat) (f : Fmt) (packed : Bool) : Nat :=
  let v := c.rdFp (fpSpec c.e x) i f packed
  modifyEnc f (fpAbs c.e x) (fpNeg c.e x) (if packed then (v >>> (16 * k)) % 2 ^ 16 else v)

/-- RND (R63). -/
def Issue.rnd (c : Issue) : Nat := c.e.fb 4 2
/-- FTZ (R116, R124). -/
def Issue.ftz (c : Issue) : Bool := c.e.fb 6 1 = 1

/-- Invalid where an operand is a signalling NaN (R33). -/
def sigFlag (xs : List Num) : FpFlags := if xs.any Num.isSig then flagNV else 0

/-- One element of a computing row (R119): sources flushed, the exact result and its invalid or divide flag, rounded once. -/
def fpCompute (out : Fmt) (mode : Nat) (ftz : Bool) (srcs : List (Fmt × Nat)) (row : List Num → Num × FpFlags) : Nat × FpFlags :=
  let xs := srcs.map fun p => p.1.value p.2
  let z := row (srcs.map fun p => (p.1.value p.2).flush p.1 ftz)
  let y := roundTo out z.1 mode ftz false
  (y.1, sigFlag xs ||| z.2 ||| y.2)

/-- A result's words: one, or a pair for f64. -/
def fpWords (f : Fmt) (x : Nat) : List Word := if f = .f64 then words2 (BitVec.ofNat 64 x) else [BitVec.ofNat 32 x]

/-- The output of a row that works on whole registers of one format. -/
def Issue.fpRow (c : Issue) (f : Fmt) (mode : Nat) (srcs : List FpSrc) (row : List Num → Num × FpFlags) (i : Nat) : LaneOut :=
  let r := fpCompute f mode c.ftz (srcs.map fun x => (f, c.fpElem x i 0 f false)) row
  { words := fpWords f r.1, flags := r.2 }

/-- Two elements joined in a word. -/
def pack2 (lo hi : Nat × FpFlags) : LaneOut :=
  { words := [BitVec.ofNat 32 (lo.1 + 65536 * hi.1)], flags := lo.2 ||| hi.2 }

/-- The output of a packed row: two elements, independently. -/
def Issue.fpPacked (c : Issue) (srcs : List FpSrc) (row : List Num → Num × FpFlags) (i : Nat) : LaneOut :=
  let f := fmtOf (c.e.fb 0 4)
  let one (k : Nat) := fpCompute f c.rnd c.ftz (srcs.map fun x => (f, c.fpElem x i k f true)) row
  pack2 (one 0) (one 1)

/-! ### Rows -/

/-- Invalid, if it holds. -/
def nvIf (b : Bool) : FpFlags := if b then flagNV else 0

/-- a + b; infinities of both signs are invalid. -/
def rowAdd (mode : Nat) (xs : List Num) : Num × FpFlags := (sumAll mode xs, nvIf (bothInf xs))

/-- a * b; zero times infinity is invalid. -/
def rowMul (xs : List Num) : Num × FpFlags :=
  match xs with
  | [a, b] => (a.mul b, nvIf (a.zeroInf b))
  | _ => (.nan false, 0)

/-- a * b + c: zero times infinity is invalid whatever c holds, and so is an infinite product of the other sign than an infinite
c (R119). -/
def rowFma (mode : Nat) (xs : List Num) : Num × FpFlags :=
  match xs with
  | [a, b, c] => (sumAll mode [a.mul b, c], nvIf (a.zeroInf b || bothInf [a.mul b, c]))
  | _ => (.nan false, 0)

/-- a0 * b0 + a1 * b1 + c (R119). -/
def rowDot (mode : Nat) (xs : List Num) : Num × FpFlags :=
  match xs with
  | [a0, b0, a1, b1, c] =>
    let ts := [a0.mul b0, a1.mul b1, c]
    (sumAll mode ts, nvIf (a0.zeroInf b0 || a1.zeroInf b1 || bothInf ts))
  | _ => (.nan false, 0)

/-- A function of one operand, its NaN aside. -/
def rowFn (g : Num → Num × FpFlags) (xs : List Num) : Num × FpFlags :=
  match xs with
  | [.nan b] => (.nan b, 0)
  | [x] => g x
  | _ => (.nan false, 0)

/-- The NaN of an invalid operation. -/
def invalidNum : Num × FpFlags := (.nan false, flagNV)

/-- FRCP and DRCP (R40). -/
def fnRcp (x : Num) : Num × FpFlags :=
  match x with
  | .inf n => (.fin n 0 0, 0)
  | .fin n m e => if m = 0 then (.inf n, flagDZ) else (recip n m e, 0)
  | x => (x, 0)

/-- FRSQ and DRSQ (R40). -/
def fnRsq (x : Num) : Num × FpFlags :=
  match x with
  | .inf n => if n then invalidNum else (.fin false 0 0, 0)
  | .fin n m e => if m = 0 then (.inf n, flagDZ) else if n then invalidNum else (rroot m e, 0)
  | x => (x, 0)

/-- FSQRT (R40). -/
def fnSqrt (x : Num) : Num × FpFlags :=
  match x with
  | .inf n => if n then invalidNum else (.inf false, 0)
  | .fin n m e => if m = 0 then (.fin n 0 0, 0) else if n then invalidNum else (root m e, 0)
  | x => (x, 0)

/-- FEXP2 (R40). -/
def fnExp2 (x : Num) : Num × FpFlags :=
  match x with
  | .inf n => (if n then .fin false 0 0 else .inf false, 0)
  | .fin n m e => if m = 0 then (.fin false 1 0, 0) else (exp2Num n m e, 0)
  | x => (x, 0)

/-- FLOG2 (R40). -/
def fnLog2 (x : Num) : Num × FpFlags :=
  match x with
  | .inf n => if n then invalidNum else (.inf false, 0)
  | .fin n m e => if m = 0 then (.inf true, flagDZ) else if n then invalidNum else (log2Num m e, 0)
  | x => (x, 0)

/-- FSIN (R40). -/
def fnSin (x : Num) : Num × FpFlags :=
  match x with
  | .inf _ => invalidNum
  | .fin n m e => (sinNum n m e, 0)
  | x => (x, 0)

/-- FCOS (R40). -/
def fnCos (x : Num) : Num × FpFlags :=
  match x with
  | .inf _ => invalidNum
  | .fin n m e => (cosNum n m e, 0)
  | x => (x, 0)

/-- FTANH (R40). -/
def fnTanh (x : Num) : Num × FpFlags :=
  match x with
  | .inf n => (.fin n 1 0, 0)
  | .fin n m e => if m = 0 then (.fin n 0 0, 0) else (tanhNum n m e, 0)
  | x => (x, 0)

/-- An encoding flushed under FTZ (R29). -/
def flushEnc (f : Fmt) (ftz : Bool) (x : Nat) : Nat :=
  if ftz && (f.value x).subnormal f then f.signed (f.value x).neg 0 else x

/-- Minimum and maximum of two encodings (R34): -0 below +0, the other operand beside one NaN, returned unchanged. -/
def minMax (f : Fmt) (ftz isMax : Bool) (a b : Nat) : Nat × FpFlags :=
  let x := f.value (flushEnc f ftz a)
  let y := f.value (flushEnc f ftz b)
  let less := x.lt y || (x.isZero && y.isZero && x.neg && !y.neg)
  let r :=
    if x.isNan && y.isNan then f.nanEnc
    else if x.isNan then flushEnc f ftz b
    else if y.isNan then flushEnc f ftz a
    else if less != isMax then flushEnc f ftz a else flushEnc f ftz b
  (r, sigFlag [f.value a, f.value b])

/-- A condition of R120 on two values. -/
def fcond (code : Nat) (x y : Num) : Bool :=
  let nan := x.isNan || y.isNan
  match code with
  | 0 => !nan && x.eqv y
  | 1 => nan || !x.eqv y
  | 2 => !nan && x.lt y
  | 3 => !nan && !y.lt x
  | 4 => !nan && y.lt x
  | 5 => !nan && !x.lt y
  | 6 => !nan
  | _ => nan

/-- A comparison of two encodings (R120). -/
def fcompare (f : Fmt) (ftz : Bool) (code a b : Nat) : Nat × FpFlags :=
  (if fcond code ((f.value a).flush f ftz) ((f.value b).flush f ftz) then 1 else 0, sigFlag [f.value a, f.value b])

/-- FRND and DRND (R121). -/
def frnd (f : Fmt) (mode : Nat) (ftz : Bool) (a : Nat) : Nat × FpFlags :=
  let x := (f.value a).flush f ftz
  (if x.isNan then f.nanEnc else (roundTo f (x.integral mode).1 mode false false).1, sigFlag [f.value a])

/-- The class mask (R122). -/
def fclass (f : Fmt) (a : Nat) : Word :=
  let x := f.value a
  let bit : Nat := match x with
    | .nan s => if s then 8 else 9
    | .inf n => if n then 0 else 7
    | .fin n m _ => if m = 0 then (if n then 3 else 4)
                    else if x.subnormal f then (if n then 2 else 5) else (if n then 1 else 6)
  1#32 <<< bit

/-- A row on whole registers of a format. -/
def fpExec (f : Form) (e : Enc) (t : Fmt) (srcs : List FpSrc) (row : Nat → List Num → Num × FpFlags) (s : State) :
    Host.Outcome State Fault Refusal :=
  runIsa f e (fun c s => c.direct s (c.fpRow t c.rnd srcs (row c.rnd))) s

/-- A function row: always under rne (R39). -/
def fnExec (f : Form) (e : Enc) (t : Fmt) (g : Num → Num × FpFlags) (s : State) : Host.Outcome State Fault Refusal :=
  runIsa f e (fun c s => c.direct s (c.fpRow t 0 [.a] (rowFn g))) s

/-- A packed row. -/
def hExec (f : Form) (e : Enc) (srcs : List FpSrc) (row : Nat → List Num → Num × FpFlags) (s : State) :
    Host.Outcome State Fault Refusal :=
  runIsa f e (fun c s => c.direct s (c.fpPacked srcs (row c.rnd))) s

/-- A row that gives an encoding from two encodings, of a format in registers of its own. -/
def encExec (f : Form) (e : Enc) (t : Fmt) (g : Issue → Nat → Nat → Nat × FpFlags) (words : Nat → List Word) (s : State) :
    Host.Outcome State Fault Refusal :=
  runIsa f e (fun c s => c.direct s fun i =>
    let r := g c (c.fpElem .a i 0 t false) (c.fpElem .b i 0 t false)
    { words := words r.1, flags := r.2 }) s

/-- A row that gives an encoding per half from two packed operands. -/
def encPacked (f : Form) (e : Enc) (g : Issue → Fmt → Nat → Nat → Nat × FpFlags) (s : State) : Host.Outcome State Fault Refusal :=
  runIsa f e (fun c s => c.direct s fun i =>
    let t := fmtOf (e.fb 0 4)
    let one (k : Nat) := g c t (c.fpElem .a i k t true) (c.fpElem .b i k t true)
    pack2 (one 0) (one 1)) s

/-- FADD (R119). -/
def execFadd (e : Enc) (s : State) : Host.Outcome State Fault Refusal := fpExec formFadd e .f32 [.a, .b] rowAdd s
/-- FMUL (R119). -/
def execFmul (e : Enc) (s : State) : Host.Outcome State Fault Refusal := fpExec formFmul e .f32 [.a, .b] (fun _ => rowMul) s
/-- FFMA (R119). -/
def execFfma (e : Enc) (s : State) : Host.Outcome State Fault Refusal := fpExec formFfma e .f32 [.a, .b, .c] rowFma s
/-- FMIN (R34). -/
def execFmin (e : Enc) (s : State) : Host.Outcome State Fault Refusal :=
  encExec formFmin e .f32 (fun c => minMax .f32 c.ftz false) (fpWords .f32) s
/-- FMAX (R34). -/
def execFmax (e : Enc) (s : State) : Host.Outcome State Fault Refusal :=
  encExec formFmax e .f32 (fun c => minMax .f32 c.ftz true) (fpWords .f32) s
/-- FCMP (R120). -/
def execFcmp (e : Enc) (s : State) : Host.Outcome State Fault Refusal :=
  encExec formFcmp e .f32 (fun c => fcompare .f32 c.ftz (e.fb 12 3)) (fpWords .f32) s
/-- FRND (R121). -/
def execFrnd (e : Enc) (s : State) : Host.Outcome State Fault Refusal :=
  encExec formFrnd e .f32 (fun c a _ => frnd .f32 c.rnd c.ftz a) (fpWords .f32) s
/-- FCLASS (R122). -/
def execFclass (e : Enc) (s : State) : Host.Outcome State Fault Refusal :=
  runIsa formFclass e (fun c s => c.direct s fun i => out1 (fclass .f32 (c.rdFp e.a i .f32 false))) s
/-- FRCP (R39, R40). -/
def execFrcp (e : Enc) (s : State) : Host.Outcome State Fault Refusal := fnExec formFrcp e .f32 fnRcp s
/-- FRSQ (R39, R40). -/
def execFrsq (e : Enc) (s : State) : Host.Outcome State Fault Refusal := fnExec formFrsq e .f32 fnRsq s
/-- FSQRT (R39, R40). -/
def execFsqrt (e : Enc) (s : State) : Host.Outcome State Fault Refusal := fnExec formFsqrt e .f32 fnSqrt s
/-- FEXP2 (R39, R40). -/
def execFexp2 (e : Enc) (s : State) : Host.Outcome State Fault Refusal := fnExec formFexp2 e .f32 fnExp2 s
/-- FLOG2 (R39, R40). -/
def execFlog2 (e : Enc) (s : State) : Host.Outcome State Fault Refusal := fnExec formFlog2 e .f32 fnLog2 s
/-- FSIN (R39, R40). -/
def execFsin (e : Enc) (s : State) : Host.Outcome State Fault Refusal := fnExec formFsin e .f32 fnSin s
/-- FCOS (R39, R40). -/
def execFcos (e : Enc) (s : State) : Host.Outcome State Fault Refusal := fnExec formFcos e .f32 fnCos s
/-- FTANH (R39, R40). -/
def execFtanh (e : Enc) (s : State) : Host.Outcome State Fault Refusal := fnExec formFtanh e .f32 fnTanh s
/-- HADD2 (R119). -/
def execHadd2 (e : Enc) (s : State) : Host.Outcome State Fault Refusal := hExec formHadd2 e [.a, .b] rowAdd s
/-- HMUL2 (R119). -/
def execHmul2 (e : Enc) (s : State) : Host.Outcome State Fault Refusal := hExec formHmul2 e [.a, .b] (fun _ => rowMul) s
/-- HFMA2 (R119). -/
def execHfma2 (e : Enc) (s : State) : Host.Outcome State Fault Refusal := hExec formHfma2 e [.a, .b, .c] rowFma s
/-- HMIN2 (R34). -/
def execHmin2 (e : Enc) (s : State) : Host.Outcome State Fault Refusal :=
  encPacked formHmin2 e (fun c t => minMax t c.ftz false) s
/-- HMAX2 (R34). -/
def execHmax2 (e : Enc) (s : State) : Host.Outcome State Fault Refusal :=
  encPacked formHmax2 e (fun c t => minMax t c.ftz true) s
/-- HCMP2 (R120). -/
def execHcmp2 (e : Enc) (s : State) : Host.Outcome State Fault Refusal :=
  encPacked formHcmp2 e (fun c t => fcompare t c.ftz (e.fb 12 3)) s
/-- FDOT2 (R119): packed a and b, f32 c, one rounding into f32. -/
def execFdot2 (e : Enc) (s : State) : Host.Outcome State Fault Refusal :=
  runIsa formFdot2 e (fun c s => c.direct s fun i =>
    let t := fmtOf (e.fb 0 4)
    let r := fpCompute .f32 c.rnd c.ftz
      [(t, c.fpElem .a i 0 t true), (t, c.fpElem .b i 0 t true), (t, c.fpElem .a i 1 t true), (t, c.fpElem .b i 1 t true),
       (.f32, c.fpElem .c i 0 .f32 false)] (rowDot c.rnd)
    { words := fpWords .f32 r.1, flags := r.2 }) s
/-- DADD (R119). -/
def execDadd (e : Enc) (s : State) : Host.Outcome State Fault Refusal := fpExec formDadd e .f64 [.a, .b] rowAdd s
/-- DMUL (R119). -/
def execDmul (e : Enc) (s : State) : Host.Outcome State Fault Refusal := fpExec formDmul e .f64 [.a, .b] (fun _ => rowMul) s
/-- DFMA (R119). -/
def execDfma (e : Enc) (s : State) : Host.Outcome State Fault Refusal := fpExec formDfma e .f64 [.a, .b, .c] rowFma s
/-- DMIN (R34). -/
def execDmin (e : Enc) (s : State) : Host.Outcome State Fault Refusal :=
  encExec formDmin e .f64 (fun c => minMax .f64 c.ftz false) (fpWords .f64) s
/-- DMAX (R34). -/
def execDmax (e : Enc) (s : State) : Host.Outcome State Fault Refusal :=
  encExec formDmax e .f64 (fun c => minMax .f64 c.ftz true) (fpWords .f64) s
/-- DCMP (R120): one 32-bit word. -/
def execDcmp (e : Enc) (s : State) : Host.Outcome State Fault Refusal :=
  encExec formDcmp e .f64 (fun c => fcompare .f64 c.ftz (e.fb 12 3)) (fpWords .f32) s
/-- DRCP (R39, R40). -/
def execDrcp (e : Enc) (s : State) : Host.Outcome State Fault Refusal := fnExec formDrcp e .f64 fnRcp s
/-- DRSQ (R39, R40). -/
def execDrsq (e : Enc) (s : State) : Host.Outcome State Fault Refusal := fnExec formDrsq e .f64 fnRsq s
/-- DCLASS (R122). -/
def execDclass (e : Enc) (s : State) : Host.Outcome State Fault Refusal :=
  runIsa formDclass e (fun c s => c.direct s fun i => out1 (fclass .f64 (c.rdFp e.a i .f64 false))) s
/-- DRND (R121). -/
def execDrnd (e : Enc) (s : State) : Host.Outcome State Fault Refusal :=
  encExec formDrnd e .f64 (fun c a _ => frnd .f64 c.rnd c.ftz a) (fpWords .f64) s

end Sys2Proof.Machine
end

