-- ==== Sys2Proof/Machine/Pending.lean ====
section
/-!
DEFINITION. Counted operations and interlocked results: their issue, their destinations, the in-flight counters and the order in
which they fall (03 R94, R95, 08 R179, R182, R183), the granule owner bits (08 R180), and stopping a warp (18 R396).
-/
namespace Sys2Proof.Machine

/-- A value from words, low first. -/
def natOfWords (xs : List Word) : Nat := xs.foldr (fun x n => x.toNat + 2 ^ 32 * n) 0

/-- n words of a value, low first. -/
def wordsOf (n x : Nat) : List Word := (List.range n).map fun k => BitVec.ofNat 32 (x >>> (32 * k))

/-- A source read under a type code and a count of names (02 R61, R70). -/
def Issue.rdType (c : Issue) (spec : BitVec 9) (lane t n : Nat) : Nat :=
  if 4 ≤ t ∧ t ≤ 7 then c.rdFp spec lane (fmtOf t) false else natOfWords (c.rdWords spec lane n)

/-- A value loaded from memory, as the words of its register (01 R23, 08 R186, 09 R210): .b128 is size 16. -/
def loadWords (size ty v : Nat) : List Word :=
  if size = 16 then wordsOf 4 v
  else if size = 8 then wordsOf 2 v
  else if (ty = 11 ∨ ty = 13) ∧ 2 ^ (8 * size - 1) ≤ v then [BitVec.ofInt 32 ((v : Int) - (2 ^ (8 * size) : Nat))]
  else [BitVec.ofNat 32 v]

/-- The destination words of a result of n words in some lanes. -/
def Issue.dsts (c : Issue) (spec : BitVec 9) (lanes : List Nat) (n : Nat) : List DstWord :=
  lanes.flatMap fun i => (List.range n).filterMap fun j => (c.reg spec.toNat j).map fun r => { lane := i, word := j, reg := r }

/-- A counter's value: operations issued on its path and not completed in order (08 R183). -/
def Warp.counter (w : Warp) (p : Path) : Nat := (w.pend.filter fun q => q.path = some p).length

/-- An uncompleted operation of the warp. -/
def Warp.op? (w : Warp) (id : Nat) : Option PendOp := w.pend.find? fun p => p.id = id && !p.done

/-- Completed operations leave the counts while no older one of their path is uncompleted (08 R183). -/
def dropDone (ps : List PendOp) (blocked : List Path) : List PendOp :=
  match ps with
  | [] => []
  | p :: t =>
    match p.path with
    | none => if p.done then dropDone t blocked else p :: dropDone t blocked
    | some q =>
      if p.done then (if blocked.contains q then p :: dropDone t blocked else dropDone t blocked)
      else p :: dropDone t (q :: blocked)

/-- An operation has completed. -/
def Warp.retire (w : Warp) (id : Nat) : Warp :=
  { w with pend := dropDone (w.pend.map fun p => if p.id = id then { p with done := true, dsts := [], granules := [] } else p) [] }

/-- An uncompleted operation changed. -/
def Warp.modOp (w : Warp) (id : Nat) (f : PendOp → PendOp) : Warp :=
  { w with pend := w.pend.map fun p => if p.id = id then f p else p }

/-- Results of an operation that was issued before a trap, put into the operand file that the trap saved (03 R84, R96): they are no
longer due, nor are those of older operations for the same words (R95). -/
def Saved.due (x : Saved) (id : Nat) (vals : List (Nat × List Word × Nat)) : Saved :=
  x.odue.foldl (fun x d =>
    match d.2.reg, (if d.1 = id then vals.find? (fun v => v.1 = d.2.lane) else none) with
    | .o n, some v =>
      { x with ofile := Store.set x.ofile (laneKey n d.2.lane) (v.2.1.getD d.2.word 0),
               omarks := if v.2.2 = 0 then Tab.erase x.omarks (laneKey n d.2.lane) else Tab.set x.omarks (laneKey n d.2.lane) v.2.2,
               odue := x.odue.filter fun y => !(y.1 ≤ id && y.2.names (.o n) d.2.lane) }
    | _, _ => x) x

/-- A handler's saved states changed. -/
def Handler.mapSaved (h : Handler) (f : Saved → Saved) : Handler :=
  { h with user := { h.user with saved := h.user.saved.map f }, sup := { h.sup with saved := h.sup.saved.map f } }

/-- Every saved state of a warp changed: those of its splits and of its stack. -/
def Warp.mapSaved (w : Warp) (f : Saved → Saved) : Warp :=
  { w with
    splits := w.splits.map fun p => let h := p.2.handler.mapSaved f; (p.1, { p.2 with user := h.user, sup := h.sup })
    stack := w.stack.map fun e => match e with
      | .path pc q m j g h => .path pc q m j g (h.mapSaved f)
      | .join j ex ar g h lp => .join j ex ar g (h.mapSaved f) lp }

/-- Results of an operation written where they are still due: lane, words, poison mark (0 none). A result of an older operation
no longer writes the word (03 R95); one issued before a trap reaches the operand file that the trap saved (R96). -/
def Warp.applyResult (w : Warp) (p : PendOp) (vals : List (Nat × List Word × Nat)) : Warp :=
  let w := w.mapSaved fun x => x.due p.id vals
  p.dsts.foldl (fun w d =>
    match vals.find? (fun v => v.1 = d.lane) with
    | some v =>
      let w := (w.supersede p.id d.reg d.lane).setReg d.reg d.lane (v.2.1.getD d.word 0)
      if v.2.2 = 0 then w else w.setPoison d.reg d.lane v.2.2
    | none => w) w

/-- Interlocked scratchpad results that satisfy a condition are in their registers (03 R94, 08 R179). -/
def Warp.interlock (w : Warp) (need : PendOp → Bool) : Warp :=
  w.pend.foldl (fun w p =>
    match p.body, p.path with
    | .words vals, none =>
      if p.done || !need p then w else ((w.applyResult p vals).retire p.id)
    | _, _ => w) w

/-- An instruction that reads some register words waits for the operation: it is the youngest write of one of them that is still
pending (R94): no later operation of its lanes' split is still to write the register, and no write at issue is within its latency, which
is time (log entry 102). -/
def Warp.feeds (w : Warp) (free : Nat) (p : PendOp) (rs : List RegName) (lanes : Word) : Bool :=
  p.dsts.any fun d =>
    rs.contains d.reg && (match d.reg with | .g _ => true | _ => lanes.getLsbD d.lane) && !(d.passed && Config.writeLasts free p.id) &&
      !w.pend.any fun q => p.id < q.id && !q.done && (q.mask &&& p.mask) ≠ 0 && q.dsts.any (·.reg = d.reg)

/-- A fresh operation number. -/
def State.freshId (s : State) : Nat := s.nextId

/-- An operation issued: counted from now on. -/
def Issue.enqueue (c : Issue) (s : State) (path : Option Path) (dsts : List DstWord) (body : OpBody)
    (granules : List (Nat × Nat) := []) (toks : List Nat := []) : State :=
  let p : PendOp := { id := s.nextId, path, mask := c.sp.mask, done := false, dsts, granules, toks, held := none,
                      user := c.sp.level < 2, xfails := [], body }
  (c.warpDo s fun w => { w with pend := w.pend ++ [p] }).bump

/-- The counter of a path stands at 63 (08 R183). -/
def Issue.full (c : Issue) (p : Path) : Bool := 63 ≤ c.warp.counter p

/-- The bytes of a datum at an address. -/
def Issue.dataBytes (c : Issue) (spec : BitVec 9) (i a : Nat) : List (Nat × Byte) :=
  cellsOf a (memBytes c.e) (if c.e.fb 4 1 = 1 then natOfWords (c.rdWords spec i 4) else c.rdType spec i (c.e.fb 0 4) (memNames c.e))

/-! ### Workgroups and granules -/

/-- A workgroup. -/
def State.wg? (s : State) (n : Nat) : Option Workgroup := Tab.get? s.wgs n

/-- The granules that n bytes from an offset touch. -/
def granulesOf (off n : Nat) : List Nat :=
  if n = 0 then [] else (List.range ((off + n - 1) / 2048 - off / 2048 + 1)).map (· + off / 2048)

/-- A granule of the range is engine-owned. -/
def Workgroup.owned (x : Workgroup) (off n : Nat) : Bool := (granulesOf off n).any fun g => x.engine.contains g

/-- An owner bit flips at a time: its own core has it, the other cores of the cluster have it within 4 ck, 6 ns (08 R180, R181). -/
def Workgroup.flip (x : Workgroup) (now g : Nat) (engine : Bool) : Workgroup :=
  { x with engine := if engine then setAdd x.engine g else setDel x.engine [g],
           flips := (x.flips.filter fun f => now < f.time + 6) ++ [{ granule := g, engine, time := now, seen := [x.core] }] }

/-- Granules flip to engine (08 R180). -/
def State.flipEngine (s : State) (gs : List (Nat × Nat)) : State :=
  gs.foldl (fun s g => s.modWg g.1 fun x => x.flip s.timer g.2 true) s

/-- A granule that an uncompleted operation of some warp claims, of those issued before a number. -/
def State.claimed (s : State) (before : Nat) (g : Nat × Nat) : Bool :=
  s.warps.any fun w => w.2.pend.any fun p => p.id < before && !p.done && p.granules.contains g

/-- A granule that an engine operation issued before a number claims: an operation of a warp, or one in a matrix engine's queue. -/
def State.claimedBy (s : State) (before : Nat) (g : Nat × Nat) : Bool :=
  s.claimed before g || s.engines.any fun e => e.2.queue.any fun o =>
    o.id < before && o.granules.contains g.2 && (match s.warp? o.warp with | some x => x.wg = g.1 | none => false)

/-- The owner bit of a granule as it stands. -/
def State.engineOwned (s : State) (wg g : Nat) : Bool := match s.wg? wg with | some x => x.engine.contains g | none => false

/-- Granules flip back to lanes, but for those that a copy of another workgroup claims by now (R181). -/
def State.flipLanes (s : State) (gs : List (Nat × Nat)) : State :=
  (gs.filter fun g => !s.claimed s.nextId g).foldl (fun s g => s.modWg g.1 fun x => x.flip s.timer g.2 false) s

/-- A core has by now seen the flips of the last 4 ck, or not: a free value (08 R181; assumption 52). -/
def State.seeFlips (s : State) (core : Nat) : State :=
  let see (f : Flip) : Flip := if Config.flipSeen s.free then { f with seen := setAdd f.seen core } else f
  { s with wgs := s.wgs.map fun g => (g.1, { g.2 with flips := g.2.flips.map see }) }

/-- A granule of the range is engine-owned by a core's copy of the owner bits (08 R181). -/
def Workgroup.ownedFor (x : Workgroup) (now core off n : Nat) : Bool :=
  (granulesOf off n).any fun g =>
    match x.flips.find? fun f => f.granule = g && now < f.time + 6 && !f.seen.contains core with
    | some f => !f.engine
    | none => x.engine.contains g

/-- An operation completes: its granules flip back and it leaves the count in order. -/
def State.completeOp (s : State) (w : Nat) (p : PendOp) : State :=
  (s.modWarp w fun x => x.retire p.id).flipLanes p.granules

/-- A warp whose splits may issue: neither halted nor stopped for a save. -/
def Warp.runs (w : Warp) : Bool := !w.halted && !w.stopping

/-- The result that a wait brings is written where it is still due, and the wait's place among the operations goes (03 R95). -/
def State.fillSlot (s : State) (w id : Nat) (vals : List (Nat × List Word × Nat)) : State :=
  s.modWarp w fun x => match x.op? id with
    | some p => (x.applyResult p vals).retire id
    | none => x

/-- A wait ends without a result: its place among the operations goes. -/
def State.dropSlot (s : State) (w id : Nat) : State := s.modWarp w fun x => x.retire id

/-- The split of entry k, which waited at an instruction, has completed it: it leaves and is ready; its age is that of the
instruction's issue (03 R90). -/
def State.resumeSplit (s : State) (w k : Nat) : State :=
  match (s.warp? w).bind fun x => (x.split? k).map fun sp => (x, sp) with
  | none => s
  | some (x, sp) =>
    let succ := s.succAt x.core x.codeCtx
    ((s.modWarp w fun x => (x.modSplit k fun q => { q with wait := .ready }).leaveAt k sp.pc succ)).settleWarp w succ

/-- A waiting split is ready to issue its instruction again. -/
def State.retrySplit (s : State) (w k : Nat) : State :=
  s.modWarp w fun x => x.modSplit k fun q => { q with wait := .ready }

/-- The instruction that the issuing split waits at. -/
def Issue.waitAt (c : Issue) : WaitAt := { em := c.em, uni := c.e.uni, dest := destWord c }

/-- The instruction that a split waits at, as far as its wait keeps it: else one without a destination, at which every live lane stands. -/
def Split.waitAt (sp : Split) : WaitAt :=
  match sp.wait with
  | .push _ _ _ a => a
  | .pop _ _ _ a => a
  | .monitor _ _ _ _ _ _ _ a => a
  | .ring _ a => a
  | .ordered lanes => { em := lanes, uni := false, dest := 0x1FF }
  | _ => { em := sp.live, uni := false, dest := 0x1FF }

/-- A trap taken by a split where it waits. -/
def State.waitTrap (s : State) (w k : Nat) (t : Trap) (at_ : WaitAt) : State :=
  match (s.warp? w).bind fun x => (x.split? k).map fun sp => (x, sp) with
  | none => s
  | some (x, sp) => s.takeTrap w k t at_.em at_.uni sp.pc (s.succAt x.core x.codeCtx sp.pc) at_.dest false

/-- Bytes written into a workgroup's scratchpad; what they rewrite is good again (26 R500). -/
def Workgroup.put (x : Workgroup) (bs : List (Nat × Byte)) : Workgroup :=
  { x with sp := x.sp.writeAll bs, bad := x.bad.filter fun a => !bs.any fun b => b.1 = a }

/-- Bytes of a scratchpad go bad. -/
def Workgroup.spoil (x : Workgroup) (off n : Nat) : Workgroup :=
  { x with bad := ((List.range n).map fun k => off + k).foldl setAdd x.bad }

/-- The poison of n bytes read from a scratchpad (26 R500). -/
def Workgroup.mark (x : Workgroup) (off n : Nat) : Nat := if x.bad.any fun a => off ≤ a && a < off + n then 1 else 0

/-- A held fault as a trap of a split: the address in every lane (08 R193, R198, 13 R310). -/
def HeldFault.trap (h : HeldFault) (sp : Split) : Trap :=
  { cause := h.cause, sub := h.sub, lanes := some sp.live, exact := true, va := (lanesOf sp.live).map fun i => (i, h.addr) }

/-- The faults of a warp's operations that are held and not yet delivered, on some paths, oldest first. -/
def Warp.heldOps (w : Warp) (paths : List Path) : List (PendOp × HeldFault) :=
  w.pend.filterMap fun p =>
    match p.path, p.held with
    | some q, some h => if paths.contains q && !p.done && !h.given then some (p, h) else none
    | _, _ => none

/-- A fault has been delivered to the handler of the split of entry k. -/
def State.giveHeld (s : State) (w k id : Nat) : State :=
  s.modWarp w fun x => (x.modOp id fun p => { p with held := p.held.map fun h => { h with given := true } }).modSplit k fun sp =>
    { sp with sup := { sp.sup with heldOp := some id } }

/-- After the SRET of a handler that an operation's held fault entered: a push counts as complete, any other operation goes on (R193,
R198, 13 R310). -/
def State.resumeHeld (s : State) (w : Nat) (op : Option Nat) : State :=
  match (s.warp? w).bind fun x => op.bind x.op? with
  | none => s
  | some p =>
    if p.held.isNone then s
    else
      match p.body with
      | .push .. => s.completeOp w p
      | _ => s.modWarp w fun y => y.modOp p.id fun q => { q with held := none, xfails := [] }

/-- The workgroups of a warp's gang in order of their index. -/
def State.gangWgs (s : State) (g : Nat) : List Nat := match Tab.get? s.gangs g with | some x => x.wgs | none => []

/-- The workgroup of an index in a warp's gang. -/
def State.peerWg (s : State) (w : Warp) (k : Nat) : Option Nat := (s.gangWgs w.gang)[k]?

/-- A fault of scratchpad offsets: sub-cause 0x11 for protection and misalignment. -/
def scratchTrap (cause : Nat) (bad : List (Nat × Nat)) (write : Bool) : Trap :=
  { cause, sub := if cause = 8 then 0 else 0x11, lanes := some (maskOf (bad.map (·.1))),
    va := bad.map fun p => (p.1, BitVec.ofNat 64 p.2), write }

/-- The first check of 08 R187 that some lanes' offsets fail. -/
def Workgroup.check (x : Workgroup) (offs : List (Nat × Nat)) (size : Nat) (write : Bool) : Option Trap :=
  let prot := offs.filter fun p => x.alloc < p.2 + size
  let mis := offs.filter fun p => p.2 % size ≠ 0
  let own := offs.filter fun p => x.owned p.2 size
  if !prot.isEmpty then some (scratchTrap 0x06 prot write)
  else if !mis.isEmpty then some (scratchTrap 0x09 mis write)
  else if !own.isEmpty then some (scratchTrap 0x08 own write)
  else none

/-! ### Stopping a warp (18 R396) -/

/-- A split leaves the pushers. -/
def QueueEntry.leavePush (x : QueueEntry) (w k : Nat) : QueueEntry := { x with pushers := x.pushers.filter fun p => p ≠ (w, k, false) }

/-- A split leaves the poppers. -/
def QueueEntry.leavePop (x : QueueEntry) (w k : Nat) : QueueEntry := { x with poppers := x.poppers.filter fun p => p ≠ (w, k) }

/-- A local push no longer stands in its release. -/
def QueueEntry.endRelease (x : QueueEntry) (w k : Nat) : QueueEntry := { x with releasing := x.releasing.filter fun p => p ≠ (w, k) }

/-- A split waits on no queue of its workgroup any more. -/
def State.leaveQueues (s : State) (wg w k : Nat) : State :=
  s.modWg wg fun x => { x with queues := x.queues.map fun q => (q.1, ((q.2.leavePush w k).leavePop w k).endRelease w k) }

/-- A split that waits at an instruction not yet issued for good. -/
def Wait.withdrawn (x : Wait) : Bool :=
  match x with
  | .counter .. => true
  | .push .. => true
  | .pop .. => true
  | .matrix .. => true
  | .served .. => true
  | .monitor .. => true
  | .ordered .. => true
  | .ring .. => true
  | _ => false

/-- The blocking waits of a warp taken back as not issued (R396 step 3): queues forget its splits, and an EMIT waiting for space counts
no more. -/
def State.withdrawWaits (s : State) (w : Nat) : State :=
  match s.warp? w with
  | none => s
  | some x =>
    x.splits.foldl (fun s p =>
      if p.2.wait.withdrawn then
        let s : State := s.leaveQueues x.wg w p.1
        s.modWarp w fun y =>
          { y.modSplit p.1 (fun sp => { sp with wait := .ready }) with
            pend := match p.2.wait with
              | .ring op _ | .pop _ _ op _ | .monitor _ _ _ _ op _ _ _ => y.pend.filter fun q => q.id ≠ op
              | _ => y.pend }
      else s) s

/-- A warp stops issuing, its waits withdrawn. -/
def State.stopWarp (s : State) (w : Nat) : State := (s.modWarp w fun x => { x with stopping := true }).withdrawWaits w

/-- Lanes of the warp hold ordered sections. -/
def Warp.holdsSection (w : Warp) : Bool := w.frags.any fun f => f.2.holds

/-- A warp of a gang that is being saved stops once it holds no section any more (R396 step 2). -/
def State.stopVictim (s : State) (w : Nat) : State :=
  match s.warp? w with
  | some x => if (match Tab.get? s.gangs x.gang with | some g => g.victim && g.saved.isNone | none => false) && !x.stopping && !x.holdsSection then s.stopWarp w else s
  | none => s

end Sys2Proof.Machine
end

