-- ==== Sys2Proof/Machine/Translate.lean ====
section
/-!
DEFINITION. Translation of a warp's accesses: TLB look-up and replacement, the miss queue (19 R417, R418), translation bases
(09 R204 to R207), and the admission of an access in one piece with its checks (09 R208, R214, 20 R439 to R441, 21 R454, 22 R470,
R481, 26 R504).
-/
namespace Sys2Proof.Machine

/-! ### TLBs -/

/-- The least recently used entry of a list. -/
def lruEntry (l : List TlbEntry) : Option TlbEntry :=
  match l with
  | [] => none
  | e :: t => match lruEntry t with
    | some x => if x.used < e.used then some x else some e
    | none => some e

/-- An entry put into a TLB of a capacity: the entry of its page replaced, else the least recently used one evicted; the entries
that left. -/
def tlbInsert (l : List TlbEntry) (cap : Nat) (e : TlbEntry) : List TlbEntry × List TlbEntry :=
  let same (x : TlbEntry) : Bool := x.ctx = e.ctx && x.vpn = e.vpn && x.size = e.size
  let gone := l.filter same
  let kept := l.filter fun x => !same x
  if kept.length < cap then (kept ++ [e], gone)
  else match lruEntry kept with
    | some v => (kept.filter (fun x => x ≠ v) ++ [e], v :: gone)
    | none => (kept ++ [e], gone)

/-- The entries of a TLB that map an address used now. -/
def tlbTouch (l : List TlbEntry) (ctx va now : Nat) : List TlbEntry :=
  l.map fun e => if e.covers ctx va then { e with used := now } else e

/-- An entry put into a die's L2 TLB; one that leaves is harvested and translation bases bound from it are unbound (19 R426,
09 R205). -/
def State.fillL2 (s : State) (d : Nat) (e : TlbEntry) : State :=
  let r := tlbInsert (s.die d).l2 8192 e
  let s : State := s.modDie d fun x => { x with l2 := r.1 }
  r.2.foldl (fun s g => (s.harvest d g).unbindBases g fun core => dieOf core = d) s

/-- An entry put into a core's L1 data TLB with A and D bits of its own; one that leaves is harvested, and translation bases that no L2
entry serves are unbound (19 R417, R426, 09 R205). -/
def State.fillL1 (s : State) (core : Nat) (e : TlbEntry) : State :=
  let r := tlbInsert (s.core core).l1 128 { e with used := s.nextId, a := false, d := false }
  let s : State := s.modCore core fun x => { x with l1 := r.1 }
  r.2.foldl (fun s g =>
    let s : State := s.harvest (dieOf core) g
    if (s.die (dieOf core)).l2.any fun x => x.ctx = g.ctx && x.vpn = g.vpn && x.size = g.size then s
    else s.unbindBases g fun c => c = core) s

/-- An entry put into a core's instruction TLB. One that leaves has nothing to harvest: a fetch sets no bit of it (09 R209). -/
def State.fillItlb (s : State) (core : Nat) (e : TlbEntry) : State :=
  s.modCore core fun x => { x with itlb := (tlbInsert x.itlb 32 { e with used := s.nextId, a := false, d := false }).1 }

/-- A data translation of a core: its L1 TLB, else the L2 TLB of its die, whose entry then enters the L1 (09 R207). -/
def State.lookData (s : State) (core ctx va : Nat) : State × Option TlbEntry :=
  match tlbFind (s.core core).l1 ctx va with
  | some e => (s.modCore core fun x => { x with l1 := tlbTouch x.l1 ctx va s.nextId }, some e)
  | none =>
    match tlbFind (s.die (dieOf core)).l2 ctx va with
    | some e =>
      let s := s.modDie (dieOf core) fun x => { x with l2 := tlbTouch x.l2 ctx va s.nextId }
      (s.fillL1 core e, some e)
    | none => (s, none)

/-- A fetch translation of a core: its instruction TLB, else the L2 TLB of its die. -/
def State.lookFetch (s : State) (core ctx va : Nat) : State × Option TlbEntry :=
  match tlbFind (s.core core).itlb ctx va with
  | some e => (s.modCore core fun x => { x with itlb := tlbTouch x.itlb ctx va s.nextId }, some e)
  | none =>
    match tlbFind (s.die (dieOf core)).l2 ctx va with
    | some e =>
      let s := s.modDie (dieOf core) fun x => { x with l2 := tlbTouch x.l2 ctx va s.nextId }
      (s.fillItlb core e, some e)
    | none => (s, none)

/-- The access bit, and for a write the dirty bit, of the L2 entry that maps an address for a core, or where the die's L2 TLB has none, of
the core's L1 entry (09 R209, 19 R417). -/
def State.markAccess (s : State) (core ctx va : Nat) (write : Bool) : State :=
  let mark (l : List TlbEntry) : List TlbEntry := l.map fun e => if e.covers ctx va then { e with a := true, d := e.d || write } else e
  if (tlbFind (s.die (dieOf core)).l2 ctx va).isSome then s.modDie (dieOf core) fun x => { x with l2 := mark x.l2 }
  else s.modCore core fun x => { x with l1 := mark x.l1 }

/-! ### The miss queue -/

/-- A free index of a miss queue, which of them the spec does not say (assumption 107). -/
def freeMiss (m : Tab Miss) (pick : Nat) : Option Nat :=
  let is := (List.range 64).filter fun i => (Tab.get? m i).isNone
  is[pick % is.length]?

/-- A miss enters a die's queue, or merges with an entry of equal context, page and kind; a hint merges only with a hint and needs
eight free entries (R418). Nothing happens where the queue is full. -/
def State.requestMiss (s : State) (d ctx page : Nat) (fetch write hint user : Bool) (req : Option Requester) : State :=
  let q := (s.die d).miss
  let req := req.map fun r => { r with gang := ((s.warp? r.warp).map (·.gang)).getD 0 }
  match q.find? fun p => p.2.ctx = ctx && p.2.page = page && p.2.fetch = fetch && p.2.hint = hint with
  | some (i, m) =>
    let reqs := match req with | some r => if m.reqs.contains r then m.reqs else m.reqs ++ [r] | none => m.reqs
    s.modDie d fun x => { x with miss := Tab.set x.miss i { m with write := m.write || write, user := m.user || user, reqs } }
  | none =>
    match freeMiss q (Config.choice (400 + d) s.free) with
    | none => s
    | some i =>
      if hint && 56 < q.length then s
      else
        let m : Miss := { ctx, page, fetch, write, hint, user, claim := none, stale := false, order := s.nextId,
                          reqs := match req with | some r => [r] | none => [] }
        (s.modDie d fun x => { x with miss := Tab.set x.miss i m }).bump

/-- The miss-queue entries that satisfy p are stale: what a walk under way finds is not installed (R432). -/
def State.staleMisses (s : State) (p : Miss → Bool) : State :=
  let mark (m : Nat × Miss) : Nat × Miss := if p m.2 then (m.1, { m.2 with stale := true }) else m
  { s with dies := s.dies.map fun d => (d.1, { d.2 with miss := d.2.miss.map mark }) }

/-- Accesses of a context that were admitted before an operation number are all performed (19 R433; those of any page are waited for,
assumption 30), fills of instruction lines among them (R418), and so are the harvests. -/
def State.accessesDone (s : State) (ctx before : Nat) : Bool :=
  !s.harvesting &&
  s.cores.all (fun x => x.2.fills.all fun f => f.hint || before ≤ f.before || (match aliasOf f.line with | some a => a.1 ≠ ctx | none => true)) &&
  s.warps.all fun w => w.2.ctx ≠ ctx || w.2.pend.all fun p =>
    p.done || before ≤ p.id || (match p.body with
      | .load .. => false
      | .store .. => false
      | .atomic .. => false
      | .ticket .. => false
      | .advance .. => false
      | _ => true)

/-- Demand fetches of a context that still wait for a fill slot forget the translation that they had: they fetch again. -/
def State.dropFetches (s : State) (ctx : Nat) : State :=
  { s with cores := s.cores.map fun x => (x.1, { x.2 with
      fillWait := x.2.fillWait.filter fun k => match aliasOf k with | some a => a.1 ≠ ctx | none => true }) }

/-- Every translation of a context removed, as TLBINV.ctx does (19 R416). -/
def State.removeCtx (s : State) (ctx : Nat) : State :=
  ((s.removeTlb fun e => e.ctx = ctx).staleMisses fun m => m.ctx = ctx).dropFetches ctx

/-- After a removal of translations the split stalls until the harvests are done and what was admitted under them is performed (19 R433). -/
def Issue.afterRemoval (c : Issue) (s : State) (before : Nat) : State :=
  if s.accessesDone c.warp.ctx before then c.leave s else c.stall s (.tlb before)

/-! ### Translation bases -/

/-- The bytes from an address to the end of the page that maps it. -/
def TlbEntry.limit (e : TlbEntry) (va : Nat) : Nat := e.vpn * 4096 + sizeBytes e.size - va

/-- A base bound to an address from an entry (R204, R206). -/
def TBase.bind (va : DWord) (e : TlbEntry) (home : Nat) : TBase :=
  { bound := true, vbase := va, pbase := e.pa va.toNat, limit := e.limit va.toNat,
    perm := (if pteBit e.leaf 2 then 1 else 0) + (if pteBit e.leaf 4 then 2 else 0) + (if pteBit e.leaf 3 then 4 else 0),
    cls := if pteBit e.leaf 9 then 1 else 0, reach := if pteBit e.leaf 10 then 1 else 0, home,
    creg := if pteBit e.leaf 56 then (e.leaf.toNat >>> 52) % 16 + 1 else 0, token := pteBit e.leaf 11,
    page := (e.vpn * 4096, sizeBytes e.size) }

/-- An unbound base of a virtual address. -/
def TBase.unbound (va : DWord) : TBase :=
  { bound := false, vbase := va, pbase := 0, limit := 0, perm := 0, cls := 0, reach := 0, home := 0, creg := 0, token := false, page := (0, 0) }

/-- A translation base of a warp; one never bound has VBASE 0 (R205). -/
def Warp.tbase (w : Warp) (n : Nat) : TBase := (Tab.get? w.tbs n).getD (.unbound 0)

/-- A base's attributes in the layout of a leaf. -/
def TBase.leaf (t : TBase) : BitVec 64 :=
  BitVec.ofNat 64 (1 + 4 * (t.perm % 2) + 16 * (t.perm / 2 % 2) + 8 * (t.perm / 4 % 2) + 512 * t.cls + 1024 * t.reach
    + (if t.token then 2048 else 0) + (if t.creg = 0 then 0 else 2 ^ 56 + (t.creg - 1) * 2 ^ 52))

/-- The word of the decoded view that an address of a CRV page names: its region must be defined, not being deleted, and hold the
whole page (R454). -/
def State.viewPa (s : State) (leaf : BitVec 64) (va : Nat) (page : Nat × Nat) : Option Nat :=
  match s.viewName leaf page.1, s.viewName leaf (page.1 + page.2 - 1) with
  | some _, some _ => s.viewName leaf va
  | _, _ => none

/-- The stack whose owner an access meets: of the raw range for a decoded view, else of the address. -/
def State.accessStack (s : State) (leaf : BitVec 64) (pa : Nat) : Option Nat :=
  if pteBit leaf 56 then
    (Tab.get? s.electrum ((leaf.toNat >>> 52) % 16)).bind fun r => match placeOf r.rpa with | .stack n => some n | _ => none
  else match placeOf pa with | .stack n => some n | _ => none

/-- HOME of R204. -/
def State.homeOf (s : State) (leaf : BitVec 64) (pa : Nat) : Nat :=
  match s.accessStack leaf pa with
  | some n => n
  | none => match placeOf pa with | .host => 8 | _ => 9

/-- TBBIND's look-up and binding of base n to an address (R206), which rebinding also uses (R205). -/
def State.bindBase (s : State) (w : Nat) (warp : Warp) (n : Nat) (va : DWord) : State :=
  let set (s : State) (t : TBase) : State := s.modWarp w fun x => { x with tbs := Tab.set x.tbs n t }
  if !canonical va then set s (.unbound va)
  else
    let r := s.lookData warp.core warp.ctx va.toNat
    match r.2 with
    | some e => set r.1 (.bind va e (s.homeOf e.leaf (e.pa va.toNat)))
    | none => set r.1 (.unbound va)

/-- A base as an access finds it: an unbound one first tries to rebind (R205). -/
def State.useBase (s : State) (w n : Nat) : State × TBase :=
  match s.warp? w with
  | none => (s, .unbound 0)
  | some warp =>
    if (warp.tbase n).bound then (s, warp.tbase n)
    else
      let s' := s.bindBase w warp n (warp.tbase n).vbase
      (s', match s'.warp? w with | some x => x.tbase n | none => .unbound 0)

/-! ### Admission -/

/-- What an access asks for. -/
structure Access where
  size : Nat
  /-- It needs write permission, and sets D. -/
  write : Bool
  /-- A store or a copy, which may not be narrower than 64 bits in an Electrum region (R193, R460). -/
  store : Bool := false
  /-- Refused in an Electrum region: atomics, dispensers, monitors (R252, R256, R259). -/
  noView : Bool := false
  /-- Refused on peer memory (R481). -/
  noPeer : Bool := false
  /-- A ticket dispenser, in stack memory alone (R256). -/
  dispenser : Bool := false
  /-- It only checks rows 1 to 3 of R214 (R262). -/
  rows3 : Bool := false

/-- A lane's request: virtual address, and leaf, physical address and page where a base answers directly (R207). -/
structure LaneReq where
  lane : Nat
  va : DWord
  direct : Option (BitVec 64 × Nat × Nat × Nat)

/-- The answer of admission. -/
inductive Admission where
  | trap (t : Trap)
  | stall (why : Stall)
  | ok (lanes : List LaneAddr) (toks : List Nat)

/-- A lane with its translation. -/
structure LaneTr where
  lane : Nat
  va : DWord
  leaf : BitVec 64
  pa : Nat
  /-- First address and size of its page. -/
  page : Nat × Nat

/-- The defined token region that holds a virtual address of a page with TOK set (20 R449); none for decoded views. -/
def State.tokenRegion (s : State) (leaf : BitVec 64) (va : Nat) : Option Nat :=
  if pteBit leaf 11 && !pteBit leaf 56 then
    (s.regions.find? fun r => r.2.base.toNat ≤ va && va < r.2.base.toNat + 2 ^ r.2.k).map (·.1)
  else none

/-- A fault of rows 3 to 6 that a translated lane meets: row, cause and sub-cause. DESIGN CHOICE (assumption 123): the spec places three checks
in no row. The dispenser's place (11 R256) stands after write and user permission and before host memory unavailable (22 R470), which
follows row 3; a dispenser in peer memory meets 22 R481's fault, in its place, and not R256's. -/
def State.laneFault (s : State) (die : Nat) (user : Bool) (k : Access) (x : LaneTr) : Option (Nat × Nat × Nat) :=
  let l := x.leaf
  let view := pteBit l 56
  let size := k.size
  let own : Option (Nat × Nat × Nat) :=
    match s.accessStack l x.pa with
    | some n =>
      let o := (s.home n).owner.owner
      if o ≠ 2 ∧ o ≠ die ∧ !pteBit l 10 then some (60, 0x07, 0x01)
      else if o = 2 then some (62, 0x07, 0x03)
      else if (s.home n).failed then some (63, 0x11, 0x05)
      else none
    | none =>
      match placeOf x.pa with
      | .grotto c => if !view ∧ dieOf c ≠ die then some (61, 0x07, 0x02) else none
      | _ => none
  if k.write && !pteBit l 2 then some (30, 0x06, 0x01)
  else if user && !pteBit l 4 then some (31, 0x06, 0x02)
  else if k.dispenser && !view && (s.peerOf x.pa).isNone && (match placeOf x.pa with | .stack _ => false | _ => true) then some (32, 0x06, 0x03)
  else if !view && !s.linkFull && placeOf x.pa = .host then some (40, 0x07, 0x04)
  else if k.rows3 then none
  else match own with
    | some f => some f
    | none =>
      if x.va.toNat % size ≠ 0 then some (70, 0x09, 0x01)
      else if k.store && view && size < 8 then some (71, 0x09, 0x02)
      else if view && (s.viewPa l x.va.toNat x.page).isNone then some (80, 0x12, 0x04)
      else if view && k.noView then some (81, 0x12, 0x01)
      else if k.noPeer && !view && (s.peerOf x.pa).isSome then some (82, 0x06, 0x06)
      else none

/-- The first fault in the order of rows, with every lane that meets it. DESIGN CHOICE (assumption 130): of lanes that meet one row with different
sub-causes, as of walks that failed differently, the spec does not say which is reported; it is the first of them, and SMASK has the lanes of its
sub-cause. -/
def firstFault (fs : List (Nat × DWord × Nat × Nat × Nat)) (write : Bool) : Option Trap :=
  match fs with
  | [] => none
  | f :: t =>
    let best := t.foldl (fun b x => if x.2.2.1 < b.2.2.1 then x else b) f
    let bad := fs.filter fun x => x.2.2 = best.2.2
    some { cause := best.2.2.2.1, sub := best.2.2.2.2, lanes := some (maskOf (bad.map (·.1))),
           va := bad.map fun x => (x.1, x.2.1), write }

/-- A context is recorded at the stacks its accesses were admitted to (26 R504). -/
def State.noteAdmitted (s : State) (ctx : Nat) (ns : List Nat) : State :=
  ns.foldl (fun s n => s.modHome n fun h => { h with admitted := h.admitted ||| (1#32 <<< ctx) }) s

/-- The name of a translated lane of a context: of the word of its decoded view, else of its physical address, under its virtual line (10
R222). -/
def State.laneName (s : State) (ctx : Nat) (x : LaneTr) : Nat :=
  aliasName ctx x.va (if pteBit x.leaf 56 then (s.viewPa x.leaf x.va.toNat x.page).getD 0 else x.pa)

/-- THE ADMISSION OF AN ACCESS (R208, R214): lanes are translated, a miss of both TLBs enters the miss queue and stalls the split,
the first failing check is taken; an access to a stack in handover waits. -/
def State.admission (s : State) (c : Issue) (k : Access) (reqs : List LaneReq) : State × Admission :=
  let core := c.warp.core
  let ctx := c.warp.ctx
  let die := dieOf core
  let bad := (reqs.filter fun r => r.direct.isNone && !canonical r.va).map fun r => (r.lane, r.va, 10, 0x05, 0x02)
  let todo := reqs.filter fun r => r.direct.isSome || canonical r.va
  let p := todo.foldl (fun (p : State × List (LaneReq × Option LaneTr)) r =>
    match r.direct with
    | some (leaf, pa, page) => (p.1, p.2 ++ [(r, some { lane := r.lane, va := r.va, leaf, pa, page })])
    | none =>
      let q := p.1.lookData core ctx r.va.toNat
      (q.1, p.2 ++ [(r, q.2.map fun e => { lane := r.lane, va := r.va, leaf := e.leaf, pa := e.pa r.va.toNat,
                                                 page := (e.vpn * 4096, sizeBytes e.size) })])) (s, [])
  let s := p.1
  let untr := (p.2.filter fun x => x.2.isNone).map (·.1)
  let failed (r : LaneReq) : Option Nat :=
    (c.sp.xfails.find? fun f => !f.fetch && f.page = r.va.toNat / 4096).map (·.sub)
  let waiting := untr.filter fun r => (failed r).isNone
  if !waiting.isEmpty then
    (waiting.foldl (fun s r => s.requestMiss die ctx (r.va.toNat / 4096) false k.write false (c.sp.level < 2)
      (some { core, warp := c.w, entry := c.k })) s, .stall .xlat)
  else
    let trs := p.2.filterMap (·.2)
    let f2 := untr.map fun r => (r.lane, r.va, 20, 0x05, (failed r).getD 1)
    let f3 := trs.filterMap fun x => (s.laneFault die (c.sp.level < 2) k x).map fun f => (x.lane, x.va, f)
    let early := firstFault (bad ++ f2 ++ f3.filter fun f => f.2.2.1 < 60) k.write
    let homes := (trs.filterMap fun x => s.accessStack x.leaf x.pa).foldl setAdd []
    match early with
    | some t => (s, .trap t)
    | none =>
      if !k.rows3 && homes.any s.inHandover then (s, .stall .handover)
      else
        match firstFault f3 k.write with
        | some t => (s, .trap t)
        | none =>
          if s.wakesFor core homes then (s, .stall .unit)
          else
            let s := s.noteAdmitted ctx homes
            let s := trs.foldl (fun s x => s.markAccess core ctx x.va.toNat k.write) s
            let toks := if k.write then (trs.filterMap fun x => s.tokenRegion x.leaf x.va.toNat).foldl setAdd [] else []
            (s, .ok (trs.map fun x => { lane := x.lane, va := x.va, pa := s.laneName ctx x }) toks)

/-- The requests of lanes through a base (R207): off sign-extended, direct where it lies in the base's limit. -/
def baseReqs (t : TBase) (size : Nat) (offs : List (Nat × Int)) : List LaneReq :=
  offs.map fun p =>
    let va := BitVec.ofInt 64 ((t.vbase.toNat : Int) + p.2)
    { lane := p.1, va,
      direct := if t.bound ∧ (0 : Int) ≤ p.2 ∧ p.2 + (size : Int) ≤ (t.limit : Int) then some (t.leaf, t.pbase + p.2.toNat, t.page) else none }

/-- The requests of lanes with flat addresses. -/
def flatReqs (vas : List (Nat × DWord)) : List LaneReq := vas.map fun p => { lane := p.1, va := p.2, direct := none }

/-! ### The walker's physical accesses -/

/-- The check of a walker's physical address (19 R420): the fault 0x05/04 and unreachable host memory, the wait for a stack in handover (20
R441), its owner, the alignment, the wait for a unit to wake (24 R488). -/
def State.walkerCheck (s : State) (core : Nat) (load64 : Bool) (vas : List (Nat × DWord)) (size : Nat) (write : Bool) : Option Trap ⊕ Stall :=
  let bad (va : DWord) : Bool :=
    match placeOf va.toNat with
    | .nothing => true
    | .ats => !(load64 && va.toNat % 8 = 0)
    | _ => false
  let own (va : DWord) : Option (Nat × Nat × Nat) :=
    match placeOf va.toNat with
    | .stack n => if (s.home n).owner.owner = 2 then some (15, 0x07, 0x03) else if (s.home n).failed then some (16, 0x11, 0x05) else none
    | .host => if s.linkFull then none else some (14, 0x07, 0x04)
    | _ => none
  let fs := vas.filterMap fun p => if bad p.2 then some (p.1, p.2, 10, 0x05, 0x04) else (own p.2).map fun f => (p.1, p.2, f)
  let mis := vas.filterMap fun p => if p.2.toNat % size ≠ 0 then some (p.1, p.2, 20, 0x09, 0x01) else none
  let homes := vas.filterMap fun p => match placeOf p.2.toNat with | .stack n => some n | _ => none
  match firstFault (fs.filter fun f => f.2.2.1 < 15) write with
  | some t => .inl (some t)
  | none =>
    if homes.any s.inHandover then .inr .handover
    else
      match firstFault (fs ++ mis) write with
      | some t => .inl (some t)
      | none => if s.wakesFor core homes then .inr .unit else .inl none

/-- The walker-only instruction or translated access (19 R436). -/
def walkerTrap : Trap := illegal 0x08

end Sys2Proof.Machine
end

