-- ==== Sys2Proof/Machine/Memory.lean ====
section
/-!
DEFINITION. What global accesses share: the order of a warp's operations on one place (09 R213), release and acquire actions
(09 R215, 10 R233), write tokens (20 R449, R450), the uncommitted bytes of tile tasks (10 R239, 16 R363, R364), and reads and
writes of bytes wherever they live.
-/
namespace Sys2Proof.Machine

/-! ### Order of a warp's operations -/

/-- The bytes that an operation still has to touch in global memory, as runs of name and length. -/
def OpBody.names (b : OpBody) : List (Nat × Nat) :=
  match b with
  | .load lanes size _ _ _ => lanes.map fun l => (l.pa, size)
  | .store bytes _ _ => bytes.map fun p => (p.1, 1)
  | .atomic lanes ty _ _ _ _ _ _ => lanes.map fun l => (l.pa, typeBytes ty)
  | .ticket pa _ => [(pa, 16)]
  | .advance pa _ => [(pa, 16)]
  | _ => []

/-- The same bytes as locations (10 R222); an ISTORE's are those of its descriptors at issue. -/
def OpBody.runs (b : OpBody) : List (Nat × Nat) :=
  match b with
  | .istore _ _ _ _ _ runs => runs
  | b => b.names.map fun r => (locOf r.1, r.2)

/-- Runs have a byte in common. -/
def runsCross (a b : List (Nat × Nat)) : Bool := a.any fun p => b.any fun q => p.1 < q.1 + q.2 && q.1 < p.1 + p.2

/-- Two operations touch a byte in common. -/
def OpBody.meets (a b : OpBody) : Bool := runsCross a.runs b.runs

/-- A store or a maintenance operation, which the memory port performs in issue order (R218). -/
def OpBody.isStore (b : OpBody) : Bool := match b with | .store .. => true | .clean .. => true | .istore .. => true | _ => false

/-- A store that is written through to its home. -/
def OpBody.isRelease (b : OpBody) : Bool := match b with | .store _ rel _ => 2 ≤ rel && rel < 5 | _ => false

/-- A load takes the bytes of an older store of its own split from the store queue, and does not wait for it (10 R234); but nobody reads those of
a release store before they are performed at the home (R232). -/
def OpBody.forwards (store load : OpBody) : Bool :=
  match store, load with
  | .store .., .load .. => !store.isRelease
  | _, _ => false

/-- An older operation of the same lanes on some of the bytes of a run has still to be performed (09 R213). -/
def Warp.behindAt (w : Warp) (p : PendOp) (runs : List (Nat × Nat)) : Bool :=
  w.pend.any fun q => q.id < p.id && !q.done && (q.mask &&& p.mask) ≠ 0 && !q.body.forwards p.body && runsCross q.body.runs runs

/-- An operation of some lanes on some of the bytes of a run has still to be performed: one that reads there without being counted follows it (10
R225). -/
def Warp.crosses (w : Warp) (lanes : Word) (runs : List (Nat × Nat)) : Bool :=
  w.pend.any fun q => !q.done && (q.mask &&& lanes) ≠ 0 && runsCross q.body.runs runs

/-- An older operation of the same lanes on the same bytes has still to be performed (09 R213), or a store before a CLEAN or
INVAL (R218). -/
def Warp.behind (w : Warp) (p : PendOp) : Bool :=
  w.behindAt p p.body.runs ||
    ((match p.body with | .clean .. => true | _ => false) && w.pend.any fun q => q.id < p.id && !q.done && q.body.isStore)

/-- The bytes that a load finds in its split's store queue, oldest first (10 R234). -/
def Warp.queued (w : Warp) (p : PendOp) : List (Nat × Byte) :=
  w.pend.flatMap fun q => match q.body with
    | .store bytes _ _ => if q.id < p.id && !q.done && !q.body.isRelease && (q.mask &&& p.mask) ≠ 0 then bytes else []
    | _ => []

/-- A value of n bytes at a name with queued bytes put in. -/
def overlay (v name n : Nat) (bs : List (Nat × Byte)) : Nat :=
  bs.foldl (fun v b =>
    if name ≤ b.1 ∧ b.1 < name + n then
      let k := 8 * (b.1 - name)
      v - ((v >>> k) % 256) * 2 ^ k + b.2.toNat * 2 ^ k
    else v) v

/-- A release store of another warp of the core to one of the lines is not yet acknowledged: its column refuses hits on the line (10
R232). Of two release stores the older one goes first. -/
def State.lineHeld (s : State) (w core : Nat) (keys : List Nat) (own : Option Nat := none) : Bool :=
  s.warps.any fun x => x.1 ≠ w && x.2.core = core && x.2.pend.any fun p =>
    !p.done && p.body.isRelease && (match own with | some id => p.id < id | none => true) &&
      p.body.names.any fun b => keys.contains (b.1 / 128)

/-- The lines an operation touches. -/
def OpBody.lineKeys (b : OpBody) : List Nat := (b.names.map fun r => r.1 / 128).foldl setAdd []

/-- Earlier G, S and Q operations of the warp have not all completed (R215). -/
def Warp.undrained (w : Warp) : Bool :=
  w.pend.any fun p => !p.done && (p.path = some .G || p.path = some .S || p.path = some .Q)

/-- The release action of a core's column at a scope (10 R233); the second part is false while host halves stand in its way. -/
def State.releaseAt (s : State) (core scope : Nat) : State × Bool :=
  if scope < 2 then (s, true)
  else match s.cleanColumn core fun _ => true with
    | (s, true) => (if scope = 4 then s.flushHost (clusterOf core) else s, true)
    | a => a

/-- The release action of a split's operation at a scope, then the operation (R215, R233). -/
def Issue.releasing (c : Issue) (s : State) (scope : Nat) (k : State → State) : State :=
  if c.warp.undrained then c.stall s .drain
  else match s.releaseAt c.warp.core scope with
    | (s, true) => k s
    | (s, false) => c.stall s .snoop

/-- The acquire action of a core at a scope (5: none); the second part is false while host halves stand in its way. DESIGN CHOICE (assumption 129):
of a SCOPE that is none of R63's codes, which software may write into a live queue header, the spec says nothing: 5 acquires nothing, any other is
as cluster or wider. -/
def State.acquireAt (s : State) (core scope : Nat) : State × Bool :=
  if scope < 2 ∨ scope = 5 then (s, true) else s.acquireColumn core

/-! ### Tokens -/

/-- The core holds the token of every region of a list; a deleted region asks for none. -/
def State.hasTokens (s : State) (core : Nat) (rs : List Nat) : Bool :=
  rs.all fun r => match Tab.get? s.regions r with | some x => x.holder = some core | none => true

/-- The region that a physical address lies in, by the tables of the context that defined it (20 R449). -/
def State.physRegion (s : State) (pa : Nat) : Option Nat :=
  (s.regions.find? fun r => (List.range (2 ^ (r.2.k - 12))).any fun i =>
    match s.findLeaf 0 r.2.ctx (r.2.base + BitVec.ofNat 64 (4096 * i)) with
    | some (leaf, p) => pteBit leaf 11 && p / 4096 = pa / 4096
    | none => false).map (·.1)

/-- The regions that a walker's lanes write (20 R449). -/
def State.walkerRegions (s : State) (vas : List (Nat × DWord)) : List Nat := (vas.filterMap fun p => s.physRegion p.2.toNat).foldl setAdd []

/-- The core's bit set in the regions whose token it lacks (20 R450). -/
def State.askTokens (s : State) (core : Nat) (rs : List Nat) : State :=
  rs.foldl (fun s r =>
    match Tab.get? s.regions r with
    | some x =>
      if x.holder = some core ∨ (Tab.get? x.waiting core).isSome then s
      else { s with regions := Tab.set s.regions r { x with waiting := Tab.set x.waiting core s.timer } }
    | none => s) s

/-- The holder has just written the regions. -/
def State.noteWrite (s : State) (rs : List Nat) : State :=
  rs.foldl (fun s r => { s with regions := Tab.modify s.regions r fun x => { x with lastWrite := s.timer } }) s

/-- Writes under tokens that a core holds have been admitted and not yet performed (10 R238). -/
def State.tokenBusy (s : State) (core r : Nat) : Bool :=
  s.warps.any fun x => x.2.core = core && x.2.pend.any fun p => !p.done && p.toks.contains r && s.hasTokens core p.toks

/-- A PASS (10 R238): the giver's lines of the region are cleaned to their homes, the receiver drops its clean lines of it; none while
writes are outstanding or host halves stand in the way. -/
def State.passToken (s : State) (r : Nat) (next : Option Nat) : State × Bool :=
  match Tab.get? s.regions r with
  | none => (s, false)
  | some x =>
    let give := match x.holder with
      | none => (s, true)
      | some c => if s.tokenBusy c r then (s, false) else s.cleanColumn c x.covers
    if !give.2 then (give.1, false)
    else
      let got := match next with
        | none => (give.1, true)
        | some c => give.1.acquireLines c x.covers
      if !got.2 then (got.1, false)
      else
        ({ got.1 with regions := Tab.modify got.1.regions r fun x =>
            { x with holder := next, lastWrite := got.1.timer,
                     waiting := match next with | some c => Tab.erase x.waiting c | none => x.waiting } }, true)

/-! ### Bytes wherever they live -/

/-- A task whose stores are held uncommitted. -/
def State.openTask (s : State) (t : Option Nat) : Option Nat :=
  t.bind fun t => (Tab.get? s.tasks t).bind fun x => if x.pinned then none else some t

/-- A read by a unit of a core or a lane, peer memory included. -/
def State.readGlobal (s : State) (core : Nat) (task : Option Nat) (pa n : Nat) (alloc : Bool) : State × Option (Nat × Nat) :=
  if s.isPeer pa then (s, some (s.peerNat pa n, 0)) else s.readCol core (s.openTask task) pa n alloc

/-- Bytes written by a unit of a core or a lane: a task's uncommitted bytes, whose lines the column has to have room for (16 R363), or through
the column, which keeps a missed line with `alloc`; what lies in a peer's memory is sent to it (22 R480). The second part is false while host
halves stand in the way. -/
def State.writeGlobal (s : State) (core : Nat) (task : Option Nat) (bs : List (Nat × Byte)) (alloc : Bool := true) : State × Bool :=
  let out := bs
  let bs := bs.filter fun b => !s.isPeer b.1
  match s.openTask task with
  | some t =>
    let old := (Tab.get? s.taskBuf (t * 32 + core)).getD []
    let fresh := ((byLine bs).filter fun p => !old.any fun b => b.1 / 128 = p.1).length
    (match s.colRoom core fresh 98305 with
     | (s, true) => (s.writeTask t core bs, true)
     | (s, false) => (s.sendSnoops (((s.core core).lines.map (·.1)).flatMap (s.writebackHeld core)), false))
  | none =>
    let held := s.storeHeld core bs alloc
    if held.isEmpty then ((s.toPeers out).writeCol core bs alloc, true) else (s.sendSnoops held, false)

/-- Bytes performed at their home show in a column's copy of their line, but for its dirty bytes; a clean line of a decoded view goes, for
its bytes are what was encoded (21 R461, R462). -/
def State.refresh (s : State) (core : Nat) (bs : List (Nat × Byte)) : State :=
  (byLine bs).foldl (fun s p =>
    match s.colLine core p.1 with
    | some l =>
      if (viewOf p.1).isSome then (if l.dirty = 0 then s.dropColLine core p.1 else s) else
      let md := lineOfBytes p.2; s.setColLine core p.1 { l with data := mergeLine l.data md.2 (md.1 &&& ~~~l.dirty) }
    | none => s) s

/-! ### Accesses of engines -/

/-- What a unit's access finds. -/
inductive EngAns where
  | wait
  | fault (cause sub : Nat)
  | ok (name : Nat) (toks : List Nat)

/-- The name of a requester of a miss that is an operation (19 R418). -/
def opEntry (id : Nat) : Nat := 4 + id

/-- An access of an engine operation of a warp at one address: translated through the core's TLBs, a miss asked for, its checks as a
lane's (08 R191, R193, 19 R418). -/
def State.engineAccess (s : State) (w : Nat) (x : Warp) (p : PendOp) (k : Access) (va : DWord) : State × EngAns :=
  if !canonical va then (s, .fault 0x05 0x02)
  else
    match s.lookData x.core x.ctx va.toNat with
    | (s, none) =>
      (match p.xfails.find? fun f => f.page = va.toNat / 4096 with
       | some f => (s, .fault 0x05 f.sub)
       | none =>
         (s.requestMiss (dieOf x.core) x.ctx (va.toNat / 4096) false k.write false p.user
            (some { core := x.core, warp := w, entry := opEntry p.id }), .wait))
    | (s, some e) =>
      let y : LaneTr := { lane := 0, va, leaf := e.leaf, pa := e.pa va.toNat, page := (e.vpn * 4096, sizeBytes e.size) }
      let home := s.accessStack e.leaf y.pa
      let busy := match home with | some n => s.inHandover n | none => false
      match s.laneFault (dieOf x.core) p.user k y with
      | some (row, cause, sub) => if 60 ≤ row && busy then (s, .wait) else (s, .fault cause sub)
      | none =>
        if busy || s.wakesFor x.core home.toList then (s, .wait)
        else
          let s : State := (s.noteAdmitted x.ctx home.toList).markAccess x.core x.ctx va.toNat k.write
          let toks := if k.write then (s.tokenRegion e.leaf va.toNat).toList else []
          let name := s.laneName x.ctx y
          if s.lineHeld w x.core [name / 128] then (s, .wait)
          else if s.hasTokens x.core toks then (s, .ok name toks) else (s.askTokens x.core toks, .wait)

/-- The runs within one line that bytes from an address fall in: address and length. -/
def lineRuns (va : DWord) (n fuel : Nat) : List (DWord × Nat) :=
  match fuel with
  | 0 => []
  | f + 1 =>
    if n = 0 then []
    else
      let k := min n (128 - va.toNat % 128)
      (va, k) :: lineRuns (va + BitVec.ofNat 64 k) (n - k) f

/-- What an engine's read or write of bytes comes to: to be tried again, held at an address, or done with the bytes read. -/
inductive EngRes where
  | wait
  | fault (cause sub : Nat) (va : DWord)
  | ok (bytes : List Byte)

/-- The fault that a unit's operation is held at: the sub-cause is the unit's, but for host memory unavailable (22 R470) and a
texture or traversal read of a decoded view (21 R464). -/
def heldBy (unit cause sub : Nat) (va : DWord) : HeldFault :=
  { cause, sub := if (cause = 0x07 ∧ sub = 0x04) ∨ (cause = 0x12 ∧ unit ≠ 0x10) then sub else unit, addr := va }

/-- Bytes of a value, low first. -/
def bytesOf (n v : Nat) : List Byte := (List.range n).map fun k => BitVec.ofNat 8 (v >>> (8 * k))

/-- Bytes read by an operation's unit through the column (R191). -/
def State.engineRead (s : State) (w : Nat) (x : Warp) (p : PendOp) (size : Nat) (va : DWord) (n : Nat) (alloc : Bool) :
    State × EngRes :=
  (lineRuns va n (n / 128 + 2)).foldl (fun r q =>
    match r with
    | (s, .ok bs) =>
      (match s.engineAccess w x p { size, write := false, store := true } q.1 with
       | (s, .wait) => (s, .wait)
       | (s, .fault cause sub) => (s, .fault cause sub q.1)
       | (s, .ok name _) =>
         match s.readGlobal x.core x.task name q.2 alloc with
         | (s, none) => (s, .wait)
         | (s, some (v, m)) => if m = 0 then (s, .ok (bs ++ bytesOf q.2 v)) else (s, .fault (if m = 2 then 0x12 else 0x11) 0x01 q.1))
    | r => r) (s, .ok [])

/-- Bytes written by an operation's unit through the column. -/
def State.engineWrite (s : State) (w : Nat) (x : Warp) (p : PendOp) (size : Nat) (va : DWord) (bytes : List Byte)
    (alloc : Bool := true) : State × EngRes :=
  let r := (lineRuns va bytes.length (bytes.length / 128 + 2)).foldl (fun (r : (State × EngRes) × List Byte) q =>
    match r.1 with
    | (s, .ok _) =>
      (match s.engineAccess w x p { size, write := true, store := true } q.1 with
       | (s, .wait) => ((s, .wait), [])
       | (s, .fault cause sub) => ((s, .fault cause sub q.1), [])
       | (s, .ok name toks) =>
         let bs := ((r.2.take q.2).zip (List.range q.2)).map fun b => (name + b.2, b.1)
         match s.writeGlobal x.core x.task bs alloc with
         | (s, true) => ((s.noteWrite toks, .ok []), r.2.drop q.2)
         | (s, false) => ((s, .wait), []))
    | a => (a, [])) ((s, .ok []), bytes)
  r.1

/-! ### Tile tasks -/

/-- The pass of a task. -/
def State.taskPass (s : State) (t : Task) : Option (Graph × Pass) :=
  (Tab.get? s.graphs t.graph).bind fun g => g.passes[t.pass]?.map fun p => (g, p)

/-- The declared outputs of a task as address and length (16 R362): its own tile of each resource in OUT that has one. -/
def State.taskOutputs (s : State) (t : Task) : List (Nat × Nat) :=
  match s.taskPass t with
  | none => []
  | some (g, p) =>
    let tx := t.tile % p.gx
    let ty := t.tile / p.gx
    p.outs.filterMap fun o => g.ress[o]?.bind fun r =>
      if tx < r.tx ∧ ty < r.ty then some (r.rva.toNat + (ty * r.tx + tx) * r.slot, r.slot) else none

/-- A run of bytes lies in a declared output of a task. -/
def State.inOutputs (s : State) (t : Task) (va n : Nat) : Bool :=
  (s.taskOutputs t).any fun o => o.1 ≤ va && va + n ≤ o.1 + o.2

/-- The token region, if any, that a name of a write through a TOK page lies in, by the translations of a die. -/
def State.nameRegion (s : State) (die name : Nat) : Option Nat :=
  match aliasOf (name / 128) with
  | none => none
  | some (ctx, n) =>
    match s.findLeaf die ctx (BitVec.ofNat 64 (128 * n)) with
    | some (leaf, _) => s.tokenRegion leaf (128 * n)
    | none => none

/-- The uncommitted lines of a task: core, line and bytes. -/
def State.bufferedLines (s : State) (t : Nat) : List (Nat × Nat × List (Nat × Byte)) :=
  (s.taskBuf.filter fun b => b.1 / 32 = t).flatMap fun b => (byLine b.2).map fun l => (b.1 % 32, l)

/-- A commit of a line from a core would fault by the owner map: a handover has taken its stack from the die since the store (20 R440, R441). -/
def State.commitFaults (s : State) (core line : Nat) : Bool :=
  match s.stackOf line with
  | none => false
  | some n =>
    let o := (s.home n).owner.owner
    let local_ := match (aliasOf line).bind fun a => s.findLeaf (dieOf core) a.1 (BitVec.ofNat 64 (128 * a.2)) with
      | some (leaf, _) => !pteBit leaf 10
      | none => false
    o = 2 || (s.home n).failed || (o ≠ dieOf core && local_)

/-- An uncommitted line of a task leaves its core's column. -/
def State.dropBuffered (s : State) (t core line : Nat) : State :=
  let rest := ((Tab.get? s.taskBuf (t * 32 + core)).getD []).filter fun b => b.1 / 128 ≠ line
  { s with taskBuf := if rest.isEmpty then Tab.erase s.taskBuf (t * 32 + core) else Tab.set s.taskBuf (t * 32 + core) rest }

/-- One uncommitted line of a task performed at its home, at a peer's where it is that one's; false while a token, a handover (20 R441), a unit
asleep (24 R488) or a host half stands in the way. A commit that faults fails its graph (assumption 120). -/
def State.commitLine (s : State) (t core : Nat) (l : Nat × List (Nat × Byte)) : State × Bool :=
  let toks := (s.nameRegion (dieOf core) (128 * l.1)).toList
  let mine := l.2.filter fun b => !s.isPeer b.1
  let held := s.homeHeld mine
  let waits := match s.stackOf l.1 with | some n => s.inHandover n || s.wakesFor core [n] | none => false
  if waits then (s, false)
  else if s.commitFaults core l.1 then
    let s : State := s.dropBuffered t core l.1
    ((match Tab.get? s.tasks t with | some x => s.failGraph x.graph 3 | none => s), true)
  else if !s.hasTokens core toks then (s.askTokens core toks, false)
  else if !held.isEmpty then (s.sendSnoops held, false)
  else ((((s.toPeers l.2).noteWrite toks).writeHome mine (dieOf core)).refresh core mine |>.dropBuffered t core l.1, true)

/-- The commit of a task's uncommitted lines (10 R239, 16 R363): each time one of them is performed at its home, which of them the spec
does not say (assumption 107), so that others may find some committed and others not. The second part is true once all are. -/
def State.commitTask (s : State) (t : Nat) : State × Bool :=
  let ls := s.bufferedLines t
  match ls[Config.choice t s.free % ls.length]? with
  | none => (s, true)
  | some l =>
    match s.commitLine t l.1 l.2 with
    | (s, false) => (s, false)
    | (s, true) => (s, ls.length = 1)

/-- The cores that warps of a task run on. -/
def State.taskColumns (s : State) (t : Nat) : List Nat :=
  (s.warps.filterMap fun w => if w.2.task = some t then some w.2.core else none).foldl setAdd []

/-- The columns of some cores cleaned to their homes; false while host halves stand in the way. -/
def State.cleanCores (s : State) (cores : List Nat) : State × Bool :=
  cores.foldl (fun r c => if r.2 then r.1.cleanColumn c fun _ => true else r) (s, true)

/-- A task pinned (16 R364): a device-scope release, its lines committed one by one; then its writes are ordinary. -/
def State.pinTask (s : State) (t : Nat) : State × Bool :=
  match Tab.get? s.tasks t with
  | none => (s, true)
  | some x =>
    if x.pinned then (s, true)
    else
      match ({ s with tasks := Tab.set s.tasks t { x with pinning := true } } : State).cleanCores (s.taskColumns t) with
      | (s, false) => (s, false)
      | (s, true) =>
        match s.commitTask t with
        | (s, true) => ({ s with tasks := Tab.modify s.tasks t fun x => { x with pinned := true, pinning := false } }, true)
        | (s, false) => (s, false)

/-- An irrevocable operation pins the warp's task first (16 R364), a device-scope release (10 R239). -/
def Issue.pinning (c : Issue) (s : State) (k : State → State) : State :=
  match s.openTask c.warp.task with
  | none => k s
  | some t =>
    if c.warp.undrained then c.stall s .drain
    else
      match s.pinTask t with
      | (s, true) => k s
      | (s, false) => c.stall s .snoop

/-- The lines of runs of bytes (virtual address, length), by their locations. -/
def runLines (ctx : Nat) (runs : List (Nat × Nat)) : List Nat :=
  runs.foldl (fun l r => setAddAll l ((List.range ((r.1 % 128 + r.2 + 127) / 128)).map fun k => virtLoc ctx (BitVec.ofNat 64 r.1) / 128 + k)) []

/-- The lines that a task buffers in a core's column, by their locations. -/
def State.taskLocs (s : State) (t core : Nat) : List Nat :=
  ((Tab.get? s.taskBuf (t * 32 + core)).getD []).foldl (fun l b => setAdd l (locOf b.1 / 128)) []

/-- The lines, by their locations, that an operation of a context will still buffer for its task: those of its stores, of an atomic at the
column, of a copy out (16 R363). -/
def OpBody.bufferLocs (b : OpBody) (ctx : Nat) : List Nat :=
  match b with
  | .store bytes _ _ => bytes.foldl (fun l p => setAdd l (locOf p.1 / 128)) []
  | .atomic lanes _ _ _ _ scope _ _ => if scope < 2 then lanes.foldl (fun l p => setAdd l (locOf p.pa / 128)) [] else []
  | .istore _ _ _ _ _ runs => runs.foldl (fun l r => setAddAll l ((List.range ((r.1 % 128 + r.2 + 127) / 128)).map fun k => r.1 / 128 + k)) []
  | .copy y =>
    if y.dir = 1 then
      runLines ctx ((List.range y.rows).map fun (r : Nat) => ((BitVec.ofInt 64 ((y.global.toNat : Int) + r * y.gpitch)).toNat, y.rowbytes))
    else []
  | _ => []

/-- The lines that issued and pending operations of a core's open tasks will bring into its column beside those buffered: task and line. -/
def State.pendingLines (s : State) (core : Nat) : List (Nat × Nat) :=
  s.warps.foldl (fun l w =>
    match (if w.2.core = core then s.openTask w.2.task else none) with
    | none => l
    | some t =>
      let old := s.taskLocs t core
      w.2.pend.foldl (fun l p =>
        if p.done then l
        else l ++ (((p.body.bufferLocs w.2.ctx).filter fun k => !old.contains k).map fun k => (t, k)).filter fun k => !l.contains k) l) []

/-- A write of runs of bytes (virtual address, length): a store outside the declared outputs, or one that would bring the core's uncommitted
lines, those of pending operations among them, beyond 2 MiB, pins the warp's task first (16 R363, R364). -/
def Issue.writing (c : Issue) (s : State) (runs : List (Nat × Nat)) (k : State → State) : State :=
  match (s.openTask c.warp.task).bind fun t => (Tab.get? s.tasks t).map fun x => (t, x) with
  | none => k s
  | some (t, x) =>
    let old := s.taskLocs t c.warp.core
    let due := s.pendingLines c.warp.core
    let fresh := (runLines c.warp.ctx runs).filter fun l => !old.contains l && !due.contains (t, l)
    if s.taskLines c.warp.core + due.length + fresh.length ≤ 16384 && runs.all (fun r => s.inOutputs x r.1 r.2) then k s else c.pinning s k

end Sys2Proof.Machine
end

