-- ==== Sys2Proof/Machine/MemAccess.lean ====
section
/-!
DEFINITION. Translation bases, loads, stores, prefetch and cache maintenance (09 R204 to R218), their events (09 R212, R216), and
the writebacks of lines (21 R461, 26 R503).
-/
namespace Sys2Proof.Machine

/-- TBBIND (R206). -/
def execTbbind (e : Enc) (s : State) : Host.Outcome State Fault Refusal :=
  runIsa formTbbind e (fun c s =>
    if c.warp.walker then c.trap s walkerTrap
    else if c.em = 0 then c.leave s
    else c.leave (s.bindBase c.w c.warp (e.fb 0 3) (c.rd64 e.a 0))) s

/-! ### Loads and stores -/

/-- The acquire scope of a load: 5 without .acq. -/
def loadAcq (e : Enc) : Nat := if e.fb 5 2 = 1 then e.fb 7 3 else 5
/-- The release scope of a store: 5 without .rel. -/
def storeRel (e : Enc) : Nat := if e.fb 5 2 = 2 then e.fb 7 3 else 5

/-- OFF of LD and ST: X[22:3], signed bytes (R211). -/
def baseOff (e : Enc) : Int := (e.x.extractLsb' 3 20).toInt

/-- The requests of LD and ST through their base (R207), which first tries to rebind (R205). -/
def Issue.baseAccess (c : Issue) (s : State) : State × List LaneReq :=
  let r := s.useBase c.w (c.e.x.toNat % 8)
  (r.1, baseReqs r.2 (memBytes c.e) (c.lanes.map fun i => (i, (c.rd c.e.a i).toInt + baseOff c.e)))

/-- The requests of LDX and STX. -/
def Issue.flatAccess (c : Issue) : List LaneReq := flatReqs (c.lanes.map fun i => (i, c.rd64 c.e.a i))

/-- A load whose lanes are admitted (R212): counted on G. -/
def Issue.loadOn (c : Issue) (s : State) (lanes : List LaneAddr) : State :=
  if c.full .G then c.stall s .counter
  else
    c.leave (c.enqueue s (some .G) (c.dsts c.e.d (lanes.map (·.lane)) (memNames c.e))
      (.load lanes (memBytes c.e) (c.e.fb 0 4) (c.e.fb 10 1 = 1) (loadAcq c.e)))

/-- A load of translated lanes (R208, R212, R214). -/
def Issue.loadGo (c : Issue) (s : State) (reqs : List LaneReq) : State :=
  match s.admission c { size := memBytes c.e, write := false } reqs with
  | (s, .trap t) => c.trap s t
  | (s, .stall y) => c.stall s y
  | (s, .ok lanes _) => c.loadOn s lanes

/-- A store whose lanes are admitted (R212, R215): counted on S; the bytes are those the registers hold now. -/
def Issue.storeOn (c : Issue) (s : State) (lanes : List LaneAddr) (toks : List Nat) : State :=
  if c.full .S then c.stall s .counter
  else
    let run (s : State) : State :=
      c.writing s (lanes.map fun l => (l.va.toNat, memBytes c.e)) fun s =>
        let s : State := s.askTokens c.warp.core toks
        c.leave (c.enqueue s (some .S) [] (.store (lanes.flatMap fun l => c.dataBytes c.e.b l.lane l.pa) (storeRel c.e) (c.e.fb 10 1 = 1)) [] toks)
    if storeRel c.e = 5 then run s else c.releasing s (storeRel c.e) run

/-- A store of translated lanes. -/
def Issue.storeGo (c : Issue) (s : State) (reqs : List LaneReq) : State :=
  match s.admission c { size := memBytes c.e, write := true, store := true } reqs with
  | (s, .trap t) => c.trap s t
  | (s, .stall y) => c.stall s y
  | (s, .ok lanes toks) => c.storeOn s lanes toks

/-- A walker's lanes, whose addresses are physical (19 R420), and the token regions that they write. -/
def Issue.walkerGo (c : Issue) (s : State) (write : Bool) (k : State → List LaneAddr → List Nat → State) : State :=
  let vas := c.lanes.map fun i => (i, c.rd64 c.e.a i)
  match s.walkerCheck c.warp.core (!write && c.e.fb 0 5 = 3) vas (memBytes c.e) write with
  | .inl (some t) => c.trap s t
  | .inr y => c.stall s y
  | .inl none => k (s.noteAdmitted c.warp.ctx (vas.filterMap fun p => match placeOf p.2.toNat with | .stack n => some n | _ => none)) (vas.map fun p => { lane := p.1, va := p.2, pa := p.2.toNat }) (if write then s.walkerRegions vas else [])

/-- LD (R212). -/
def execLd (e : Enc) (s : State) : Host.Outcome State Fault Refusal :=
  runIsa formLd e (fun c s =>
    if c.warp.walker then c.trap s walkerTrap
    else if c.em = 0 then c.leave s
    else let r := c.baseAccess s; c.loadGo r.1 r.2) s

/-- ST (R212). -/
def execSt (e : Enc) (s : State) : Host.Outcome State Fault Refusal :=
  runIsa formSt e (fun c s =>
    if c.warp.walker then c.trap s walkerTrap
    else if c.em = 0 then c.leave s
    else let r := c.baseAccess s; c.storeGo r.1 r.2) s

/-- LDX (R212; a walker's by 19 R420). -/
def execLdx (e : Enc) (s : State) : Host.Outcome State Fault Refusal :=
  runIsa formLdx e (fun c s =>
    if c.em = 0 then c.leave s
    else if c.warp.walker then c.walkerGo s false fun s lanes _ => c.loadOn s lanes
    else c.loadGo s c.flatAccess) s

/-- STX (R212; a walker's by 19 R420). -/
def execStx (e : Enc) (s : State) : Host.Outcome State Fault Refusal :=
  runIsa formStx e (fun c s =>
    if c.em = 0 then c.leave s
    else if c.warp.walker then c.walkerGo s true c.storeOn
    else c.storeGo s c.flatAccess) s

/-! ### Their events -/

/-- Loads of some lanes performed for a warp: words and poison marks by lane; none while host halves stand in the way. Bytes of its own
split's queued stores come from there (10 R234). A walker reads at the place itself, and the ATS window answers for the host (19 R420). -/
def State.readLanes (s : State) (x : Warp) (lanes : List LaneAddr) (size ty : Nat) (alloc : Bool) (queued : List (Nat × Byte)) :
    State × Option (List (Nat × List Word × Nat)) :=
  lanes.foldl (fun r l =>
    match r with
    | (s, none) => (s, none)
    | (s, some vs) =>
      let add (v m : Nat) : Option (List (Nat × List Word × Nat)) :=
        some (vs ++ [(l.lane, loadWords size ty (overlay v l.pa size queued), m)])
      if x.walker && placeOf l.pa = .ats then
        (s, add (if s.linkFull then (Config.atsAnswer x.ctx ((l.pa - 0x2000000000000) / 8)).toNat else 0) 0)
      else if s.isPeer l.pa then (s, add (s.peerNat l.pa size) 0)
      else if x.walker then
        let held := s.readHeld l.pa size
        if held.isEmpty then let q := s.readHome l.pa size (dieOf x.core); (q.1, add q.2.1 q.2.2)
        else (s.sendSnoops held, none)
      else
        match s.readCol x.core (s.openTask x.task) l.pa size alloc with
        | (s, some (v, m)) => (s, add v m)
        | (s, none) => (s, none)) (s, some [])

/-- Some lanes of a load, in one line, are performed and their results applied; the load completes with its last lane, and with it the acquire
side of an .acq load (R215). err: an uncorrectable error is found in words of that line, which poisons the lanes that read them and stays
with the words (R216, 26 R500). -/
def State.loadStep (s : State) (w : Nat) (x : Warp) (p : PendOp) (now later : List LaneAddr) (size ty : Nat) (na : Bool) (acq : Nat)
    (err : Bool) : State :=
  if now.isEmpty || x.behind p || s.lineHeld w x.core (OpBody.load now size ty na acq).lineKeys then s
  else
    let key := (now.map fun l => l.pa / 128).headD 0
    let s : State := if !err then s else if x.walker then s.noteError.spoilHome key (s.errMask key) else s.readError x.core key
    match s.readLanes x now size ty (!na) (x.queued p) with
    | (s, none) => s
    | (s, some vals) =>
      match if later.isEmpty then s.acquireAt x.core acq else (s, true) with
      | (s, false) => s
      | (s, true) =>
        let s : State := s.modWarp w fun y => y.applyResult p vals
        if later.isEmpty then s.completeOp w p
        else s.modWarp w fun y => y.modOp p.id fun q => { q with body := .load later size ty na acq }

/-- LOAD_DATA_APPLIED (R212, R216): the lanes of one line, which is one request; err: its data arrived with an uncorrectable error. -/
def execLoadDataApplied (w : Nat) (o : OpAt) (err : Bool) (s : State) : Host.Outcome State Fault Refusal :=
  .next (match s.warp? w with
    | none => s
    | some x =>
      match x.op? o.op with
      | none => s
      | some p =>
        match p.body with
        | .load lanes size ty na acq =>
          let mine (l : LaneAddr) : Bool := l.pa / 128 = o.line && !s.isPeer l.pa
          s.loadStep w x p (lanes.filter mine) (lanes.filter fun l => !mine l) size ty na acq err
        | _ => s)

/-- Bytes performed for a store of a warp: a walker's and a release store's at their home, the rest through the column; false
while host halves stand in the way. -/
def State.storeBytes (s : State) (x : Warp) (bytes : List (Nat × Byte)) (rel : Nat) (na : Bool) : State × Bool :=
  if x.walker || ((2 ≤ rel && rel < 5) && (s.openTask x.task).isNone) then
    let out := bytes
    let bytes := bytes.filter fun b => !s.isPeer b.1
    let mine := if x.walker then (byLine bytes).map (·.1) else []
    let back := mine.flatMap (s.writebackHeld x.core)
    let held := back ++ s.homeHeld bytes
    if !held.isEmpty then (s.sendSnoops held, false)
    else
      let s : State := mine.foldl (fun s k => (s.writeback x.core k).dropColLine x.core k) s
      ((((s.toPeers out).writeHome bytes (dieOf x.core)).refresh x.core bytes), true)
  else s.writeGlobal x.core x.task bytes (!na)

/-- Some bytes of a store are performed; the store completes with its last. -/
def State.storeStep (s : State) (w : Nat) (x : Warp) (p : PendOp) (now later : List (Nat × Byte)) (rel : Nat) (na : Bool) : State :=
  if now.isEmpty || x.behind p ||
      s.lineHeld w x.core ((now.map fun b => b.1 / 128).foldl setAdd []) (if p.body.isRelease then some p.id else none) then s
  else if !s.hasTokens x.core p.toks then s.askTokens x.core p.toks
  else
    match s.storeBytes x now rel na with
    | (s, false) => s
    | (s, true) =>
      let s : State := s.noteWrite p.toks
      if later.isEmpty then s.completeOp w p
      else s.modWarp w fun y => y.modOp p.id fun q => { q with body := .store later rel na }

/-! ### Maintenance -/

/-- A line's key lies in one of the runs. -/
def inRuns (runs : List (Nat × Nat)) (key : Nat) : Bool := runs.any fun r => r.1 / 128 ≤ key && key ≤ (r.1 + r.2 - 1) / 128

/-- A column line of a context's virtual range. -/
def inRange (ctx : Nat) (base : DWord) (len key : Nat) : Bool :=
  match aliasOf key with
  | some (c, n) => c = ctx && base.toNat / 128 ≤ n && n ≤ (base.toNat + len - 1) / 128
  | none => false

/-- Instruction lines removed on every core, fills in flight not to be installed (R219). -/
def State.dropCode (s : State) (p : Nat → Bool) : State :=
  { s with cores := s.cores.map fun x => (x.1, { x.2 with
      icache := x.2.icache.filter fun l => !p l.1, ibad := x.2.ibad.filter fun k => !p k,
      fills := x.2.fills.map fun f => if p (physKey f.line) then { f with stale := true } else f }) }

/-- The page of an address as a maintenance operation's unit translates it: through the core's TLBs, a miss asked for like any other (R218,
19 R418). The name of its bytes, none where there is no valid translation, or nothing yet. -/
def State.maintPage (s : State) (w : Nat) (x : Warp) (p : PendOp) (va : DWord) : State × Option (Option Nat) :=
  if !canonical va then (s, some none)
  else
    match s.lookData x.core x.ctx va.toNat with
    | (s, some e) =>
      (s, some (if pteBit e.leaf 56 then s.viewPa e.leaf va.toNat (e.vpn * 4096, sizeBytes e.size) else some (e.pa va.toNat)))
    | (s, none) =>
      if p.xfails.any fun f => f.page = va.toNat / 4096 then (s, some none)
      else (s.requestMiss (dieOf x.core) x.ctx (va.toNat / 4096) false false false p.user (some { core := x.core, warp := w, entry := opEntry p.id }), none)

/-- The dirty lines of a column that satisfy p written to their homes, past the cluster units (R218); false while host halves stand in the
way. -/
def State.cleanHome (s : State) (c : Nat) (p : Nat → Bool) : State × Bool :=
  let ks := s.dirtyKeys c p
  let held := ks.flatMap fun k => s.recallHeld k none ++ s.refused k ++ (match s.colLine c k with | some l => s.heldHalves k l.dirty true | none => [])
  if held.isEmpty then (ks.foldl (fun s k => (s.recall k none).writeback c k) s, true) else (s.sendSnoops held, false)

/-- CLEAN and INVAL performed for the bytes of a range that lie in one page (R218); false while host halves stand in the way. -/
def State.maintain (s : State) (x : Warp) (base : DWord) (len name : Nat) (inval icache : Bool) : State × Bool :=
  let runs := [(name, len)]
  let mine (key : Nat) : Bool := inRange x.ctx base len key && inRuns runs (physKey key) && (match placeOf (128 * key) with | .grotto _ => false | _ => true)
  match s.cleanHome x.core mine with
  | (s, false) => (s, false)
  | (s, true) =>
    let s : State := if inval then s.dropColLines x.core fun k _ => mine k else s
    (if icache then s.dropCode (inRuns runs) else s, true)

/-- A CLEAN or INVAL goes on by a page; it completes with its last (R218). -/
def State.maintStep (s : State) (w : Nat) (x : Warp) (p : PendOp) (base : DWord) (len : Nat) (inval icache : Bool) : State :=
  let n := min len (4096 - base.toNat % 4096)
  let r := match s.maintPage w x p base with
    | (s, none) => (s, false)
    | (s, some none) => (s, true)
    | (s, some (some name)) => s.maintain x base n name inval icache
  match r with
  | (s, false) => s
  | (s, true) =>
    if len ≤ n then s.completeOp w p
    else s.modWarp w fun y => y.modOp p.id fun q => { q with body := .clean (base + BitVec.ofNat 64 n) (len - n) inval icache }

/-- A CLEAN or INVAL issues (R218). -/
def Issue.maintenance (c : Issue) (s : State) (inval : Bool) : State :=
  let len := (c.rd c.e.b 0).toNat
  if c.em = 0 ∨ len = 0 ∨ c.e.fb 0 3 < 2 then c.leave s
  else if c.full .S then c.stall s .counter
  else c.leave (c.enqueue s (some .S) [] (.clean (c.rd64 c.e.a 0) len inval (c.e.fb 3 1 = 1)))

/-- CLEAN (R218). -/
def execClean (e : Enc) (s : State) : Host.Outcome State Fault Refusal := runIsa formClean e (fun c s => c.maintenance s false) s

/-- INVAL (R218). -/
def execInval (e : Enc) (s : State) : Host.Outcome State Fault Refusal := runIsa formInval e (fun c s => c.maintenance s true) s

/-! ### Prefetch -/

/-- A prefetch with write intent asks for a host line's halves exclusively (R217, 22 R477). -/
def Line.exclusive (l : Line) : Line := { l with h0 := if l.h0 = 1 then 2 else l.h0, h1 := if l.h1 = 1 then 2 else l.h1 }

/-- One line of a prefetch (R217): asked for without a walk; a line that would fault, or that finds no free slot, is dropped. DESIGN
CHOICE: a .w line is checked as a read, for the spec does not say that want of write permission drops it (assumption 110). -/
def State.prefetchData (s : State) (c : Issue) (va : DWord) (write : Bool) : State :=
  if !canonical va then s
  else
    match s.lookData c.warp.core c.warp.ctx va.toNat with
    | (s, none) => s
    | (s, some e) =>
      let x : LaneTr := { lane := 0, va, leaf := e.leaf, pa := e.pa va.toNat, page := (e.vpn * 4096, sizeBytes e.size) }
      let name := s.laneName c.warp.ctx x
      let key := name / 128
      let home := s.accessStack e.leaf x.pa
      let busy := home.any s.inHandover
      let fault := match s.laneFault (dieOf c.warp.core) (c.sp.level < 2) { size := 1, write := false } x with
        | some f => f.1 < 60 || !busy
        | none => false
      if fault || s.isPeer name || !Config.fillSlot key s.free then s
      else
        match placeOf name with
        | .grotto _ => s
        | .ats => s
        | _ =>
          if placeOf name = .nothing && (viewOf key).isNone then s
          else
            s.modCore c.warp.core fun y => { y with prefs := y.prefs ++ [{ key, write, reach := pteBit e.leaf 10 }] }

/-- A prefetched line reaches a column that may have it by the owner map (20 R440): it is brought in clean, or its halves are asked for with
write intent; it waits for a handover, a unit asleep and the host (20 R441, 22 R474, 24 R488). -/
def State.servePrefetch (s : State) (core n : Nat) : State :=
  match (s.core core).prefs[n]? with
  | none => s
  | some f =>
    let take (s : State) : State := s.modCore core fun y => { y with prefs := y.prefs.eraseIdx n }
    let home := s.stackOf f.key
    let lost := match home with
      | some h => let o := (s.home h).owner.owner; o = 2 || (s.home h).failed || (o ≠ dieOf core && !f.reach)
      | none => hostKey f.key && !s.linkFull
    if home.any s.inHandover || s.wakesFor core home.toList then s
    else if lost then take s
    else
      match s.colLine core f.key with
      | some l => take (if f.write && hostKey f.key then s.setColLine core f.key l.exclusive else s)
      | none =>
        let held := s.fillHeld core f.key
        if held.isEmpty then let r := s.fillLine core f.key f.write; take (r.1.allocLine core f.key r.2)
        else s.sendSnoops held

/-- PREF (R217): a hint that may bring clean lines into the column. DESIGN CHOICE: a walker's, of which 19 R420 says nothing, has no effect:
no column serves a walker (assumption 122). -/
def execPref (e : Enc) (s : State) : Host.Outcome State Fault Refusal :=
  runIsa formPref e (fun c s =>
    let vas := c.lanes.flatMap fun i => (List.range (e.fb 0 3 + 1)).map fun n =>
      ((c.rd64 e.a i) &&& ~~~(127 : DWord)) + BitVec.ofNat 64 (128 * n)
    if c.warp.walker then c.leave s
    else c.leave (vas.foldl (fun s va => s.prefetchData c va (e.fb 3 1 = 1)) s)) s

/-! ### Lines written back -/

/-- ELECTRUM_WRITEBACK (21 R461): a dirty line of a decoded view leaves a column for its home. -/
def execElectrumWriteback (core line : Nat) (s : State) : Host.Outcome State Fault Refusal :=
  .next (
    if (viewOf line).isNone then s
    else
      let held := s.writebackHeld core line
      if held.isEmpty then s.writeback core line else s.sendSnoops held)

/-- HOME_WRITEBACK (26 R503): a byte-masked writeback of a column's line is merged at its home, or into its cluster's unit where that holds
the line; err: the home finds an uncorrectable error in the line it merges into. -/
def execHomeWriteback (core line : Nat) (err : Bool) (s : State) : Host.Outcome State Fault Refusal :=
  .next (
    match (if (viewOf line).isSome then none else s.colLine core line) with
    | none => s
    | some l =>
      let held := s.writebackHeld core line
      if l.dirty = 0 then s
      else if held.isEmpty then (if err && l.dirty ≠ BitVec.allOnes 128 && (s.clusterLine (clusterOf core) line).isNone then s.noteError.spoilHome line (s.errMask line) else s).writeback core line
      else s.sendSnoops held)

/-- HOME_RETRY (11 R248): the first refused request that still waits tries the line again; still busy, it is refused once more, up to the
eighth time, which reserves the line for it. Requests that no longer wait are forgotten. -/
def execHomeRetry (line : Nat) (s : State) : Host.Outcome State Fault Refusal :=
  .next (
    match Tab.get? s.refusals line with
    | none => s
    | some l =>
      match l.filter fun r => s.stillAsks r.1 with
      | [] => { s with refusals := Tab.erase s.refusals line }
      | r :: t =>
        let busy := s.atomicBusy line || s.snoops.any fun p => p.line = line
        { s with refusals := Tab.set s.refusals line ((if busy then (r.1, min 8 (r.2 + 1)) else r) :: t) })

/-- PEER_COMPLETION (22 R480): the peer answers the lanes of a load or an atomic that lie in one line of its memory, or has performed
the bytes of a store there. -/
def peerLoadStore (s : State) (w : Nat) (x : Warp) (p : PendOp) (line : Nat) : State :=
  let mine (name : Nat) : Bool := name / 128 = line && s.isPeer name
  match p.body with
  | .load lanes size ty na acq =>
    s.loadStep w x p (lanes.filter fun l => mine l.pa) (lanes.filter fun l => !mine l.pa) size ty na acq false
  | .store bytes rel na =>
    s.storeStep w x p (bytes.filter fun b => mine b.1) (bytes.filter fun b => !mine b.1) rel na
  | _ => s

end Sys2Proof.Machine
end

