-- ==== Sys2Proof/Machine/Scratch.lean ====
section
/-!
DEFINITION. Scratchpad accesses (08 R186 to R188): LDS, STS, LDR, STR and the events of their results.
-/
namespace Sys2Proof.Machine

/-- OFF of R186. -/
def scratchOff (e : Enc) : Nat := e.fb 5 14

/-- The scratchpad address of a lane: (a + OFF) mod 2^32. -/
def Issue.scratchAddr (c : Issue) (i : Nat) : Nat := ((c.rd c.e.a i).toNat + scratchOff c.e) % 2 ^ 32

/-- A lane's cluster-window address (R188): target index and offset; none for bits [31:23]. -/
def windowAddr (x : Nat) : Option (Nat × Nat) := if 2 ^ 23 ≤ x then none else some (x / 2 ^ 21, x % 2 ^ 21)

/-- The workgroup and offset that a window address names, where the offset and size lie in its allocation (R188). -/
def State.windowTarget (s : State) (w : Warp) (x size : Nat) : Option (Nat × Nat) :=
  (windowAddr x).bind fun p => (s.peerWg w p.1).bind fun n => (s.wg? n).bind fun t =>
    if p.2 + size ≤ t.alloc then some (n, p.2) else none

/-- The scratchpad bytes that an operation of a warp still has to touch: workgroup, offset, length. -/
def State.scratchRuns (s : State) (x : Warp) (b : OpBody) : List (Nat × Nat × Nat) :=
  let at_ (a n : Nat) : Option (Nat × Nat × Nat) := (s.windowTarget x a 1).map fun t => (t.1, t.2, n)
  match b with
  | .atomLocal offs ty _ _ _ _ => offs.map fun o => (x.wg, o.2, typeBytes ty)
  | .ldr offs size _ => offs.filterMap fun o => at_ o.2 size
  | .str bytes => bytes.filterMap fun q => at_ q.1 1
  | _ => []

/-- An operation of the same lanes, issued before a number, has still to be performed on some of the bytes (10 R225). -/
def State.scratchBehind (s : State) (x : Warp) (before : Nat) (lanes : Word) (runs : List (Nat × Nat × Nat)) : Bool :=
  x.pend.any fun q => q.id < before && !q.done && (q.mask &&& lanes) ≠ 0 &&
    (s.scratchRuns x q.body).any fun a => runs.any fun b => a.1 = b.1 && a.2.1 < b.2.1 + b.2.2 && b.2.1 < a.2.1 + a.2.2

/-- LDS (R187): the banks are read at issue, after what the same lanes still have to do to the bytes; the result is interlocked. -/
def execLds (e : Enc) (s : State) : Host.Outcome State Fault Refusal :=
  runIsa formLds e (fun c s =>
    match s.wg? c.warp.wg with
    | none => c.leave s
    | some x =>
      let offs := c.lanes.map fun i => (i, c.scratchAddr i)
      match x.check offs (memBytes e) false with
      | some t => c.trap s t
      | none =>
        let vals := offs.map fun p => (p.1, loadWords (memBytes e) (e.fb 0 4) (x.sp.readNat p.2 (memBytes e)), x.mark p.2 (memBytes e))
        if c.lanes.isEmpty then c.leave s
        else if s.scratchBehind c.warp s.nextId c.sp.mask (offs.map fun p => (c.warp.wg, p.2, memBytes e)) then c.stall s .drain
        else c.leave (c.enqueue s none (c.dsts e.d c.lanes (memNames e)) (.words vals))) s

/-- STS (R187). -/
def execSts (e : Enc) (s : State) : Host.Outcome State Fault Refusal :=
  runIsa formSts e (fun c s =>
    match s.wg? c.warp.wg with
    | none => c.leave s
    | some x =>
      let offs := c.lanes.map fun i => (i, c.scratchAddr i)
      match x.check offs (memBytes e) true with
      | some t => c.trap s t
      | none =>
        let bytes := offs.flatMap fun p => c.dataBytes e.b p.1 p.2
        if s.scratchBehind c.warp s.nextId c.sp.mask (offs.map fun p => (c.warp.wg, p.2, memBytes e)) then c.stall s .drain
        else c.leave (s.modWg c.warp.wg fun x => x.put bytes)) s

/-- The checks of R188, in order; the owner bits are those of the issuing core's copy (R181). -/
def State.windowCheck (s : State) (w : Warp) (offs : List (Nat × Nat)) (size : Nat) (write : Bool) : Option Trap :=
  let prot := offs.filter fun p => (s.windowTarget w p.2 size).isNone
  let mis := offs.filter fun p => p.2 % size ≠ 0
  let own := offs.filter fun p =>
    match s.windowTarget w p.2 size with
    | some (n, o) => (match s.wg? n with | some t => t.ownedFor s.timer w.core o size | none => false)
    | none => false
  if !prot.isEmpty then some (scratchTrap 0x06 prot write)
  else if !mis.isEmpty then some (scratchTrap 0x09 mis write)
  else if !own.isEmpty then some (scratchTrap 0x08 own write)
  else none

/-- LDR (R188): counted on Q, one operation for all its lanes. -/
def execLdr (e : Enc) (s : State) : Host.Outcome State Fault Refusal :=
  runIsa formLdr e (fun c s =>
    let offs := c.lanes.map fun i => (i, c.scratchAddr i)
    let s := s.seeFlips c.warp.core
    match s.windowCheck c.warp offs (memBytes e) false with
    | some t => c.trap s t
    | none =>
      if offs.isEmpty then c.leave s
      else if c.full .Q then c.stall s .counter
      else c.leave (c.enqueue s (some .Q) (c.dsts e.d c.lanes (memNames e)) (.ldr offs (memBytes e) (e.fb 0 4)))) s

/-- STR (R188). -/
def execStr (e : Enc) (s : State) : Host.Outcome State Fault Refusal :=
  runIsa formStr e (fun c s =>
    let offs := c.lanes.map fun i => (i, c.scratchAddr i)
    let s := s.seeFlips c.warp.core
    match s.windowCheck c.warp offs (memBytes e) true with
    | some t => c.trap s t
    | none =>
      if offs.isEmpty then c.leave s
      else if c.full .Q then c.stall s .counter
      else c.leave (c.enqueue s (some .Q) [] (.str (offs.flatMap fun p => c.dataBytes e.b p.1 p.2)))) s

/-- The workgroups that a Q operation addresses. -/
def OpBody.targets (b : OpBody) : List Nat :=
  match b with
  | .ldr offs _ _ => (offs.map fun p => p.2 / 2 ^ 21).foldl setAdd []
  | .str bytes => (bytes.map fun p => p.1 / 2 ^ 21).foldl setAdd []
  | .push t _ _ _ _ => [t]
  | _ => []

/-- No uncompleted Q operation of the warp issued before one addresses a workgroup (R188). -/
def Warp.qFirstAt (w : Warp) (id t : Nat) : Bool :=
  !w.pend.any fun q => q.id < id && !q.done && q.path = some .Q && q.held.isNone && q.body.targets.contains t

/-- That holds for all that a Q operation addresses. -/
def Warp.qFirst (w : Warp) (p : PendOp) : Bool := p.body.targets.all (w.qFirstAt p.id)

/-- A byte of the cluster window. -/
def State.windowByte (s : State) (w : Warp) (x : Nat) : Byte :=
  match s.windowTarget w x 1 with
  | some (n, o) => (match s.wg? n with | some t => t.sp.read o | none => 0)
  | none => 0

/-- n bytes of the cluster window, little-endian. -/
def State.windowNat (s : State) (w : Warp) (x n : Nat) : Nat :=
  match n with
  | 0 => 0
  | n + 1 => (s.windowByte w x).toNat + 256 * s.windowNat w (x + 1) n

/-- The poison of n bytes of the cluster window (26 R500). -/
def State.windowMark (s : State) (w : Warp) (x n : Nat) : Nat :=
  match (s.windowTarget w x 1).bind fun t => (s.wg? t.1).map fun g => (g, t.2) with
  | some (g, o) => g.mark o n
  | none => 0

/-- Bytes written through the cluster window, in order. -/
def State.windowWrite (s : State) (w : Warp) (bytes : List (Nat × Byte)) : State :=
  bytes.foldl (fun s p =>
    match s.windowTarget w p.1 1 with
    | some (n, o) => s.modWg n fun x => x.put [(o, p.2)]
    | none => s) s

/-- The poison kind of a result: 1 where its data arrived with an uncorrectable error (09 R216, 26 R502). -/
def poisonIf (err : Bool) : Nat := if err then 1 else 0

/-- An uncorrectable error counted where one was met (26 R501). -/
def State.errorIf (s : State) (err : Bool) : State := if err then s.noteError else s

/-- LDS_RESULT (R178): an interlocked result reaches its registers; err: its data holds an uncorrectable error (26 R502). -/
def execLdsResult (w : Nat) (o : Found) (s : State) : Host.Outcome State Fault Refusal :=
  .next ((s.errorIf o.err).modWarp w fun x =>
    match x.op? o.name with
    | some p =>
      (match p.body, p.path with
       | .words vals, none => (x.applyResult p (vals.map fun v => (v.1, v.2.1, max v.2.2 (poisonIf o.err)))).retire o.name
       | _, _ => x)
    | none => x)

/-- Bytes of the cluster window that an engine owns under an operation issued before: an access that the issuing core's copy let
through is held at the target until the granules return to lanes (R181). -/
def State.windowHeld (s : State) (w : Warp) (id : Nat) (offs : List (Nat × Nat)) : Bool :=
  offs.any fun p =>
    match s.windowTarget w p.1 1 with
    | some (n, o) => (granulesOf o p.2).any fun g => s.engineOwned n g && s.claimedBy id (n, g)
    | none => false

/-- The target at which an LDR or STR is performed next: its lanes to one workgroup are one Q operation (15 R336), and those to different
workgroups have no order among themselves (R188). `runs` are the bytes that an operation touches at a target. -/
def State.qTarget (s : State) (x : Warp) (p : PendOp) (runs : Nat → List (Nat × Nat)) : Option Nat :=
  let able := p.body.targets.filter fun t => x.qFirstAt p.id t && !s.windowHeld x p.id (runs t) &&
    !s.scratchBehind x p.id p.mask ((runs t).filterMap fun r => (s.windowTarget x r.1 1).map fun a => (a.1, a.2, r.2))
  able[Config.choice p.id s.free % able.length]?

/-- LDR_RESULT (R188): the loads are performed at a target and their results are applied; the operation completes with its last target. err: as
for LDS_RESULT. -/
def execLdrResult (w : Nat) (o : Found) (s : State) : Host.Outcome State Fault Refusal :=
  .next (match s.warp? w with
    | none => s
    | some x =>
      match x.op? o.name with
      | none => s
      | some p =>
        match p.body with
        | .ldr offs size ty =>
          (match s.qTarget x p fun t => (offs.filter fun q => q.2 / 2 ^ 21 = t).map fun q => (q.2, size) with
           | none => s
           | some t =>
             let later := offs.filter fun q => q.2 / 2 ^ 21 ≠ t
             let vals := (offs.filter fun q => q.2 / 2 ^ 21 = t).map fun q =>
               (q.1, loadWords size ty (s.windowNat x q.2 size), max (s.windowMark x q.2 size) (poisonIf o.err))
             let s : State := (s.errorIf o.err).modWarp w fun y => y.applyResult p vals
             if later.isEmpty then s.completeOp w p
             else s.modWarp w fun y => y.modOp p.id fun q => { q with body := .ldr later size ty })
        | _ => s)

/-- STR_PERFORMED (R188): the store is performed at the banks of a target; it completes with its last. -/
def execStrPerformed (w op : Nat) (s : State) : Host.Outcome State Fault Refusal :=
  .next (match s.warp? w with
    | none => s
    | some x =>
      match x.op? op with
      | none => s
      | some p =>
        match p.body with
        | .str bytes =>
          (match s.qTarget x p fun t => (bytes.filter fun q => q.1 / 2 ^ 21 = t).map fun q => (q.1, 1) with
           | none => s
           | some t =>
             let later := bytes.filter fun q => q.1 / 2 ^ 21 ≠ t
             let s : State := s.windowWrite x (bytes.filter fun q => q.1 / 2 ^ 21 = t)
             if later.isEmpty then s.completeOp w p else s.modWarp w fun y => y.modOp p.id fun q => { q with body := .str later })
        | _ => s)

end Sys2Proof.Machine
end

