-- ==== Sys2Proof/Machine/Copy.lean ====
section
/-!
DEFINITION. The copy engine (08 R189 to R193), WAITC (R185) and the end of a granule wait (R180).
-/
namespace Sys2Proof.Machine

/-- The shape word of a copy (R190). -/
def Issue.copyShape (c : Issue) : Nat := if c.e.fb 3 1 = 1 then (c.warp.gReg (c.e.k.toNat % 64)).toNat else c.e.k.toNat

/-- The copy that an instruction of a direction asks for: 0 CPY, 1 CPYO, 2 CPYR (R190). -/
def Issue.copyOf (c : Issue) (dir : Nat) : Copy :=
  let rowbytes := c.copyShape % 65536 + 1
  let rows := c.copyShape / 65536 + 1
  let noPitch := c.e.c = 0x10F
  let p1 := c.warp.gReg c.e.c.toNat
  let p2 := c.warp.gReg (c.e.c.toNat + 1)
  let b := (c.rd c.e.b 0).toNat
  let pitch2 := if noPitch then rowbytes else p2.toNat
  if dir = 2 then
    { dir, global := 0, gpitch := 0, soff := (c.rd c.e.a 0).toNat, spitch := if noPitch then rowbytes else p1.toNat,
      target := b / 2 ^ 21, doff := b % 2 ^ 21, dpitch := pitch2, rows, rowbytes, esize := 2 ^ c.e.fb 0 2, na := false, done := 0,
      started := false }
  else
    { dir, global := c.rd64 c.e.a 0, gpitch := if noPitch then rowbytes else p1.toInt, soff := b, spitch := pitch2,
      target := 0, doff := 0, dpitch := 0, rows, rowbytes, esize := 2 ^ c.e.fb 0 2, na := c.e.fb 2 1 = 1, done := 0,
      started := false }

/-- Bytes from the offset of a span to its end (R191). -/
def spanBytes (rows pitch rowbytes : Nat) : Nat := (rows - 1) * pitch + rowbytes

/-- The workgroup that a CPYR writes. -/
def State.copyTarget (s : State) (w : Warp) (x : Copy) : Option Nat := if 4 ≤ x.target then none else s.peerWg w x.target

/-- The scratchpad spans of a copy: workgroup, offset, bytes; the destination of CPYR second. -/
def State.copySpans (s : State) (w : Warp) (x : Copy) : List (Nat × Nat × Nat) :=
  (w.wg, x.soff, spanBytes x.rows x.spitch x.rowbytes) ::
    (if x.dir = 2 then
      match s.copyTarget w x with
      | some n => [(n, x.doff, spanBytes x.rows x.dpitch x.rowbytes)]
      | none => []
    else [])

/-- The checks of R191 items 1 and 2, in order. What SVA holds for a span the rule does not say: DESIGN CHOICE, the span's first
offset, or the whole of B for a CPYR destination (assumption 104). -/
def State.copyTrap (s : State) (w : Warp) (x : Copy) (b : Nat) : Option Trap :=
  let out (q : Nat × Nat × Nat) : Bool := match s.wg? q.1 with | some g => g.alloc < q.2.1 + q.2.2 | none => true
  let spans := s.copySpans w x
  let e := x.esize
  if (spans.take 1).any out then some (scratchTrap 0x06 [(0, x.soff)] (x.dir = 0))
  else if (spans.drop 1).any out ∨ (x.dir = 2 ∧ spans.length = 1) then some (scratchTrap 0x06 [(0, b)] true)
  else if x.dir ≠ 2 ∧ (x.global.toNat % e ≠ 0 ∨ x.gpitch % (e : Int) ≠ 0) then
    some { cause := 0x09, sub := 0x01, va := [(0, x.global)], write := x.dir = 1 }
  else if x.soff % e ≠ 0 ∨ x.spitch % e ≠ 0 ∨ x.rowbytes % e ≠ 0 then some (scratchTrap 0x09 [(0, x.soff)] (x.dir = 0))
  else if x.doff % e ≠ 0 ∨ x.dpitch % e ≠ 0 then some (scratchTrap 0x09 [(0, b)] true)
  else none

/-- A copy of a direction issues (R191): a span that the issuing core sees engine-owned makes it wait (R181). -/
def Issue.copyGo (c : Issue) (s : State) (dir : Nat) : State :=
  let x := c.copyOf dir
  let s := if dir = 2 then s.seeFlips c.warp.core else s
  let spans := s.copySpans c.warp x
  let owned := spans.any fun q => match s.wg? q.1 with | some g => g.ownedFor s.timer c.warp.core q.2.1 q.2.2 | none => false
  if dir ≠ 2 ∧ c.warp.walker then c.trap s walkerTrap
  else if c.em = 0 then c.leave s
  else
    match s.copyTrap c.warp x (c.rd c.e.b 0).toNat with
    | some t => c.trap s t
    | none =>
      if owned then c.stall s .granules
      else if 80 ≤ (s.core c.warp.core).copies.length then c.stall s .engine
      else if c.full .C then c.stall s .counter
      else
        let go (s : State) : State :=
          let gs := (spans.flatMap fun q => (granulesOf q.2.1 q.2.2).map fun g => (q.1, g)).eraseDups
          let s : State := (s.flipEngine gs).modCore c.warp.core fun y => { y with copies := y.copies ++ [(c.w, s.nextId)] }
          c.leave (c.enqueue s (some .C) [] (.copy x) gs)
        if dir = 1 then
          c.writing s ((List.range x.rows).map fun (r : Nat) => ((BitVec.ofInt 64 ((x.global.toNat : Int) + r * x.gpitch)).toNat, x.rowbytes)) go
        else go s

/-- CPY (R190, R191). -/
def execCpy (e : Enc) (s : State) : Host.Outcome State Fault Refusal := runIsa formCpy e (fun c s => c.copyGo s 0) s
/-- CPYO (R190, R191). -/
def execCpyo (e : Enc) (s : State) : Host.Outcome State Fault Refusal := runIsa formCpyo e (fun c s => c.copyGo s 1) s
/-- CPYR (R190, R191). -/
def execCpyr (e : Enc) (s : State) : Host.Outcome State Fault Refusal := runIsa formCpyr e (fun c s => c.copyGo s 2) s

/-! ### Events of the copy engine -/

/-- A lane access to granules of an engine operation that issued before it has still to be performed (R180). -/
def State.laneBusy (s : State) (id : Nat) (gs : List (Nat × Nat)) : Bool :=
  s.warps.any fun x => x.2.pend.any fun q =>
    q.id < id && !q.done &&
      (let touches (a n : Nat) : Bool :=
        match s.windowTarget x.2 a 1 with
        | some (wg, o) => (granulesOf o n).any fun g => gs.contains (wg, g)
        | none => false
       match q.body with
       | .ldr offs size _ => offs.any fun o => touches o.2 size
       | .str bytes => bytes.any fun b => touches b.1 1
       | .atomLocal offs ty _ _ _ _ => offs.any fun o => (granulesOf o.2 (typeBytes ty)).any fun g => gs.contains (x.2.wg, g)
       | _ => false)

/-- The copies that the engine of a core runs now (R189). -/
def Core.running (x : Core) : List (Nat × Nat) := x.copies.take 16

/-- The bytes of a scratchpad from an offset. -/
def State.scratchBytes (s : State) (wg off n : Nat) : List Byte :=
  match s.wg? wg with
  | some x => bytesOf n (x.sp.readNat off n)
  | none => []

/-- Bytes put into a scratchpad. -/
def State.putScratch (s : State) (wg off : Nat) (bs : List Byte) : State :=
  s.modWg wg fun x => x.put ((bs.zip (List.range bs.length)).map fun b => (off + b.2, b.1))

/-- The address of a row of a copy's global side. -/
def Copy.rowVa (y : Copy) (r : Nat) : DWord := BitVec.ofInt 64 ((y.global.toNat : Int) + r * y.gpitch)

/-- The copy has written a row. -/
def Copy.nextRow (y : Copy) : Copy := { y with done := y.done + 1, buf := [] }

/-- Bytes of a row from an address that one access of the copy engine moves: those in one line (10 R237). -/
def Copy.run (y : Copy) (va : DWord) (moved : Nat) : Nat := min (y.rowbytes - moved) (128 - va.toNat % 128)

/-- The poison of the scratchpad's side of a row (26 R502). -/
def State.scratchMark (s : State) (wg off n : Nat) : Nat := match s.wg? wg with | some g => g.mark off n | none => 0

/-- One access of a copy (R191, 10 R237): a row is read whole before it is written, line by line on its global side, at once in a scratchpad,
whose granules the engine owns. What the copy has then done, and whether it waits or is held there. -/
def State.copyMove (s : State) (w : Nat) (x : Warp) (p : PendOp) (y : Copy) : State × Copy × EngRes :=
  let so := y.soff + y.done * y.spitch
  if y.dir = 0 then
    let va := y.rowVa y.done + BitVec.ofNat 64 y.buf.length
    match s.engineRead w x p y.esize va (y.run va y.buf.length) (!y.na) with
    | (s, .ok bs) =>
      let buf := y.buf ++ bs
      if buf.length < y.rowbytes then (s, { y with buf }, .ok []) else (s.putScratch x.wg so buf, y.nextRow, .ok [])
    | (s, a) => (s, y, a)
  else if s.scratchMark x.wg so y.rowbytes ≠ 0 then (s, y, .fault 0x11 0x01 (if y.dir = 1 then y.rowVa y.done else BitVec.ofNat 64 so))
  else if y.dir = 1 then
    let buf := if y.buf.isEmpty then s.scratchBytes x.wg so y.rowbytes else y.buf
    let va := y.rowVa y.done + BitVec.ofNat 64 (y.rowbytes - buf.length)
    let n := y.run va (y.rowbytes - buf.length)
    match s.engineWrite w x p y.esize va (buf.take n) (!y.na) with
    | (s, .ok _) => if buf.length ≤ n then (s, y.nextRow, .ok []) else (s, { y with buf := buf.drop n }, .ok [])
    | (s, a) => (s, { y with buf }, a)
  else
    match s.copyTarget x y with
    | some t => (s.putScratch t (y.doff + y.done * y.dpitch) (s.scratchBytes x.wg so y.rowbytes), y.nextRow, .ok [])
    | none => (s, y.nextRow, .ok [])

/-- The next access of a copy is its last, or it has made that. -/
def Copy.finishing (y : Copy) : Bool :=
  y.rows ≤ y.done || (y.rows ≤ y.done + 1 &&
    (let moved := if y.dir = 0 ∨ y.buf.isEmpty then y.buf.length else y.rowbytes - y.buf.length
     y.dir = 2 || y.rowbytes ≤ moved + y.run (y.rowVa y.done + BitVec.ofNat 64 moved) moved))

/-- The accesses that a copy can need, as a bound. -/
def Copy.bound (y : Copy) : Nat := y.rows * (y.rowbytes / 128 + 2) + 1

/-- A copy carried on to its end: the state, what it has then done, and a fault or a wait where it stops. -/
def State.copyRest (s : State) (w : Nat) (x : Warp) (p : PendOp) (y : Copy) (fuel : Nat) : State × Copy × EngRes :=
  match fuel with
  | 0 => (s, y, .ok [])
  | n + 1 =>
    if y.rows ≤ y.done then (s, y, .ok [])
    else
      match s.copyMove w x p y with
      | (s, y, .ok _) => s.copyRest w x p y n
      | a => a

/-- A copy's granules that another engine operation, issued before it, still owns: its writes are held there (R181). -/
def State.copyHeld (s : State) (p : PendOp) : Bool := p.granules.any fun g => s.engineOwned g.1 g.2 && s.claimedBy p.id g

/-- A copy has come so far, or is held at a fault, sub-cause 0x10 (R193). -/
def State.copyAt (s : State) (w op : Nat) (y : Copy) (r : EngRes) : State :=
  let s : State := s.modWarp w fun x => x.modOp op fun p => { p with body := .copy y }
  match r with
  | .fault cause sub va => s.modWarp w fun x => x.modOp op fun p => { p with held := some (heldBy 0x10 cause sub va) }
  | _ => s

/-- COPY_START (R180, R191): the engine begins a copy once the lane accesses issued before it are performed; a copy that it has begun
it carries on by an access, but the last. -/
def execCopyStart (w op : Nat) (s : State) : Host.Outcome State Fault Refusal :=
  .next (match s.warp? w with
    | none => s
    | some x =>
      match x.op? op with
      | none => s
      | some p =>
        match p.body with
        | .copy y =>
          if !y.started then
            if (s.core x.core).running.contains (w, op) && !s.laneBusy op p.granules then
              s.modWarp w fun x => x.modOp op fun p => { p with body := .copy { y with started := true } }
            else s
          else if p.held.isSome || s.copyHeld p || y.finishing then s
          else
            let r := s.copyMove w x p y
            r.1.copyAt w op r.2.1 r.2.2
        | _ => s)

/-- COPY_COMPLETE (R191, R193): the rows still to be written are; the copy completes, or is held at a fault, sub-cause 0x10. -/
def execCopyComplete (w op : Nat) (s : State) : Host.Outcome State Fault Refusal :=
  .next (match s.warp? w with
    | none => s
    | some x =>
      match x.op? op with
      | none => s
      | some p =>
        match p.body with
        | .copy y =>
          if !y.started || p.held.isSome || s.copyHeld p then s
          else
            let r := s.copyRest w x p y y.bound
            let s : State := r.1.copyAt w op r.2.1 r.2.2
            (match r.2.2 with
             | .ok _ => (s.modCore x.core fun k => { k with copies := k.copies.filter fun c => c ≠ (w, op) }).completeOp w p
             | _ => s)
        | _ => s)

/-! ### Waiting -/

/-- PATH of R63. -/
def pathOf (n : Nat) : Path :=
  if n = 0 then .G else if n = 1 then .S else if n = 2 then .C else if n = 3 then .X else if n = 4 then .T else .Q

/-- The operations of a path that must complete for its counter to fall to a threshold. -/
def Warp.toComplete (w : Warp) (p : Path) (thr : Nat) : List PendOp := (w.pend.filter fun q => q.path = some p).take (w.counter p - thr)

/-- The oldest held fault among the operations that a WAITC waits for (R193, R198, 13 R310). -/
def Warp.waitHeld (w : Warp) (p : Path) (thr : Nat) : Option (PendOp × HeldFault) :=
  (w.heldOps [p]).find? fun h => (w.toComplete p thr).any fun q => q.id = h.1.id

/-- The threshold of WAITC. -/
def Issue.threshold (c : Issue) : Nat := if c.e.fb 9 1 = 1 then min (c.rd c.e.a 0).toNat 63 else c.e.fb 3 6

/-- WAITC (R185). -/
def execWaitc (e : Enc) (s : State) : Host.Outcome State Fault Refusal :=
  runIsa formWaitc e (fun c s =>
    let p := pathOf (e.fb 0 3)
    if c.em = 0 ∨ c.warp.counter p ≤ c.threshold then c.leave s
    else
      match c.warp.waitHeld p c.threshold with
      | some (q, h) => (c.trap s (h.trap c.sp)).giveHeld c.w c.k q.id
      | none => c.block s (.counter p c.threshold)) s

/-- WAITC_WAKE (R185): the split goes on where its counter has fallen; a fault held since among the operations it waits for is
delivered to it (R193). -/
def execWaitcWake (w k : Nat) (s : State) : Host.Outcome State Fault Refusal :=
  .next (match (s.warp? w).bind fun x => (x.split? k).map fun sp => (x, sp) with
    | none => s
    | some (x, sp) =>
      match sp.wait with
      | .counter p thr =>
        if !x.runs then s
        else if x.counter p ≤ thr then s.resumeSplit w k
        else
          (match x.waitHeld p thr with
           | some (q, h) => (s.waitTrap w k (h.trap sp) sp.waitAt).giveHeld w k q.id
           | none => s)
      | _ => s)

/-- GRANULE_WAIT_END (R180): a split stalled on engine-owned granules is ready to issue again. -/
def execGranuleWaitEnd (w k : Nat) (s : State) : Host.Outcome State Fault Refusal :=
  .next (match (s.warp? w).bind (·.split? k) with
    | some sp => if sp.wait = .stall .granules then s.retrySplit w k else s
    | none => s)

end Sys2Proof.Machine
end

