-- ==== Sys2Proof/Machine/Queue.lean ====
section
/-!
DEFINITION. Named queues (08 R194 to R202).
-/
namespace Sys2Proof.Machine

/-! ### Headers -/

/-- A queue entry never bound (R194). -/
def QueueEntry.unbound : QueueEntry := { bound := false, header := 0, tags := [], pushers := [], poppers := [] }

/-- A queue of a workgroup. -/
def Workgroup.queue (x : Workgroup) (q : Nat) : QueueEntry := (Tab.get? x.queues q).getD .unbound

/-- A queue changed. -/
def State.modQueue (s : State) (wg q : Nat) (f : QueueEntry → QueueEntry) : State :=
  s.modWg wg fun x => { x with queues := Tab.set x.queues q (f (x.queue q)) }

/-- The values of a bound queue's header as they stand (R195). -/
structure Header where
  head : Nat
  tail : Nat
  cap : Nat
  scope : Nat
deriving DecidableEq, Repr

/-- The header of a queue. -/
def Workgroup.header (x : Workgroup) (q : Nat) : Header :=
  let o := (x.queue q).header
  { head := x.sp.readNat o 4, tail := x.sp.readNat (o + 4) 4, cap := x.sp.readNat (o + 8) 4, scope := x.sp.readNat (o + 12) 4 }

/-- Entries held: TAIL - HEAD mod 2^32. -/
def Header.count (h : Header) : Nat := (h.tail + 2 ^ 32 - h.head) % 2 ^ 32

/-- The values make a queue (R195). -/
def Header.sound (h : Header) : Bool := 1 ≤ h.cap && h.cap ≤ 256 && h.count ≤ h.cap

/-- Cause 0x10 (R202). -/
def queueTrap (sub : Nat) : Trap := { cause := 0x10, sub }

/-- A push (at TAIL) or a pop (at HEAD) of n handles touches an engine-owned granule: by the header, or by its ring slots (R180). -/
def Workgroup.queueOwned (x : Workgroup) (q from_ n : Nat) : Bool :=
  let h := x.header q
  let o := (x.queue q).header
  x.owned o 32 || (List.range n).any fun k => x.owned (o + 32 + 4 * ((from_ + k) % 2 ^ 32 % h.cap)) 4

/-- The fault of a local push (from TAIL) or pop (from HEAD) of n handles on a bound queue (R195, R198, R199, R180). What SVA holds
for cause 0x08 the rules do not say: DESIGN CHOICE, the header's offset (assumption 105). -/
def Workgroup.queueFault (x : Workgroup) (q from_ n : Nat) (em : Word) : Option Trap :=
  let h := x.header q
  let o := (x.queue q).header
  if !h.sound then some (queueTrap 0x03)
  else if h.cap < n then some (queueTrap 0x02)
  else if x.queueOwned q from_ n then some { cause := 0x08, lanes := some em, va := (lanesOf em).map fun i => (i, BitVec.ofNat 64 o), write := true }
  else none

/-- Values appended as one act, each slot tagged with a scope (R198). Where software has raised CAP so that the ring runs past ALLOC, the
bytes beyond are written all the same: the rules are silent (R195; DESIGN CHOICE, assumption 106). -/
def State.append (s : State) (wg q sc : Nat) (vals : List Word) : State :=
  match s.wg? wg with
  | none => s
  | some x =>
    let h := x.header q
    let o := (x.queue q).header
    let slots := (List.range vals.length).map fun k => (h.tail + k) % 2 ^ 32 % h.cap
    let bytes := (slots.zip vals).flatMap fun p => cellsOf (o + 32 + 4 * p.1) 4 p.2.toNat
    (s.modWg wg fun x => x.put (bytes ++ cellsOf (o + 4) 4 ((h.tail + vals.length) % 2 ^ 32))).modQueue wg q fun e =>
      { e with tags := slots.foldl (fun t k => Tab.set t k sc) e.tags }

/-- A split's place among the pushers of a queue. -/
def QueueEntry.pushAt (x : QueueEntry) (w k : Nat) : Option Nat := x.pushers.findIdx? fun p => p = (w, k, false)

/-- A split joins the pushers, keeping a place it has. -/
def QueueEntry.joinPush (x : QueueEntry) (w k : Nat) : QueueEntry :=
  if (x.pushAt w k).isSome then x else { x with pushers := x.pushers ++ [(w, k, false)] }

/-- The release of a local push has begun (R198). -/
def QueueEntry.beginRelease (x : QueueEntry) (w k : Nat) : QueueEntry :=
  if x.releasing.contains (w, k) then x else { x with releasing := x.releasing ++ [(w, k)] }

/-- A push of the workgroup stands in its release to a queue (R198): its split still stalls. -/
def State.pushReleasing (s : State) (e : QueueEntry) : Bool :=
  e.releasing.any fun p => match (s.warp? p.1).bind fun x => x.split? p.2 with
    | some sp => (match sp.wait with | .stall _ => true | _ => false)
    | none => false

/-! ### QINIT -/

/-- QINIT (R196). -/
def execQinit (e : Enc) (s : State) : Host.Outcome State Fault Refusal :=
  runIsa formQinit e (fun c s =>
    match (if c.em = 0 then none else s.wg? c.warp.wg) with
    | none => c.leave s
    | some x =>
      let q := e.fb 0 4
      let cap := e.fb 4 8 + 1
      let sc := e.fb 12 3
      let o := (c.rd e.a 0).toNat
      let old := x.queue q
      if x.qcount ≤ q then c.trap s (queueTrap 0x01)
      else if !(sc = 1 || sc = 2) || o % 32 ≠ 0 || x.alloc < o + 32 + 4 * cap then c.trap s (queueTrap 0x04)
      else if x.owned o (32 + 4 * cap) then
        c.trap s { cause := 0x08, va := [(0, BitVec.ofNat 64 o)], write := true }
      else if old.bound && ((x.header q).count ≠ 0 || !old.pushers.isEmpty || s.pushReleasing old) then c.trap s (queueTrap 0x05)
      else
        let bytes := cellsOf o 8 0 ++ cellsOf (o + 8) 4 cap ++ cellsOf (o + 12) 4 sc ++ cellsOf (o + 16) 16 0
        let s : State := s.modWg c.warp.wg fun x => x.put bytes
        c.leave (s.modQueue c.warp.wg q fun x => { x with bound := true, header := o, tags := [] })) s

/-! ### QPUSH -/

/-- The handles of a push in lane order (R198). -/
def Issue.handles (c : Issue) : List Word := c.lanes.map fun i => c.rd c.e.a i

/-- The status of an instruction with .try written at issue. -/
def Issue.tryStatus (c : Issue) (s : State) (v : Word) : State :=
  if c.e.fb 4 1 = 0 then s
  else c.warpDo s fun w => c.lanes.foldl (fun w i => c.putWords w c.e.d.toNat i [v]) w

/-- What a push waits for: an S or Q operation of the warp that has not completed (R198), and, for a push is a release, one of path G (10 R230,
R233; assumption 133). -/
def Warp.pushWaits (w : Warp) : Bool := w.undrained

/-- The release of a push at a scope: what it must wait for, or the state with the column clean (R198, R200). -/
def Issue.pushRelease (c : Issue) (s : State) (sc : Nat) : State × Option Stall :=
  if c.warp.pushWaits then (s, some .drain)
  else if sc < 2 then (s, none)
  else match s.cleanColumn c.warp.core fun _ => true with
    | (s, true) => (s, none)
    | (s, false) => (s, some .snoop)

/-- A local push (R198). Waiting pushes go first; a push in its release does not wait in this sense. -/
def Issue.pushLocal (c : Issue) (s : State) (x : Workgroup) (q : Nat) : State :=
  let vals := c.handles
  let try_ := c.e.fb 4 1 = 1
  let wg := c.warp.wg
  let done (s : State) : State := s.modQueue wg q fun e => e.endRelease c.w c.k
  if !(x.queue q).bound then
    if try_ then c.leave (c.tryStatus s 0)
    else c.block (s.modQueue wg q fun e => e.joinPush c.w c.k) (.push q none [] c.waitAt)
  else
    match x.queueFault q (x.header q).tail vals.length c.em with
    | some t => c.trap (done s) t
    | none =>
      let s : State := s.modQueue wg q fun e => e.beginRelease c.w c.k
      let sc := (x.header q).scope
      match c.pushRelease s sc with
      | (s, some y) => c.stall s y
      | (s, none) =>
        let h := x.header q
        if (x.queue q).pushers.isEmpty && vals.length ≤ h.cap - h.count then c.leave (c.tryStatus (done (s.append wg q sc vals)) 1)
        else if try_ then c.leave (c.tryStatus (done s) 0)
        else c.block ((done s).modQueue wg q fun e => e.joinPush c.w c.k) (.push q (some sc) (c.lanes.zip vals) c.waitAt)

/-- A remote push (R197, R198). -/
def Issue.pushRemote (c : Issue) (s : State) (q : Nat) : State :=
  let target := (c.rd c.e.b c.first).toNat
  match (if 4 ≤ target then none else s.peerWg c.warp target) with
  | none =>
    c.trap s { cause := 0x06, sub := 0x11, lanes := some c.em, va := (lanesOf c.em).map fun i => (i, BitVec.ofNat 64 target),
               write := true }
  | some _ =>
    if c.full .Q then c.stall s .counter
    else
      match c.pushRelease s 2 with
      | (s, some y) => c.stall s y
      | (s, none) =>
        let dsts := if c.e.fb 4 1 = 1 then c.dsts c.e.d c.lanes 1 else []
        c.leave (c.enqueue s (some .Q) dsts (.push target q c.handles (c.e.fb 4 1 = 1) false))

/-- QPUSH (R198). -/
def execQpush (e : Enc) (s : State) : Host.Outcome State Fault Refusal :=
  runIsa formQpush e (fun c s =>
    match (if c.em = 0 then none else s.wg? c.warp.wg) with
    | none => c.leave (s.leaveQueues c.warp.wg c.w c.k)
    | some x =>
      let q := e.fb 0 4
      if x.qcount ≤ q then c.trap s (queueTrap 0x01)
      else if e.fb 5 1 = 1 then c.pushRemote s q
      else c.pushLocal s x q) s

/-- A local push that waits on an unbound queue. -/
def State.waitsUnbound (s : State) (p : Nat × Nat × Bool) : Bool :=
  !p.2.2 && (match (s.warp? p.1).bind fun x => x.split? p.2.1 with
    | some sp => (match sp.wait with | .push _ none _ _ => true | _ => false)
    | none => false)

/-- QPUSH_WAKE (R198): a push that waited on an unbound queue issues again from the top once it is bound, the first of those first; one
that waited for room appends in its turn, and goes on waiting while the granules that it touches are engine-owned (R180 names no
waiting push: DESIGN CHOICE, assumption 103). -/
def execQpushWake (w k : Nat) (s : State) : Host.Outcome State Fault Refusal :=
  .next (match (s.warp? w).bind fun x => (x.split? k).bind fun sp => (s.wg? x.wg).map fun g => (x, sp, g) with
    | none => s
    | some (x, sp, g) =>
      match sp.wait with
      | .push q none _ _ =>
        let e := g.queue q
        if x.runs && e.bound && (e.pushers.find? s.waitsUnbound) = some (w, k, false) then
          (s.modQueue x.wg q fun e => e.leavePush w k).retrySplit w k
        else s
      | .push q (some sc) vals at_ =>
        let e := g.queue q
        if !x.runs || !e.bound || e.pushAt w k != some 0 then s
        else
          let h := g.header q
          if !h.sound then
            (s.modQueue x.wg q fun e => e.leavePush w k).waitTrap w k (queueTrap 0x03) at_
          else if vals.length ≤ h.cap - h.count && !g.queueOwned q h.tail vals.length then
            ((s.append x.wg q sc (vals.map (·.2))).modQueue x.wg q fun e => e.leavePush w k).resumeSplit w k
          else s
      | _ => s)

/-! ### Remote pushes at their target -/

/-- The status of a remote push, for one with .try. -/
def Warp.pushStatus (w : Warp) (p : PendOp) (v : Word) : Warp := w.applyResult p ((List.range 32).map fun i => (i, [v], 0))

/-- A remote push discarded at its target with its fault held for the sender (R198). -/
def State.holdPush (s : State) (w : Nat) (p : PendOp) (target q sub : Nat) : State :=
  s.modWarp w fun x => (x.pushStatus p 0).modOp p.id fun p =>
    { p with dsts := [], held := some { cause := 0x10, sub, addr := BitVec.ofNat 64 (target + 16 * q) } }

/-- A remote push tried at its target (R198): it must be the first to wait there, or find nobody waiting. -/
def State.tryPush (s : State) (w : Nat) (p : PendOp) (wg target q : Nat) (vals : List Word) (try_ arrived : Bool) : State :=
  match s.wg? wg with
  | none => s
  | some g =>
    let e := g.queue q
    let h := g.header q
    let leave (s : State) : State := s.modQueue wg q fun e => { e with pushers := e.pushers.filter fun x => x ≠ (w, p.id, true) }
    let fail (s : State) : State := (s.modWarp w fun x => x.pushStatus p 0).completeOp w p
    let hold (s : State) : State :=
      if arrived then s
      else (s.modQueue wg q fun e => { e with pushers := e.pushers ++ [(w, p.id, true)] }).modWarp w fun x =>
        x.modOp p.id fun p => { p with body := .push target q vals try_ true }
    if e.bound && !h.sound then (leave s).holdPush w p target q 0x03
    else if e.bound && h.cap < vals.length then if try_ then fail (leave s) else (leave s).holdPush w p target q 0x06
    else if e.bound && vals.length ≤ h.cap - h.count && (e.pushers.isEmpty || e.pushers.head? = some (w, p.id, true)) then
      let s : State := leave (s.append wg q (max 2 h.scope) vals)
      (s.modWarp w fun x => x.pushStatus p 1).completeOp w p
    else if try_ then fail s
    else hold s

/-- REMOTE_PUSH_ARRIVAL (R198): held at the target while the granules it touches are engine-owned (R180 and R181 name no remote push:
DESIGN CHOICE, assumption 103). -/
def execRemotePushArrival (w op : Nat) (s : State) : Host.Outcome State Fault Refusal :=
  .next (match s.warp? w with
    | none => s
    | some x =>
      match x.op? op with
      | none => s
      | some p =>
        match p.body with
        | .push target q vals try_ false =>
          (match s.peerWg x target with
           | some wg =>
             (match s.wg? wg with
              | some g =>
                if p.held.isSome || x.halted || (match Tab.get? s.gangs x.gang with | some g => g.saved.isSome | none => false) || !x.qFirst p || ((g.queue q).bound && g.queueOwned q (g.header q).tail vals.length) then s
                else s.tryPush w p wg target q vals try_ false
              | none => s)
           | none => s)
        | _ => s)

/-- REMOTE_PUSH_APPEND (R198): the remote push that waits first at a queue. -/
def execRemotePushAppend (wg q : Nat) (s : State) : Host.Outcome State Fault Refusal :=
  .next (match s.wg? wg with
    | none => s
    | some g =>
      match (g.queue q).pushers.head? with
      | some (w, op, true) =>
        (match (s.warp? w).bind fun x => x.op? op with
         | some p =>
           (match p.body with
            | .push target _ vals try_ true =>
              if (g.queue q).bound && g.queueOwned q (g.header q).tail vals.length then s
              else s.tryPush w p wg target q vals try_ true
            | _ => s)
         | none => s)
      | _ => s)

/-! ### QPOP -/

/-- The oldest n entries of a queue with their poison, and the widest scope tagged on them. -/
def Workgroup.peekQueue (x : Workgroup) (q n : Nat) : List (Word × Nat) × Nat :=
  let h := x.header q
  let o := (x.queue q).header
  let slots := (List.range n).map fun k => (h.head + k) % 2 ^ 32 % h.cap
  (slots.map fun k => (BitVec.ofNat 32 (x.sp.readNat (o + 32 + 4 * k) 4), x.mark (o + 32 + 4 * k) 4),
   slots.foldl (fun m k => max m ((Tab.get? (x.queue q).tags k).getD 1)) 1)

/-- Entries taken: HEAD rises (R199). -/
def State.takeQueue (s : State) (wg q n : Nat) : State :=
  s.modWg wg fun x => x.put (cellsOf (x.queue q).header 4 (((x.header q).head + n) % 2 ^ 32))

/-- The lanes' results of a pop: handle, and status where .try asks for it, with the handle's poison (26 R502). -/
def popWords (lanes : List Nat) (vals : List (Word × Nat)) : List (Nat × List Word × Nat) :=
  (lanes.zip vals).map fun p => (p.1, [p.2.1, 1], p.2.2)

/-- QPOP (R199): the handles and the status reach their registers as an interlocked result. -/
def execQpop (e : Enc) (s : State) : Host.Outcome State Fault Refusal :=
  runIsa formQpop e (fun c s =>
    match (if c.em = 0 then none else s.wg? c.warp.wg) with
    | none => c.leave s
    | some x =>
      let q := e.fb 0 4
      let n := c.lanes.length
      let try_ := e.fb 4 1 = 1
      let dsts := c.dsts e.d c.lanes (1 + e.fb 4 1)
      let t := x.queue q
      let h := x.header q
      if x.qcount ≤ q then c.trap s (queueTrap 0x01)
      else
        match (if t.bound then x.queueFault q h.head n c.em else none) with
        | some f => c.trap s f
        | none =>
          if t.bound && n ≤ h.count && t.poppers.isEmpty then
            let p := x.peekQueue q n
            match s.acquireAt c.warp.core p.2 with
            | (s, false) => c.stall s .snoop
            | (s, true) => c.leave (c.enqueue (s.takeQueue c.warp.wg q n) none dsts (.words (popWords c.lanes p.1)))
          else if try_ then
            c.leave (c.enqueue s none (dsts.filter fun d => d.word = 1) (.words (c.lanes.map fun i => (i, [0, 0], 0))))
          else
            c.block (c.enqueue (s.modQueue c.warp.wg q fun y => { y with poppers := y.poppers ++ [(c.w, c.k)] }) none dsts .slot)
              (.pop q c.lanes s.nextId c.waitAt)) s

/-- QPOP_WAKE (R199): the pop that waits first takes its entries; it goes on waiting while the granules that it touches are engine-owned
(R180 names no waiting pop: DESIGN CHOICE, assumption 103). -/
def execQpopWake (w k : Nat) (s : State) : Host.Outcome State Fault Refusal :=
  .next (match (s.warp? w).bind fun x => (x.split? k).bind fun sp => (s.wg? x.wg).map fun g => (x, sp, g) with
    | none => s
    | some (x, sp, g) =>
      match sp.wait with
      | .pop q lanes slot at_ =>
        let n := lanes.length
        let e := g.queue q
        let h := g.header q
        if !x.runs || !e.bound || e.poppers.head? ≠ some (w, k) || g.queueOwned q h.head n then s
        else if !h.sound then ((s.modQueue x.wg q fun e => e.leavePop w k).dropSlot w slot).waitTrap w k (queueTrap 0x03) at_
        else if n ≤ h.count then
          let p := g.peekQueue q n
          match s.acquireAt x.core p.2 with
          | (s, false) => s
          | (s, true) =>
            let s : State := (s.takeQueue x.wg q n).modQueue x.wg q fun e => e.leavePop w k
            (s.fillSlot w slot (popWords lanes p.1)).resumeSplit w k
        else s
      | _ => s)

end Sys2Proof.Machine
end

