-- ==== Sys2Proof/Machine/Atomic.lean ====
section
/-!
DEFINITION. Atomics, fences, ticket dispensers, line monitors and token passes (11 R244 to R262), and their events.
-/
namespace Sys2Proof.Machine

/-! ### Places (R244 to R246) -/

/-- Where an operation on a name at a scope is performed. -/
inductive At where
  | column | cluster | home
deriving DecidableEq, Repr

/-- The place of a scope (R244). A Grotto page has one copy, whatever the place. -/
def atOf (scope : Nat) : At := if scope < 2 then .column else if scope = 2 then .cluster else .home

/-- A line leaves a cluster unit that is full (256 lines): DESIGN CHOICE, one of its lines, which the spec does not say (assumption 107), is
written back and dropped; false while a host half stands in the way. -/
def State.clusterRoom (s : State) (cl : Nat) : State × Bool :=
  let t := (Tab.get? s.clusters cl).getD []
  if t.length < 256 then (s, true)
  else match t[Config.choice (200 + cl) s.free % t.length]? with
    | some (k, l) =>
      let held := if l.dirty = 0 then [] else s.heldHalves k l.dirty true
      if held.isEmpty then ((if l.dirty = 0 then s else s.homeMerge k l).dropClusterLine cl k, true)
      else (s.sendSnoops held, false)
    | none => (s, true)

/-- The line in a cluster's unit, fetched with exclusive right where it is not there (R245); false while host halves stand in the
way. -/
def State.clusterFetch (s : State) (core key : Nat) : State × Bool :=
  let cl := clusterOf core
  if (s.clusterLine cl key).isSome then (s.regainUnit cl key true, true)
  else
    let held := s.refused key ++ s.recallHeld key (some cl) ++ s.heldHalves key (BitVec.allOnes 128) false
    if !held.isEmpty then (s.sendSnoops held, false)
    else
      match s.clusterRoom cl with
      | (s, false) => (s, false)
      | (s, true) =>
        let s : State := (s.recall key (some cl)).request (dieOf core) key false
        (s.setClusterLine cl key (s.homeCopy key (if hostKey key then 2 else 0)), true)

/-- The port unit holds the host halves of an act, at most 512 of them (22 R478). -/
def State.holdPort (s : State) (name : Nat) : State :=
  let pa := physOf name
  if placeOf pa = .host then
    let l := (s.port.filter fun h => h ≠ pa / 64) ++ [pa / 64]
    { s with port := l.drop (l.length - 512) }
  else s

/-- A read of n bytes at the place of a scope: value and poison; none while host halves stand in the way. -/
def State.placeRead (s : State) (core : Nat) (task : Option Nat) (scope pa n : Nat) : State × Option (Nat × Nat) :=
  match placeOf pa with
  | .grotto _ => if scope < 2 then s.readGlobal core task pa n true else (s, some (s.mem.readNat (physOf pa) n, s.memMark (physOf pa) n))
  | _ =>
    match atOf scope with
    | .column => s.readGlobal core task pa n true
    | .cluster =>
      (match s.clusterFetch core (pa / 128) with
       | (s, false) => (s, none)
       | (s, true) =>
         match s.clusterLine (clusterOf core) (pa / 128) with
         | some l => (s, some ((l.data.toNat >>> (8 * (pa % 128))) % 2 ^ (8 * n), l.mark (pa % 128) n))
         | none => (s, none))
    | .home =>
      let held := s.readHeld pa n
      if held.isEmpty then let r := (s.holdPort pa).readHome pa n (dieOf core); (r.1, some (r.2.1, r.2.2))
      else (s.sendSnoops held, none)

/-- A write of bytes of one line at the place of a scope; false while host halves stand in the way. -/
def State.placeWrite (s : State) (core : Nat) (task : Option Nat) (scope : Nat) (bs : List (Nat × Byte)) : State × Bool :=
  match bs with
  | [] => (s, true)
  | b :: _ =>
    match placeOf b.1 with
    | .grotto _ => if scope < 2 then s.writeGlobal core task bs else (s.putBytes (physBytes bs), true)
    | _ =>
      match atOf scope with
      | .column => s.writeGlobal core task bs
      | .cluster =>
        (match s.clusterFetch core (b.1 / 128) with
         | (s, false) => (s, false)
         | (s, true) =>
           match s.clusterLine (clusterOf core) (b.1 / 128) with
           | some l => let md := lineOfBytes bs; (s.setClusterLine (clusterOf core) (b.1 / 128) (l.store md.1 md.2), true)
           | none => (s, false))
      | .home =>
        let held := s.homeHeld bs
        if held.isEmpty then ((s.holdPort b.1).writeHome bs (dieOf core), true) else (s.sendSnoops held, false)

/-- Bytes of a line go bad at the place of a scope (26 R500). -/
def State.spoilPlace (s : State) (core scope key : Nat) (m : BitVec 128) : State :=
  match atOf scope with
  | .column => s.spoilCol core key m
  | .cluster => s.spoilUnit (clusterOf core) key m
  | .home => s.spoilHome key m

/-- An atomic finds an uncorrectable error in the line that it reads at its place. -/
def State.atomError (s : State) (err : Bool) (core scope key : Nat) : State :=
  if err then s.noteError.spoilPlace core scope key (s.errMask key) else s

/-- The value that an operation makes of a poisoned one is as bad, below the home, whose table keeps the line (26 R500, R503); what an exchange or
a compare-and-swap writes is good. -/
def State.stainPlace (s : State) (core scope pa n aop mark : Nat) : State :=
  if mark ≠ 1 || aop = 6 || aop = 9 || atOf scope = .home then s else s.spoilPlace core scope (pa / 128) (maskRange (pa % 128) n)

/-- An operation at cluster scope or wider issues: the column cleans its bytes of the lines to the place and drops its copies
(R246); false while host halves stand in the way. -/
def State.yieldLines (s : State) (core scope : Nat) (keys : List Nat) : State × Bool :=
  if scope < 2 then (s, true)
  else
    let held := keys.flatMap (s.writebackHeld core)
    if held.isEmpty then (keys.foldl (fun s k => (s.writeback core k).dropColLine core k) s, true) else (s.sendSnoops held, false)

/-- A read at the place of a scope after what the agent's own column holds dirty of the line has gone there, so that no older write is missed (10
R227). -/
def State.ownRead (s : State) (core : Nat) (task : Option Nat) (scope pa n : Nat) : State × Option (Nat × Nat) :=
  match s.yieldLines core scope [pa / 128] with
  | (s, false) => (s, none)
  | (s, true) => s.placeRead core task scope pa n

/-- An older operation of the core at cluster scope or wider on one of the lines is not yet performed: later atomics to it are held
(R246). -/
def State.atomicHeld (s : State) (core id : Nat) (keys : List Nat) : Bool :=
  let mine (name : Nat) : Bool := keys.any fun k => physKey k = physOf name / 128
  s.warps.any fun x => x.2.core = core && x.2.pend.any fun p =>
    p.id < id && !p.done && (match p.body with
      | .atomic lanes _ _ _ _ scope _ _ => 2 ≤ scope && lanes.any fun l => mine l.pa
      | .ticket pa _ => mine pa
      | .advance pa _ => mine pa
      | _ => false)

/-! ### The operations (R250) -/

/-- Width in bits of an atomic's type. -/
def atomBits (ty : Nat) : Nat := 8 * typeBytes ty

/-- The new value of AOP on old and b under a type; FP sums round to nearest without flags. -/
def atomNew (aop ty old b : Nat) : Nat :=
  let w := atomBits ty
  let fp := ty = 4 ∨ ty = 7
  let f : Fmt := if ty = 7 then .f64 else .f32
  let signed (x : Nat) : Int := (BitVec.ofNat w x).toInt
  let less := if ty = 0 ∨ ty = 2 then decide (signed b < signed old) else decide (b < old)
  match aop with
  | 0 => if fp then (fpCompute f 0 false [(f, old), (f, b)] (rowAdd 0)).1 else (old + b) % 2 ^ w
  | 1 => if fp then (minMax f false false old b).1 else if less then b else old
  | 2 => if fp then (minMax f false true old b).1 else if less then old else b
  | 3 => old &&& b
  | 4 => old ||| b
  | 5 => old ^^^ b
  | 6 => b
  | 7 => if b ≤ old then 0 else old + 1
  | _ => if old = 0 ∨ b < old then b else old - 1

/-- The value written, if any: AOP 9 stands for compare (b) and swap (c). -/
def atomWrite (aop ty old b c : Nat) : Option Nat := if aop = 9 then (if old = b then some c else none) else some (atomNew aop ty old b)

/-! ### ATOM, ATOMC, RED (R249 to R253) -/

/-- The operands of an atomic's lanes: b, and for ATOMC the new value. -/
def Issue.atomOperands (c : Issue) (cas : Bool) : List (Nat × DWord) × List (Nat × DWord) :=
  let ty := c.e.fb 0 4
  let n := typeNames ty
  if cas then
    (c.lanes.map fun i => (i, BitVec.ofNat 64 (natOfWords ((c.rdWords c.e.b i (2 * n)).take n))),
     c.lanes.map fun i => (i, BitVec.ofNat 64 (natOfWords ((c.rdWords c.e.b i (2 * n)).drop n))))
  else (c.lanes.map fun i => (i, BitVec.ofNat 64 (c.rdType c.e.b i ty n)), c.lanes.map fun i => (i, 0))

/-- A lane's entry of a list, zero where there is none. -/
def laneVal (l : List (Nat × DWord)) (i : Nat) : Nat := match l.find? fun p => p.1 = i with | some p => p.2.toNat | none => 0

/-- Lanes applied in ascending order to a workgroup's scratchpad banks: the workgroup after, and the old values with their poison (R247).
What is made of a poisoned value is as bad (26 R500). -/
def atomScratch (g : Workgroup) (offs : List (Nat × Nat)) (ty aop : Nat) (b c : List (Nat × DWord)) :
    Workgroup × List (Nat × Nat × Nat) :=
  offs.foldl (fun r p =>
    let n := typeBytes ty
    let old := r.1.sp.readNat p.2 n
    let mark := r.1.mark p.2 n
    let g := match atomWrite aop ty old (laneVal b p.1) (laneVal c p.1) with
      | some x => let g := r.1.put (cellsOf p.2 n x); if mark = 0 || aop = 6 || aop = 9 then g else g.spoil p.2 n
      | none => r.1
    (g, r.2 ++ [(p.1, old, mark)])) (g, [])

/-- The release side of an order at a scope, then the operation. -/
def Issue.orderRelease (c : Issue) (s : State) (ord scope : Nat) (k : State → State) : State :=
  if ord / 2 % 2 = 1 then c.releasing s scope k else k s

/-- An atomic on the scratchpad (R244, R252): counted; its lines are applied at the banks one by one. At cluster scope or wider it pins its
task (16 R364). -/
def Issue.atomLocal (c : Issue) (s : State) (aop : Nat) (path : Path) (ops : List (Nat × DWord) × List (Nat × DWord)) : State :=
  let ty := c.e.fb 0 4
  let offs := c.lanes.map fun i => (i, (c.rd c.e.a i).toNat)
  match s.wg? c.warp.wg with
  | none => c.trap s (scratchTrap 0x06 offs true)
  | some x =>
    match x.check offs (typeBytes ty) true with
    | some t => c.trap s t
    | none =>
      if c.full path then c.stall s .counter
      else
        c.orderRelease s (c.e.fb 9 2) (c.e.fb 6 3) fun s =>
          let go (s : State) : State :=
            let dsts := if path = .G then c.dsts c.e.d c.lanes (typeNames ty) else []
            c.leave (c.enqueue s (some path) dsts
              (.atomLocal offs ty aop ops.1 ops.2 (if c.e.fb 9 2 % 2 = 1 then c.e.fb 6 3 else 5)))
          if 2 ≤ c.e.fb 6 3 then c.pinning s go else go s

/-- An atomic on global memory whose lanes are admitted (R253). -/
def Issue.atomOn (c : Issue) (s : State) (aop : Nat) (path : Path) (ops : List (Nat × DWord) × List (Nat × DWord)) (scope : Nat)
    (lanes : List LaneAddr) (toks : List Nat) : State :=
  let ty := c.e.fb 0 4
  if c.full path then c.stall s .counter
  else
    c.orderRelease s (c.e.fb 9 2) (c.e.fb 6 3) fun s =>
      let go (s : State) : State :=
        match s.yieldLines c.warp.core scope ((lanes.map fun l => l.pa / 128).foldl setAdd []) with
        | (s, false) => c.stall s .snoop
        | (s, true) =>
          let s : State := s.askTokens c.warp.core toks
          let dsts := if path = .G then c.dsts c.e.d (lanes.map (·.lane)) (typeNames ty) else []
          c.leave (c.enqueue s (some path) dsts
            (.atomic lanes ty aop ops.1 ops.2 scope (if c.e.fb 9 2 % 2 = 1 then c.e.fb 6 3 else 5) []) [] toks)
      if 2 ≤ scope then c.pinning s go else c.writing s (lanes.map fun l => (l.va.toNat, typeBytes ty)) go

/-- The operations that peer memory takes (22 R481). -/
def peerTakes (aop ty : Nat) (red : Bool) : Bool := !red && ((aop = 0 && ty < 4) || aop = 6 || aop = 9)

/-- ATOM, ATOMC and RED issue (R253; a walker's by 19 R420). -/
def Issue.atomGo (c : Issue) (s : State) (aop : Nat) (path : Path) : State :=
  let ty := c.e.fb 0 4
  let size := typeBytes ty
  let ops := c.atomOperands (aop = 9)
  let scope := c.e.fb 6 3
  let flat := c.e.fb 18 1 = 1
  if c.warp.walker ∧ !flat ∧ c.e.fb 5 1 = 0 then c.trap s walkerTrap
  else if c.em = 0 then c.leave s
  else if c.e.fb 5 1 = 1 then c.atomLocal s aop path ops
  else if c.warp.walker then
    let vas := c.lanes.map fun i => (i, c.rd64 c.e.a i)
    match s.walkerCheck c.warp.core false vas size true with
    | .inl (some t) => c.trap s t
    | .inr y => c.stall s y
    | .inl none =>
      let peers := vas.filter fun p => s.isPeer p.2.toNat && !peerTakes aop ty (path = .S)
      if !peers.isEmpty then c.trap s { cause := 0x06, sub := 0x06, lanes := some (maskOf (peers.map (·.1))), va := peers, write := true }
      else c.atomOn (s.noteAdmitted c.warp.ctx (vas.filterMap fun p => match placeOf p.2.toNat with | .stack n => some n | _ => none)) aop path ops (max 3 scope) (vas.map fun p => { lane := p.1, va := p.2, pa := p.2.toNat }) (s.walkerRegions vas)
  else
    let r : State × List LaneReq :=
      if flat then (s, flatReqs (c.lanes.map fun i => (i, c.rd64 c.e.a i)))
      else
        let b := s.useBase c.w (c.e.fb 15 3)
        (b.1, baseReqs b.2 size (c.lanes.map fun i => (i, (c.rd c.e.a i).toInt)))
    match r.1.admission c { size, write := true, noView := true, noPeer := !peerTakes aop ty (path = .S) } r.2 with
    | (s, .trap t) => c.trap s t
    | (s, .stall y) => c.stall s y
    | (s, .ok lanes toks) => c.atomOn s aop path ops scope lanes toks

/-- ATOM (R253). -/
def execAtom (e : Enc) (s : State) : Host.Outcome State Fault Refusal := runIsa formAtom e (fun c s => c.atomGo s (e.fb 11 4) .G) s
/-- ATOMC (R253). -/
def execAtomc (e : Enc) (s : State) : Host.Outcome State Fault Refusal := runIsa formAtomc e (fun c s => c.atomGo s 9 .G) s
/-- RED (R253). -/
def execRed (e : Enc) (s : State) : Host.Outcome State Fault Refusal := runIsa formRed e (fun c s => c.atomGo s (e.fb 11 4) .S) s

/-- The lanes of an atomic that meet in one line applied as one act at its place (R247): the old values with their poison; none while
it cannot be performed. -/
def State.atomAct (s : State) (core : Nat) (task : Option Nat) (scope : Nat) (lanes : List LaneAddr) (ty aop : Nat)
    (b c : List (Nat × DWord)) : State × Option (List (Nat × List Word × Nat)) :=
  lanes.foldl (fun r l =>
    match r with
    | (s, none) => (s, none)
    | (s, some vs) =>
      match (if s.isPeer l.pa then (s, some (s.peerNat l.pa (typeBytes ty), 0)) else s.placeRead core task scope l.pa (typeBytes ty)) with
      | (s, none) => (s, none)
      | (s, some (old, m)) =>
        match (match atomWrite aop ty old (laneVal b l.lane) (laneVal c l.lane) with
          | some x => if s.isPeer l.pa then (s.send (.peerAtomic (physOf l.pa) ty aop (BitVec.ofNat 64 (laneVal b l.lane)) (BitVec.ofNat 64 (laneVal c l.lane))), true) else s.placeWrite core task scope (cellsOf l.pa (typeBytes ty) x)
          | none => (s, true)) with
        | (s, true) => (s.stainPlace core scope l.pa (typeBytes ty) aop m, some (vs ++ [(l.lane, wordsOf (typeNames ty) old, m)]))
        | (s, false) => (s, none)) (s, some [])

/-- Lanes of an atomic have been applied: their results are written, and with the last line the operation completes, and with it its acquire
side. -/
def State.atomDone (s : State) (w : Nat) (x : Warp) (p : PendOp) (vals : List (Nat × List Word × Nat)) (body : OpBody) (last : Bool)
    (acq : Nat) : State :=
  let s : State := s.modWarp w fun y => (y.applyResult p vals).modOp p.id fun q => { q with body }
  if !last then s
  else match s.acquireAt x.core acq with
    | (s, true) => s.completeOp w p
    | (s, false) => s

/-- The act of some lanes of an atomic at a column, a cluster unit, a Grotto page or a peer; err: words of the line
it reads have an uncorrectable error, which poisons the results of their lanes (09 R216). What an earlier operation of the core has
written in the column since the atomic issued goes to the place first (R246, 10 R227). -/
def State.atomStep (s : State) (w : Nat) (x : Warp) (p : PendOp) (now later : List LaneAddr) (ty aop : Nat)
    (b c : List (Nat × DWord)) (scope acq : Nat) (taken : Tab (BitVec 1024 × Nat)) (err : Bool) : State :=
  let keys := (now.map fun l => l.pa / 128).foldl setAdd []
  if (now.isEmpty && !later.isEmpty) || x.behind p || s.lineHeld w x.core keys || s.atomicHeld x.core p.id keys then s
  else if !s.hasTokens x.core p.toks then s.askTokens x.core p.toks
  else
    match s.yieldLines x.core scope keys with
    | (s, false) => s
    | (s, true) =>
    let s : State := s.atomError (err && !now.isEmpty) x.core scope (keys.headD 0)
    match s.atomAct x.core x.task scope now ty aop b c with
    | (s', none) => { s with snoops := s'.snoops, refusals := s'.refusals }
    | (s, some vals) =>
      (s.noteWrite p.toks).atomDone w x p vals (.atomic later ty aop b c scope acq taken) later.isEmpty acq

/-- The host halves that an atomic at the home has to have back: at system scope all of the line, else those it touches (R244). -/
def State.atomHeld (s : State) (scope : Nat) (key : Nat) (lanes : List LaneAddr) (ty : Nat) : List Nat :=
  let mask := if scope = 4 then BitVec.allOnes 128 else (lineOfBytes (lanes.flatMap fun l => cellsOf l.pa (typeBytes ty) 0)).1
  s.refused key ++ s.recallHeld key none ++ s.heldHalves key mask true

/-- The home reads a line for an atomic (10 R241): from now on the line is busy (R248). A line of a stack in which it finds an uncorrectable error
is entered in the slice's table (26 R503). -/
def State.atomTake (s : State) (w : Nat) (x : Warp) (p : PendOp) (key : Nat) (now later : List LaneAddr) (ty aop : Nat)
    (b c : List (Nat × DWord)) (scope acq : Nat) (taken : Tab (BitVec 1024 × Nat)) (err : Bool) : State :=
  if x.behind p || s.lineHeld w x.core [key] || s.atomicHeld x.core p.id [key] then s
  else if !s.hasTokens x.core p.toks then s.askTokens x.core p.toks
  else
    let held := s.atomHeld scope key now ty
    if !held.isEmpty then s.sendSnoops held
    else
      match s.yieldLines x.core scope [key] with
      | (s, false) => s
      | (s, true) =>
        let s : State := now.foldl (fun (s : State) l => s.holdPort l.pa) ((((s.recall key none).atomError err x.core scope key).mergeCheck (physKey key) 0).request (dieOf x.core) key true)
        s.modWarp w fun y => y.modOp p.id fun q =>
          { q with body := .atomic (now ++ later) ty aop b c scope acq (Tab.set taken key (let d := s.homeCopy key 0; (d.data, (now.map fun l => d.mark (l.pa % 128) (typeBytes ty)).foldl max 0))) }

/-- Lanes applied in ascending order to a line's data: the data and the bytes written, and the old values (R247). -/
def atomLine (d : BitVec 1024) (lanes : List LaneAddr) (ty aop : Nat) (b c : List (Nat × DWord)) :
    BitVec 1024 × BitVec 128 × List (Nat × Nat) :=
  lanes.foldl (fun r l =>
    let old := (r.1.toNat >>> (8 * (l.pa % 128))) % 2 ^ atomBits ty
    match atomWrite aop ty old (laneVal b l.lane) (laneVal c l.lane) with
    | some v =>
      let md := lineOfBytes (cellsOf l.pa (typeBytes ty) v)
      (mergeLine r.1 md.2 md.1, r.2.1 ||| md.1, r.2.2 ++ [(l.lane, old)])
    | none => (r.1, r.2.1, r.2.2 ++ [(l.lane, old)])) (d, 0, [])

/-- The home writes what an atomic makes of the line it has read (10 R241). -/
def State.atomPut (s : State) (w : Nat) (x : Warp) (p : PendOp) (key : Nat) (read : BitVec 1024 × Nat) (now later : List LaneAddr)
    (ty aop : Nat) (b c : List (Nat × DWord)) (scope acq : Nat) (taken : Tab (BitVec 1024 × Nat)) : State :=
  let r := atomLine read.1 now ty aop b c
  let s : State := if r.2.1 = 0 then s else s.homeWrite key r.2.1 r.1
  (s.noteWrite p.toks).atomDone w x p (r.2.2.map fun v => (v.1, wordsOf (typeNames ty) v.2, read.2))
    (.atomic later ty aop b c scope acq (Tab.erase taken key)) later.isEmpty acq

/-- The act of an atomic on one line (R247): at the home it reads the line in one step and writes it in another (10 R241). -/
def State.atomGlobal (s : State) (w : Nat) (x : Warp) (p : PendOp) (line : Nat) (lanes : List LaneAddr) (ty aop : Nat)
    (b c : List (Nat × DWord)) (scope acq : Nat) (taken : Tab (BitVec 1024 × Nat)) (err : Bool) : State :=
  let mine (l : LaneAddr) : Bool := l.pa / 128 = line && !s.isPeer l.pa
  let now := lanes.filter mine
  let later := lanes.filter fun l => !mine l
  let home := atOf scope = .home && (match placeOf (128 * line) with | .grotto _ => false | _ => true)
  match Tab.get? taken line with
  | some d => s.atomPut w x p line d now later ty aop b c scope acq taken
  | none =>
    if home && !now.isEmpty then s.atomTake w x p line now later ty aop b c scope acq taken err
    else s.atomStep w x p now later ty aop b c scope acq taken err

/-- The act of a scratchpad atomic on one line (R247), once what the same lanes issued before it on the bytes is done; err: what it reads has an
uncorrectable error (26 R502). -/
def State.atomBank (s : State) (w : Nat) (x : Warp) (p : PendOp) (line : Nat) (offs : List (Nat × Nat)) (ty aop : Nat)
    (b c : List (Nat × DWord)) (acq : Nat) (err : Bool) : State :=
  let now := offs.filter fun o => o.2 / 128 = line
  let later := offs.filter fun o => o.2 / 128 ≠ line
  if (now.isEmpty && !later.isEmpty) || s.scratchBehind x p.id p.mask (now.map fun o => (x.wg, o.2, typeBytes ty)) then s
  else
    match s.wg? x.wg with
    | none => s.completeOp w p
    | some g =>
      let m := if err then s.errMask line else 0
      let g : Workgroup := (List.range 16).foldl (fun (g : Workgroup) k => if m &&& maskRange (8 * k) 8 = 0 then g else g.spoil (128 * line + 8 * k) 8) g
      let r := atomScratch g now ty aop b c
      ((s.errorIf err).modWg x.wg fun _ => r.1).atomDone w x p (r.2.map fun v => (v.1, wordsOf (typeNames ty) v.2.1, v.2.2))
        (.atomLocal later ty aop b c acq) later.isEmpty acq

/-- TICKET at its dispenser, as one act (R258). -/
def State.ticketStep (s : State) (w : Nat) (x : Warp) (p : PendOp) (pa scope : Nat) (err : Bool) : State :=
  if x.behind p || s.lineHeld w x.core [pa / 128] || s.atomicHeld x.core p.id [pa / 128] then s
  else if !s.hasTokens x.core p.toks then s.askTokens x.core p.toks
  else
    match (match s.yieldLines x.core scope [pa / 128] with | (s, true) => (s.atomError err x.core scope (pa / 128)).placeRead x.core none scope pa 8 | (s, false) => (s, none)) with
    | (s, none) => s
    | (s, some (t, m)) =>
      match s.placeWrite x.core none scope (cellsOf pa 8 ((t + 1) % 2 ^ 64)) with
      | (s, false) => s
      | (s, true) => (((s.stainPlace x.core scope pa 8 0 m).noteWrite p.toks).modWarp w fun y => y.applyResult p [(0, wordsOf 2 t, m)]).completeOp w p

/-- ADVANCE at its dispenser, as one act (R258); the wake it broadcasts lets every sleeper read SERVING again. -/
def State.advanceStep (s : State) (w : Nat) (x : Warp) (p : PendOp) (pa scope : Nat) (err : Bool) : State :=
  if x.behind p || s.lineHeld w x.core [pa / 128] || s.atomicHeld x.core p.id [pa / 128] then s
  else if !s.hasTokens x.core p.toks then s.askTokens x.core p.toks
  else
    match (match s.yieldLines x.core scope [pa / 128] with | (s, true) => (s.atomError err x.core scope (pa / 128)).placeRead x.core none scope (pa + 8) 8 | (s, false) => (s, none)) with
    | (s, none) => s
    | (s, some (t, m)) =>
      match s.placeWrite x.core none scope (cellsOf (pa + 8) 8 ((t + 1) % 2 ^ 64)) with
      | (s, false) => s
      | (s, true) => ((s.stainPlace x.core scope (pa + 8) 8 0 m).noteWrite p.toks).completeOp w p

/-- ATOMIC_ACT (R247, R253, R258): the lanes of an atomic in one line, or a dispenser operation; err: what it reads there has an
uncorrectable error (26 R502, R503). -/
def execAtomicAct (w op : Nat) (o : Found) (s : State) : Host.Outcome State Fault Refusal :=
  .next (match s.warp? w with
    | none => s
    | some x =>
      match x.op? op with
      | none => s
      | some p =>
        match p.body with
        | .atomic lanes ty aop b c scope acq taken => s.atomGlobal w x p o.name lanes ty aop b c scope acq taken o.err
        | .atomLocal offs ty aop b c acq => s.atomBank w x p o.name offs ty aop b c acq o.err
        | .ticket pa scope => s.ticketStep w x p pa scope o.err
        | .advance pa scope => s.advanceStep w x p pa scope o.err
        | _ => s)

/-- PEER_COMPLETION (22 R480, R481): the peer answers what it was asked. -/
def execPeerCompletion (w : Nat) (o : OpAt) (s : State) : Host.Outcome State Fault Refusal :=
  .next (match s.warp? w with
    | none => s
    | some x =>
      match x.op? o.op with
      | none => s
      | some p =>
        match p.body with
        | .atomic lanes ty aop b c scope acq taken =>
          let mine (l : LaneAddr) : Bool := l.pa / 128 = o.line && s.isPeer l.pa
          s.atomStep w x p (lanes.filter mine) (lanes.filter fun l => !mine l) ty aop b c scope acq taken false
        | _ => peerLoadStore s w x p o.line)

/-! ### Fences (R254, R255) -/

/-- The warp has operations of some paths that have not completed. -/
def Warp.pendingOn (w : Warp) (ps : List Path) : Bool :=
  w.pend.any fun p => !p.done && (match p.path with | some q => ps.contains q | none => false)

/-- FENCE (R254). -/
def execFence (e : Enc) (s : State) : Host.Outcome State Fault Refusal :=
  runIsa formFence e (fun c s =>
    let rel := e.fb 9 2 / 2 % 2 = 1
    let acq := e.fb 9 2 % 2 = 1
    let tex := e.fb 5 1 = 1
    if c.em = 0 then c.leave s
    else if (rel && (c.warp.undrained || (tex && c.warp.pendingOn [.X]))) || (acq && c.warp.pendingOn [.G, .Q]) then c.stall s .drain
    else
      let finish (s : State) : State :=
        if !acq then c.leave s
        else match s.acquireAt c.warp.core (e.fb 6 3) with
          | (s, false) => c.stall s .snoop
          | (s, true) => c.leave (if tex then s.modCore c.warp.core fun x => { x with tex := [] } else s)
      if rel then c.releasing s (e.fb 6 3) finish else finish s) s

/-- AFENCE (R255). -/
def execAfence (e : Enc) (s : State) : Host.Outcome State Fault Refusal :=
  runIsa formAfence e (fun c s =>
    if c.em = 0 then c.leave s
    else if c.warp.undrained then c.stall s .drain
    else match s.cleanColumn c.warp.core fun _ => true with
      | (s, false) => c.stall s .snoop
      | (s, true) => c.leave ((s.dropColLines c.warp.core fun _ _ => true).modCore c.warp.core fun x => { x with l1 := [] })) s

/-! ### Ticket dispensers (R256 to R258) -/

/-- A dispenser operation admitted. -/
def Issue.dispenser (c : Issue) (s : State) (write : Bool) (k : State → Nat → List Nat → State) : State :=
  if c.warp.walker then c.trap s walkerTrap
  else
    match s.admission c { size := 16, write, noView := true, noPeer := true, dispenser := true } (flatReqs [(0, c.rd64 c.e.a 0)]) with
    | (s, .trap t) => c.trap s t
    | (s, .stall y) => c.stall s y
    | (s, .ok lanes toks) => (match lanes with | l :: _ => k s l.pa toks | [] => c.leave s)

/-- TICKET (R258). -/
def execTicket (e : Enc) (s : State) : Host.Outcome State Fault Refusal :=
  runIsa formTicket e (fun c s =>
    if c.em = 0 then c.leave s
    else
      c.dispenser s true fun s pa toks =>
        if c.full .G then c.stall s .counter
        else
          c.pinning s fun s =>
            match s.yieldLines c.warp.core (e.fb 6 3) [pa / 128] with
            | (s, false) => c.stall s .snoop
            | (s, true) =>
              c.leave (c.enqueue (s.askTokens c.warp.core toks) (some .G) (c.dsts e.d [0] 2) (.ticket pa (e.fb 6 3)) [] toks)) s

/-- A ticket is served (R256). -/
def servedBy (serving ticket : DWord) : Bool := !(serving - ticket).getLsbD 63

/-- A poisoned value consumed by the instruction that reads it itself (26 R502). -/
def consumed (mark : Nat) : Trap := { cause := if mark = 2 then 0x12 else 0x11, sub := if mark = 2 then 0x05 else 0x01 }

/-- SERVED (R258). -/
def execServed (e : Enc) (s : State) : Host.Outcome State Fault Refusal :=
  runIsa formServed e (fun c s =>
    let s := c.clearLatches s
    if c.em = 0 then c.leave s
    else
      c.dispenser s false fun s pa _ =>
        if c.warp.crosses c.sp.mask [(locOf (pa + 8), 8)] then c.stall s .drain
        else match s.ownRead c.warp.core none (e.fb 6 3) (pa + 8) 8 with
        | (s, none) => c.stall s .snoop
        | (s, some (v, m)) =>
          if m ≠ 0 then c.trap s (consumed m)
          else if servedBy (BitVec.ofNat 64 v) (c.rd64 e.b 0) then
            match s.acquireAt c.warp.core (e.fb 6 3) with
            | (s, false) => c.stall s .snoop
            | (s, true) => c.leave s
          else c.block s (.served pa (e.fb 6 3) (c.rd64 e.b 0))) s

/-- ADVANCE (R258). -/
def execAdvance (e : Enc) (s : State) : Host.Outcome State Fault Refusal :=
  runIsa formAdvance e (fun c s =>
    if c.em = 0 then c.leave s
    else
      c.dispenser s true fun s pa toks =>
        if c.full .S then c.stall s .counter
        else
          c.releasing s (e.fb 6 3) fun s =>
            c.pinning s fun s =>
              match s.yieldLines c.warp.core (e.fb 6 3) [pa / 128] with
              | (s, false) => c.stall s .snoop
              | (s, true) => c.leave (c.enqueue (s.askTokens c.warp.core toks) (some .S) [] (.advance pa (e.fb 6 3)) [] toks)) s

/-- SERVED_WAKE (R258): a sleeper reads SERVING again. -/
def execServedWake (w k : Nat) (s : State) : Host.Outcome State Fault Refusal :=
  .next (match (s.warp? w).bind fun x => (x.split? k).map fun sp => (x, sp) with
    | none => s
    | some (x, sp) =>
      match sp.wait with
      | .served pa scope ticket =>
        if !x.runs then s
        else
          (match s.ownRead x.core none scope (pa + 8) 8 with
           | (s, none) => s
           | (s, some (v, m)) =>
             if m ≠ 0 then s.waitTrap w k (consumed m) sp.waitAt
             else if servedBy (BitVec.ofNat 64 v) ticket then
               match s.acquireAt x.core scope with
               | (s, false) => s
               | (s, true) => s.resumeSplit w k
             else s)
      | _ => s)

/-! ### Monitors (R259 to R261) -/

/-- x COND b under an integer type. -/
def monitorHolds (cond ty : Nat) (x b : Nat) : Bool :=
  let w := atomBits ty
  let sx : Int := if ty = 0 ∨ ty = 2 then (BitVec.ofNat w x).toInt else x
  let sb : Int := if ty = 0 ∨ ty = 2 then (BitVec.ofNat w b).toInt else b
  match cond with
  | 0 => decide (sx = sb)
  | 1 => decide (sx ≠ sb)
  | 2 => decide (sx < sb)
  | 3 => decide (sx ≤ sb)
  | 4 => decide (sb < sx)
  | _ => decide (sb ≤ sx)

/-- A monitor on this name at this scope is external (R260). -/
def externalMonitor (pa scope : Nat) : Bool := placeOf pa = .host || scope = 4

/-- WAITMON (R259, R260). -/
def execWaitmon (e : Enc) (s : State) : Host.Outcome State Fault Refusal :=
  runIsa formWaitmon e (fun c s =>
    let s := c.clearLatches s
    let ty := e.fb 0 4
    let size := typeBytes ty
    let scope := e.fb 6 3
    let b := BitVec.ofNat 64 (c.rdType e.b 0 ty (typeNames ty) % 2 ^ atomBits ty)
    if c.warp.walker then c.trap s walkerTrap
    else if c.em = 0 then c.leave s
    else
      match s.admission c { size, write := false, noView := true, noPeer := true } (flatReqs [(0, c.rd64 e.a 0)]) with
      | (s, .trap t) => c.trap s t
      | (s, .stall y) => c.stall s y
      | (s, .ok lanes _) =>
        match lanes with
        | [] => c.leave s
        | l :: _ =>
          let go (s : State) : State :=
            if s.lineHeld c.w c.warp.core [l.pa / 128] || c.warp.crosses c.sp.mask [(locOf l.pa, size)] then c.stall s .drain
            else match s.ownRead c.warp.core c.warp.task scope l.pa size with
              | (s, none) => c.stall s .snoop
              | (s, some (v, m)) =>
                if m ≠ 0 then c.trap s (consumed m)
                else if monitorHolds (e.fb 11 3) ty v b.toNat then
                  match s.acquireAt c.warp.core scope with
                  | (s, false) => c.stall s .snoop
                  | (s, true) => c.leave (c.warpDo s fun w => w.put (.g e.d.toNat) 0 1)
                else
                  let limit := if e.fb 14 5 = 0 then none else some (s.timer + 1000 * 2 ^ (e.fb 14 5 - 1))
                  c.block (c.enqueue s none [{ lane := 0, word := 0, reg := .g e.d.toNat }] .slot)
                    (.monitor l.pa scope (e.fb 11 3) ty s.nextId b limit c.waitAt)
          if externalMonitor l.pa scope then c.pinning s go else go s) s

/-- A sleeping monitor reads its value again (R260). One whose host memory is not reachable any more issues again, and meets 22 R470's fault
at admission (DEDUCED, assumption 119). -/
def State.monitorStep (s : State) (w k : Nat) : State :=
  match (s.warp? w).bind fun x => (x.split? k).map fun sp => (x, sp) with
  | none => s
  | some (x, sp) =>
    match sp.wait with
    | .monitor pa scope cond ty slot b limit _ =>
      let late := match limit with | some d => d ≤ s.timer | none => false
      if !x.runs || late || s.lineHeld w x.core [pa / 128] then s
      else if !s.linkFull && hostKey (pa / 128) then (s.dropSlot w slot).retrySplit w k
      else
        (match s.ownRead x.core x.task scope pa (typeBytes ty) with
         | (s, none) => s
         | (s, some (v, m)) =>
           if m ≠ 0 then (s.dropSlot w slot).waitTrap w k (consumed m) sp.waitAt
           else if monitorHolds cond ty v b.toNat then
             match s.acquireAt x.core scope with
             | (s, false) => s
             | (s, true) => (s.fillSlot w slot [(0, [1], 0)]).resumeSplit w k
           else s)
    | _ => s

/-- WAITMON_WAKE (R260). -/
def execWaitmonWake (w k : Nat) (s : State) : Host.Outcome State Fault Refusal := .next (s.monitorStep w k)

/-- WAITMON_REREAD (R261): a monitor without an entry reads again. -/
def execWaitmonReread (w k : Nat) (s : State) : Host.Outcome State Fault Refusal := .next (s.monitorStep w k)

/-- WAITMON_TIMEOUT (R260): the deadline has passed; no acquire. -/
def execWaitmonTimeout (w k : Nat) (s : State) : Host.Outcome State Fault Refusal :=
  .next (match (s.warp? w).bind fun x => (x.split? k).map fun sp => (x, sp) with
    | none => s
    | some (x, sp) =>
      match sp.wait with
      | .monitor _ _ _ _ slot _ (some d) _ =>
        if x.runs && d ≤ s.timer then (s.fillSlot w slot [(0, [0], 0)]).resumeSplit w k else s
      | _ => s)

/-! ### Tokens (R262, 20 R450) -/

/-- The next holder of a region's token: the first waiting core of the ring from the holder, or, from home, from the lowest core of
the die that owns the home's stack (20 R450). -/
def State.nextHolder (s : State) (r : Region) : Option Nat :=
  let start := match r.holder with
    | some c => c + 1
    | none => match placeOf r.pbase with | .stack n => if (s.home n).owner.owner = 1 then 12 else 0 | _ => 0
  ((List.range Config.cores).map fun k => (start + k) % Config.cores).find? fun c => (Tab.get? r.waiting c).isSome

/-- TOKPASS (R262), irrevocable whatever its status: it pins its task (16 R364). -/
def execTokpass (e : Enc) (s : State) : Host.Outcome State Fault Refusal :=
  runIsa formTokpass e (fun c s =>
    let va := c.rd64 e.a 0
    let status (s : State) (v : Word) : State := c.leave (c.warpDo s fun w => w.put (.g e.d.toNat) 0 v)
    if c.warp.walker then c.trap s walkerTrap
    else if c.em = 0 then c.leave s
    else
      match s.admission c { size := 1, write := false, rows3 := true } (flatReqs [(0, va)]) with
      | (s, .trap t) => c.trap s t
      | (s, .stall y) => c.stall s y
      | (s, .ok _ _) =>
        c.pinning s fun s =>
          match s.regions.find? fun r => r.2.base.toNat ≤ va.toNat && va.toNat < r.2.base.toNat + 2 ^ r.2.k with
          | none => status s 3
          | some (n, r) =>
            if r.holder ≠ some c.warp.core then status s 2
            else if c.warp.pendingOn [.S] then c.stall s .drain
            else
              match s.passToken n (s.nextHolder r) with
              | (s, false) => c.stall s .snoop
              | (s, true) => status s (if (s.nextHolder r).isSome then 0 else 1)) s

/-- A region's token stays where it is: its home's stack is in step 4 of a handover or later (20 R442). -/
def State.tokenFrozen (s : State) (r : Region) : Bool := match placeOf r.pbase with | .stack k => s.handoverAt k 4 | _ => false

/-- A hand-off of a token that somebody waits for (20 R450); from step 4 of a handover of its home's stack on, requests stay queued (R442). -/
def State.handOff (s : State) (n : Nat) (p : Region → Bool) : State :=
  match Tab.get? s.regions n with
  | none => s
  | some r =>
    if r.waiting.isEmpty || s.tokenFrozen r || !p r then s else (s.passToken n (s.nextHolder r)).1

/-- TOKEN_HANDOFF_IDLE (20 R450): no write for 256 ck (366 ns), or the token is at home. -/
def execTokenHandoffIdle (region : Nat) (s : State) : Host.Outcome State Fault Refusal :=
  .next (s.handOff region fun r => r.holder.isNone || r.lastWrite + 366 ≤ s.timer)

/-- TOKEN_HANDOFF_TIMEOUT (20 R450): 8 microseconds since the oldest request. -/
def execTokenHandoffTimeout (region : Nat) (s : State) : Host.Outcome State Fault Refusal :=
  .next (s.handOff region fun r => r.waiting.any fun w => w.2 + 8000 ≤ s.timer)

end Sys2Proof.Machine
end

