-- ==== Sys2Proof/Decode.lean ====
section
/-!
DEFINITION. Decoding and encoding of instruction words (02 R48, R53, R65). Word 0 lies at the lowest address, each word
little-endian, so byte n of an instruction holds bits 8n+7 to 8n.
-/
namespace Sys2Proof

/-- An instruction as 128 bits, fields as R53 places them; the bits of words its LEN leaves out are zero. -/
abbrev Bits128 := BitVec 128

/-- The fields of R53 out of the instruction's bits. -/
def unpack (v : Bits128) : BitVec 9 × Enc :=
  (v.extractLsb' 3 9,
   { len := v.extractLsb' 0 2, u := v.extractLsb' 2 1, pred := v.extractLsb' 12 5, d := v.extractLsb' 17 9,
     w := v.extractLsb' 26 1, a := v.extractLsb' 27 9, b := v.extractLsb' 36 9, f := v.extractLsb' 45 19,
     c := v.extractLsb' 64 9, x := v.extractLsb' 73 23, k := v.extractLsb' 96 32 })

/-- The instruction's bits out of its opcode and fields (R53). -/
def pack (op : BitVec 9) (e : Enc) : Bits128 :=
  (e.k ++ e.x ++ e.c ++ e.f ++ e.b ++ e.a ++ e.w ++ e.d ++ e.pred ++ op ++ e.u ++ e.len : BitVec 128)

/-- Bytes of an instruction by its LEN (R48). -/
def lenBytes (len : BitVec 2) : Nat :=
  if len = 0 then 8 else if len = 1 then 12 else if len = 2 then 16 else 4

/-- Bits of bytes, the first lowest. -/
def bitsOfBytes (bs : List Byte) : Bits128 :=
  bs.foldr (fun b v => (v <<< 8) ||| b.setWidth 128) 0

/-- n bytes of an instruction's bits, the lowest first. -/
def bytesOfBits (n : Nat) (v : Bits128) : List Byte := (List.range n).map fun j => v.extractLsb' (8 * j) 8

/-- The bits an instruction's LEN keeps. -/
def trimBits (v : Bits128) : Bits128 :=
  let n := lenBytes (v.extractLsb' 0 2)
  if n = 16 then v else v &&& BitVec.ofNat 128 (2 ^ (8 * n) - 1)

/-- Decoding as the part does it at an instruction start that is no pad unit: every opcode and every field is read; the
checks of R69 come when the instruction executes. -/
def decodeRaw (v : Bits128) : Instr :=
  let p := unpack (trimBits v)
  instrOf p.1 p.2

/-- Why bytes are no well-formed instruction. -/
inductive DecodeError where
  /-- Fewer bytes than the instruction has. -/
  | tooShort
  /-- A pad unit (R48): no instruction starts here. -/
  | padUnit
  /-- The instruction is ill-formed, with the first check it fails. -/
  | illFormed (why : IllFormed)
deriving DecidableEq, Repr

/-- The well-formed instruction at the head of a byte string, and the bytes after it. -/
def decode (bs : List Byte) : Except DecodeError (Instr × List Byte) :=
  if bs.length < 4 then .error .tooShort
  else
    let len := (bitsOfBytes (bs.take 4)).extractLsb' 0 2
    if len = 3 then .error .padUnit
    else if bs.length < lenBytes len then .error .tooShort
    else
      let i := decodeRaw (bitsOfBytes (bs.take (lenBytes len)))
      match i.illFormed with
      | some r => .error (.illFormed r)
      | none => .ok (i, bs.drop (lenBytes len))

/-- The opcode and fields of an instruction of the opcode map. -/
def Instr.fields? (i : Instr) : Option (BitVec 9 × Enc) :=
  match i with
  | .reservedOpcode op e => some (op, e)
  | i => i.form?.map fun p => (BitVec.ofNat 9 p.1.op, p.2)

/-- The bits of an instruction (R53); zero for an event, which has no encoding. -/
def encodeBits (i : Instr) : Bits128 :=
  match i.fields? with
  | some (op, e) => pack op e
  | none => 0

/-- The bytes of an instruction; none for an event. -/
def encode (i : Instr) : List Byte :=
  match i.fields? with
  | some (op, e) => bytesOfBits (lenBytes e.len) (pack op e)
  | none => []

/-- The instruction my decoder reads from an instruction of nbits bits w (bits above are zero). -/
def decodeTableWord (nbits w : Nat) : Option Instr :=
  match decode (bytesOfBits 16 (BitVec.ofNat 128 (w % 2 ^ nbits))) with
  | .ok p => some p.1
  | .error _ => none

end Sys2Proof
end

