-- ==== Sys2Proof/Machine/Fetch.lean ====
section
/-!
DEFINITION. Instruction fetch (02 R48 to R52, 07 R176, 09 R219, 19 R418): the instruction TLB, the instruction cache and its
fills, and the decoding of a fetch block from its first byte.
-/
namespace Sys2Proof.Machine

/-- Who fetches; `ctx` is the address space of its code. -/
structure Fetcher where
  core : Nat
  ctx : Nat
  warp : Nat
  entry : Nat
  user : Bool
  xfails : List XFail

/-- The fetcher that a split is. -/
def fetcherOf (w k : Nat) (warp : Warp) (sp : Split) : Fetcher :=
  { core := warp.core, ctx := warp.codeCtx, warp := w, entry := k, user := sp.level < 2, xfails := sp.xfails }

/-- What the fetch of a line answers. -/
inductive LineAns where
  | trap (cause sub : Nat)
  | stall (why : Stall)
  | line (d : BitVec 1024)

/-- The sub-cause of a fetch whose walk failed (R418). -/
def fetchFailSub (sub : Nat) : Nat := if sub = 3 then 7 else sub

/-- The key of the line that a fetch reads: the word of its decoded view on a CRV page. -/
def State.fetchKey (s : State) (e : TlbEntry) (va : Nat) : Option Nat :=
  if pteBit e.leaf 56 then (s.viewPa e.leaf va (e.vpn * 4096, sizeBytes e.size)).map (· / 128) else some (e.pa va / 128)

/-- The checks of a demand fill at admission (R418, R440, R441, R470). -/
def State.fillCheck (s : State) (die : Nat) (leaf : BitVec 64) (pa : Nat) : Option LineAns :=
  match s.accessStack leaf pa with
  | some n =>
    let o := (s.home n).owner.owner
    if s.inHandover n then some (.stall .handover)
    else if o = 2 then some (.trap 0x04 0x09)
    else if o ≠ die ∧ !pteBit leaf 10 then some (.trap 0x04 0x08)
    else if (s.home n).failed then some (.trap 0x11 0x05)
    else none
  | none =>
    match placeOf pa with
    | .host => if s.linkFull then none else some (.trap 0x04 0x04)
    | .grotto c => if dieOf c = die then none else some (.trap 0x04 0x0A)
    | _ => none

/-- A demand fill of a line asked for: merged with one in flight, in a free slot of eight, or waiting for one (07 R176). -/
def Core.demand (x : Core) (key now : Nat) : Core :=
  if x.fills.any (·.line = key) then x
  else if x.fills.length < 8 then { x with fills := x.fills ++ [{ line := key, hint := false, stale := false, before := now }] }
  else if x.fillWait.contains key then x
  else { x with fillWait := x.fillWait ++ [key] }

/-- A line of code in the instruction cache, or a demand fill of it asked for: its key in the cache and in the column, leaf and physical
address of the access; a context admitted to a stack is recorded there (26 R504), and a unit asleep wakes first (24 R488). -/
def State.fetchKeyed (s : State) (f : Fetcher) (key colKey : Nat) (leaf : BitVec 64) (pa : Nat) : State × LineAns :=
  match Tab.get? (s.core f.core).icache key with
  | some d => if (s.core f.core).ibad.contains key then (s, .trap 0x11 0x04) else (s, .line d)
  | none =>
    match s.fillCheck (dieOf f.core) leaf pa with
    | some ans => (s, ans)
    | none =>
      let home := (s.accessStack leaf pa).toList
      if s.wakesFor f.core home then (s, .stall .unit)
      else
        let s : State := s.noteAdmitted ((s.warp? f.warp).map (·.ctx) |>.getD f.ctx) home
        (s.modCore f.core fun x => x.demand colKey s.nextId, .stall .fetch)

/-- A line of a walker's code, by its physical address (19 R420; assumption 121). -/
def State.fetchPhys (s : State) (f : Fetcher) (a : Nat) : State × LineAns :=
  if physCode a then s.fetchKeyed f (a / 128) (a / 128) 0x400 a else (s, .trap 0x05 0x04)

/-- The line that holds an address, through the instruction TLB and cache. -/
def State.fetchLine (s : State) (f : Fetcher) (a : DWord) : State × LineAns :=
  if f.ctx = physCtx then s.fetchPhys f a.toNat
  else if !canonical a then (s, .trap 0x04 0x06)
  else
    match f.xfails.find? fun x => x.fetch && x.page = a.toNat / 4096 with
    | some x => (s, .trap 0x04 (fetchFailSub x.sub))
    | none =>
      let r := s.lookFetch f.core f.ctx a.toNat
      match r.2 with
      | none =>
        (r.1.requestMiss (dieOf f.core) f.ctx (a.toNat / 4096) true false false f.user
          (some { core := f.core, warp := f.warp, entry := f.entry }), .stall .fetch)
      | some e =>
        let s := r.1
        if !pteBit e.leaf 3 then (s, .trap 0x04 0x02)
        else if f.user && !pteBit e.leaf 4 then (s, .trap 0x04 0x03)
        else
          match s.fetchKey e a.toNat with
          | none => (s, .trap 0x12 0x04)
          | some key => s.fetchKeyed f key (aliasName f.ctx a (128 * key) / 128) e.leaf (e.pa a.toNat)

/-- Word j of a line's 32-byte block that holds an address. -/
def blockWord (d : BitVec 1024) (a : Nat) (j : Nat) : Word := d.extractLsb' (8 * (a % 128 - a % 32) + 32 * j) 32

/-- What decoding a block from word j on finds at word t: a start, the pad unit that ends it, a straddling instruction, or
nothing (R49, R50). -/
inductive StartAt where
  | start | pad | straddle | inside
deriving DecidableEq, Repr

/-- The decoding of a block's eight words (R48, R49). -/
def scanBlock (word : Nat → Word) (t j fuel : Nat) : StartAt :=
  match fuel with
  | 0 => .inside
  | n + 1 =>
    if t < j ∨ 8 ≤ j then .inside
    else
      let len := (word j).extractLsb' 0 2
      if len = 3 then (if t = j then .pad else .inside)
      else
        let words := lenBytes len / 4
        if t = j then (if 8 < j + words then .straddle else .start) else scanBlock word t (j + words) n

/-- What a fetch answers. -/
inductive FetchAns where
  | trap (cause sub : Nat) (pc : DWord)
  | stall (why : Stall) (pc : DWord)
  | instr (pc : DWord) (bits : Bits128)

/-- The fetch of the instruction at an address (R49 to R52): a pad unit met in sequential flow is passed over; a fetch that has to
wait goes on from the address it reached. -/
def State.fetchAt (s : State) (f : Fetcher) (pc : DWord) (seq : Bool) (fuel : Nat) : State × FetchAns :=
  match fuel with
  | 0 => (s, .stall .fetch pc)
  | n + 1 =>
    match s.fetchLine f pc with
    | (s, .trap c b) => (s, .trap c b pc)
    | (s, .stall y) => (s, .stall y pc)
    | (s, .line d) =>
      if pc.toNat % 4 ≠ 0 then (s, .trap 0x01 0x04 pc)
      else
        let word := blockWord d pc.toNat
        let t := pc.toNat % 32 / 4
        match scanBlock word t 0 9 with
        | .start =>
          let k := 8 * (pc.toNat % 128)
          (s, .instr pc (trimBits ((d >>> k).setWidth 128)))
        | .straddle => (s, .trap 0x01 0x03 pc)
        | .pad => if seq then s.fetchAt f ((pc &&& ~~~(31 : DWord)) + 32) true n else (s, .trap 0x01 0x04 pc)
        | .inside => (s, .trap 0x01 0x04 pc)

/-- A fetch's trap, taken precisely by the fetching split (R418, R51). -/
def State.fetchTrap (s : State) (w k : Nat) (sp : Split) (cause sub : Nat) (pc : DWord) : State :=
  let va := if cause = 0x01 then [] else (lanesOf sp.mask).map fun i => (i, pc)
  s.takeTrap w k { cause, sub, va, fetch := cause ≠ 0x01 } sp.live false pc pc 0x1FF false

/-- A split waits for its fetch: it keeps its age and its latches, and its PC is the address that sequential flow has reached. -/
def State.fetchStall (s : State) (w k : Nat) (why : Stall) (pc : DWord) : State :=
  s.modWarp w fun x => x.modSplit k fun sp => { sp with wait := .stall why, pc }

/-- A line of code read through a core's column (R219): the column's own dirty bytes over the line as its cluster's unit or the home has
it; none while something stands in the way of the fill. One in a peer's memory comes from there (22 R480). -/
def State.codeRead (s : State) (core key : Nat) : State × Option (BitVec 1024 × Nat) :=
  if s.isPeer (128 * key) then (s, some (BitVec.ofNat 1024 (s.peerNat (128 * key) 128), 0)) else
  match placeOf (128 * key) with
  | .grotto _ => (s, some (lineBytes s.mem (physKey key), s.memMark (128 * physKey key) 128))
  | _ =>
    let held := s.fillHeld core key
    if held.isEmpty then
      let r := s.fillLine core key false
      match r.1.colLine core key with
      | some l =>
        let l : Line := { l with data := mergeLine r.2.data l.data l.dirty, poison := r.2.poison, bad := (r.2.bad &&& ~~~l.dirty) ||| (l.bad &&& l.dirty) }
        (r.1.setColLine core key l, some (l.data, l.mark 0 128))
      | none => (r.1.allocLine core key r.2, some (r.2.data, r.2.mark 0 128))
    else (s.sendSnoops held, none)

/-- A line put into an instruction cache of 512 lines (64 KiB, 00 R3); a full one first lets a line go, which of them the spec does not say
(assumption 107). -/
def icacheInsert (t : Tab (BitVec 1024)) (key : Nat) (d : BitVec 1024) (pick : Nat) : Tab (BitVec 1024) :=
  let t := Tab.erase t key
  let t := if t.length < 512 then t else match t[pick % t.length]? with | some l => Tab.erase t l.1 | none => t
  Tab.set t key d

/-- ICACHE_FILL (R176): the line arrives through the column; a fill requested before an invalidation serves its fetches but is not
installed, so they fetch again. A freed slot goes to the oldest waiting demand miss. -/
def execIcacheFill (core line : Nat) (err : Bool) (s : State) : Host.Outcome State Fault Refusal :=
  .next (
    let x := s.core core
    match x.fills.find? (fun f => f.line = line) with
    | none => s
    | some f =>
      match s.codeRead core line with
      | (s, none) => s
      | (s, some (d, poison)) =>
        (if err then s.noteError else s).modCore core fun x =>
          let rest := x.fills.filter fun g => g.line ≠ line
          let fills := match x.fillWait with
            | [] => rest
            | k :: _ => rest ++ [{ line := k, hint := false, stale := false, before := s.nextId }]
          let bad := err || poison ≠ 0
          let key := physKey line
          { x with fills, fillWait := x.fillWait.drop 1,
                   icache := if f.stale then x.icache else icacheInsert x.icache key d (Config.choice (100 + core) s.free),
                   ibad := if f.stale then x.ibad else if bad then setAdd x.ibad key else setDel x.ibad [key] })

end Sys2Proof.Machine
end

