-- ==== Sys2Proof/Machine/Control.lean ====
section
/-!
DEFINITION. Control flow (06 R137 to R156): divergence, joins, calls with their spills, returns, exits, switches, TRAP and BKPT.
-/
namespace Sys2Proof.Machine

/-- A path of a divergent instruction (R137). `seq`: its address is the successor of the instruction. -/
structure PathTo where
  pc : DWord
  seq : Bool
  mask : Word
  frame : Frame

/-- The entries a divergence pushes as stacked paths. -/
def Warp.restCount (w : Warp) (n : Nat) : Nat := n - 1 - min (n - 1) (((List.range 4).filter fun k => (w.split? k).isNone).length)

/-- What diverge checks before any change (R137). -/
def Warp.divergeTrap (w : Warp) (paths : List PathTo) (j : DWord) : Option Trap :=
  let n := (paths.filter fun p => p.mask ≠ 0).length
  if n ≤ 1 then none
  else if j = 0 then some { cause := 0x0A, sub := 0x02 }
  else if 32 < w.stack.length + 1 + w.restCount n then some { cause := 0x0C, sub := 0x01 }
  else none

/-- diverge (R137) by the split of entry k. -/
def Warp.diverge (w : Warp) (k : Nat) (paths : List PathTo) (j : DWord) : Warp :=
  match w.split? k, paths.filter fun p => p.mask ≠ 0 with
  | some sp, [p] => w.setSplit k { sp with pc := p.pc, seq := p.seq, frame := p.frame }
  | some sp, p :: ps =>
    let free := (List.range 4).filter fun q => (w.split? q).isNone
    let here := ps.take free.length
    let rest := ps.drop free.length
    let w1 : Warp :=
      { w with stack := rest.map (fun q => .path q.pc q.seq q.mask j q.frame sp.handler)
                          ++ StackEntry.join j sp.mask 0 sp.frame sp.handler none :: w.stack }
    let w2 := (free.zip here).foldl (fun w q =>
      w.setSplit q.1 { sp with pc := q.2.pc, seq := q.2.seq, mask := q.2.mask, frame := q.2.frame }) w1
    w2.setSplit k { sp with pc := p.pc, seq := p.seq, mask := p.mask, frame := p.frame }
  | _, _ => w

/-- A divergence of the issuing split: its trap, or its effect. -/
def Issue.divergeTo (c : Issue) (s : State) (paths : List PathTo) (j : DWord) (then_ : State → State) : State :=
  match c.warp.divergeTrap paths j with
  | some t => c.trap s t
  | none => (then_ (c.warpDo s fun w => w.diverge c.k paths j)).settleWarp c.w (c.succ s)

/-- A word offset from the instruction: PC + 4 * sext(x). -/
def Issue.offset (c : Issue) {n : Nat} (x : BitVec n) : DWord := c.sp.pc + 4 * x.signExtend 64

/-- The join address in F (R151, R152). -/
def Issue.joinAddr (c : Issue) : DWord := if c.e.f = 0 then 0 else c.offset c.e.f

/-- The lanes that leave: those of the execution mask, or with U = 1 the whole split. -/
def Issue.taken (c : Issue) : Word := if c.e.uni then (if c.em = 0 then 0 else c.sp.mask) else c.em

/-- The path of the lanes that stay. -/
def Issue.fallPath (c : Issue) (s : State) : PathTo :=
  { pc := c.next s, seq := true, mask := c.sp.mask &&& ~~~c.taken, frame := c.sp.frame }

/-- The groups of taken lanes by target, in order of their lowest lane (R152). -/
def Issue.targetGroups (c : Issue) : List (DWord × Word) :=
  if c.e.uni then (if c.em = 0 then [] else [(c.rd64 c.e.a 0, c.sp.mask)])
  else (lanesOf c.em).foldl (fun gs i =>
    let t := c.rd64 c.e.a i
    if gs.any fun g => g.1 = t then gs.map fun g => if g.1 = t then (g.1, g.2 ||| (1#32 <<< i)) else g
    else gs ++ [(t, 1#32 <<< i)]) []

/-! ### Return stacks (R143, R144) -/

/-- LEVELS of CALLSPILL. -/
def Warp.spillLevels (w : Warp) : Nat := min 256 (w.callspill.toNat / 2 ^ 23)
/-- BASE of CALLSPILL as a byte offset. -/
def Warp.spillBase (w : Warp) : Nat := (w.callspill.toNat / 256 % 2 ^ 13) * 256

/-- The spill slot of a lane for return level v: BASE + 256 (v - 1) + 8 i. -/
def Warp.spillSlot (w : Warp) (v i : Nat) : Nat := w.spillBase + 256 * (v - 1) + 8 * i

/-- The check of the slots of level v of some lanes. -/
def Issue.spillTrap (c : Issue) (s : State) (v : Nat) (lanes : Word) (write : Bool) : Option Trap :=
  (s.wg? c.warp.wg).bind fun x =>
    let offs := (lanesOf lanes).map fun i => (i, c.warp.spillSlot v i)
    let prot := offs.filter fun p => x.alloc < p.2 + 8
    let own := offs.filter fun p => x.owned p.2 8
    if !prot.isEmpty then some (scratchTrap 0x06 offs write)
    else if !own.isEmpty then some (scratchTrap 0x08 own write)
    else none

/-- The fault of some lanes' slots as a trap of an instruction of all of them: each lane has its own slot's offset (R143). -/
def Issue.spillOf (c : Issue) (t : Trap) (v : Nat) (lanes : Word) : Trap :=
  { t with lanes := some lanes, exact := true, va := (lanesOf lanes).map fun i => (i, BitVec.ofNat 64 (c.warp.spillSlot v i)) }

/-- A frame with a return address pushed; the ninth level leaves the entry. -/
def Frame.push (f : Frame) (n : DWord) : Frame :=
  { f with depth := f.depth + 1, rstack := (n :: f.rstack).take 8, soft := if f.rstack.length = 8 then f.soft - 1 else f.soft }

/-- A frame with its topmost return address popped; what is read back from the spill area joins at the bottom (R143). -/
def Frame.pop (f : Frame) (back : List DWord) : Frame :=
  { f with depth := f.depth - 1, rstack := f.rstack.drop 1 ++ back, soft := min f.soft (f.rstack.length - 1) + back.length }

/-- A call to groups of targets (R151, R152). -/
def Issue.callTo (c : Issue) (s : State) (groups : List (DWord × Word)) : State :=
  let d := c.sp.frame.depth
  let callee := c.sp.frame.push (c.next s)
  let paths := groups.map (fun g => { pc := g.1, seq := false, mask := g.2, frame := callee }) ++ [c.fallPath s]
  let t := c.taken
  let spills := t ≠ 0 && 8 ≤ d
  if t ≠ 0 ∧ 8 + c.warp.spillLevels < d + 1 then c.trap s { cause := 0x0C, sub := 0x02 }
  else
    match c.warp.divergeTrap paths c.joinAddr with
    | some x => c.trap s x
    | none =>
      match (if spills then c.spillTrap s (d - 7) t true else none) with
      | some x => c.trap s (if c.e.uni then c.spillOf x (d - 7) t else x)
      | none =>
        c.divergeTo s paths c.joinAddr fun s =>
          if spills then
            let v := (c.sp.frame.rstack.getD 7 0).toNat
            let bytes := (lanesOf t).flatMap fun i => cellsOf (c.warp.spillSlot (d - 7) i) 8 v
            s.modWg c.warp.wg fun x => x.put bytes
          else s

/-! ### The instructions -/

/-- BRA (R151). -/
def execBra (e : Enc) (s : State) : Host.Outcome State Fault Refusal :=
  runIsa formBra e (fun c s =>
    c.divergeTo s [{ pc := c.offset e.x, seq := false, mask := c.taken, frame := c.sp.frame }, c.fallPath s] c.joinAddr id) s

/-- BRX (R152). -/
def execBrx (e : Enc) (s : State) : Host.Outcome State Fault Refusal :=
  runIsa formBrx e (fun c s =>
    c.divergeTo s (c.targetGroups.map (fun g => { pc := g.1, seq := false, mask := g.2, frame := c.sp.frame }) ++ [c.fallPath s])
      c.joinAddr id) s

/-- CALL (R151). -/
def execCall (e : Enc) (s : State) : Host.Outcome State Fault Refusal :=
  runIsa formCall e (fun c s => c.callTo s (if c.taken = 0 then [] else [(c.offset e.x, c.taken)])) s

/-- CALLX (R152). -/
def execCallx (e : Enc) (s : State) : Host.Outcome State Fault Refusal :=
  runIsa formCallx e (fun c s => c.callTo s c.targetGroups) s

/-- The case values of SWITCH, as the fields hold them (R153). -/
def caseValues (e : Enc) : List (BitVec 9) :=
  [e.d, e.b, e.c, e.f.extractLsb' 0 9, e.f.extractLsb' 9 9, e.k.extractLsb' 0 9, e.k.extractLsb' 9 9, e.k.extractLsb' 18 9]

/-- n words from an address through the instruction path (R154), or why not, with the address of the word. -/
def State.codeWords (s : State) (f : Fetcher) (a : DWord) (n : Nat) : State × (Option (LineAns × DWord)) × List Word :=
  (List.range n).foldl (fun r k =>
    match r.2.1 with
    | some _ => r
    | none =>
      let va := a + BitVec.ofNat 64 (4 * k)
      match r.1.fetchLine f va with
      | (s, .line d) => (s, none, r.2.2 ++ [d.extractLsb' (8 * (va.toNat % 128)) 32])
      | (s, ans) => (s, some (ans, va), r.2.2)) (s, none, [])

/-- The lanes' choices of SWITCH: case index, or 8 for the default (R154). -/
def Issue.switchCase (c : Issue) (tab : List Word) (i : Nat) : Nat :=
  let x := (c.rd c.e.a i).toInt
  ((List.range 8).find? fun k => tab.getD k 0 ≠ 0 && (((caseValues c.e).getD k 0).toInt = x)).getD 8

/-- The paths of SWITCH over its table (R154). -/
def Issue.switchPaths (c : Issue) (s : State) (base : DWord) (tab : List Word) : List PathTo :=
  let target (k : Nat) : DWord := base + 4 * (tab.getD k 0).signExtend 64
  let chosen (k : Nat) : Word := maskOf ((lanesOf c.em).filter fun i => c.switchCase tab i = k)
  let cases := (List.range 8).map fun k => { pc := target k, seq := false, mask := chosen k, frame := c.sp.frame }
  let fall := c.fallPath s
  if tab.getD 8 0 = 0 ∨ target 8 = c.next s then cases ++ [{ fall with mask := fall.mask ||| chosen 8 }]
  else cases ++ [{ pc := target 8, seq := false, mask := chosen 8, frame := c.sp.frame }, fall]

/-- SWITCH (R153, R154). -/
def execSwitch (e : Enc) (s : State) : Host.Outcome State Fault Refusal :=
  runIsa formSwitch e (fun c s =>
    let base := (c.sp.pc &&& ~~~(31 : DWord)) + 32 * e.x.signExtend 64
    match s.codeWords (fetcherOf c.w c.k c.warp c.sp) base 10 with
    | (s, some (.stall y, _), _) => c.stall s y
    | (s, some (.trap cause sub, va), _) =>
      c.trap s { cause, sub, lanes := some c.em, fetch := true,
                 va := (lanesOf (if c.em = 0 then c.sp.mask else c.em)).map fun i => (i, va) }
    | (s, some (.line _, _), _) => s
    | (s, none, tab) =>
      c.divergeTo s (c.switchPaths s base tab) (if tab.getD 9 0 = 0 then 0 else base + 4 * (tab.getD 9 0).signExtend 64) id) s

/-- The topmost join record that a JOIN at an address selects (R151). -/
def Warp.joinRec (w : Warp) (j : DWord) (depth : Nat) (mask : Word) : Option Nat :=
  w.stack.findIdx? fun e =>
    match e with
    | .join a ex _ f _ lp => lp.isNone && a = j && f.depth = depth && (ex &&& mask) ≠ 0
    | .path .. => false

/-- Lanes of the split of entry k park at a record; the entry goes where none is left. -/
def Warp.park (w : Warp) (k i : Nat) : Warp :=
  match w.split? k, w.stack[i]? with
  | some sp, some (.join j ex ar f hd lp) =>
    let park := sp.mask &&& ex
    let w := { w with stack := w.stack.set i (.join j ex (ar ||| park) f (sp.handler.takeLanes hd ar) lp) }
    if sp.mask = park then w.dropSplit k else w.setSplit k { sp with mask := sp.mask &&& ~~~park }
  | _, _ => w

/-- JOIN (R151). -/
def execJoin (e : Enc) (s : State) : Host.Outcome State Fault Refusal :=
  runIsa formJoin e (fun c s =>
    let s := c.clearLatches s
    match c.warp.joinRec c.sp.pc c.sp.frame.depth c.sp.mask with
    | none => c.leave s
    | some i => c.leave (c.warpDo s fun w => w.park c.k i)) s

/-- A join record of the split's own frame is open (R155). -/
def Issue.openJoin (c : Issue) : Bool :=
  c.warp.stack.any fun e =>
    match e with
    | .join _ ex _ f _ _ => f.depth = c.sp.frame.depth && (ex &&& c.sp.mask) ≠ 0
    | .path .. => false

/-- RET (R155, R143). -/
def execRet (e : Enc) (s : State) : Host.Outcome State Fault Refusal :=
  runIsa formRet e (fun c s =>
    let f := c.sp.frame
    let d := f.depth
    if c.em = 0 then c.leave s
    else if d = 0 then c.trap s { cause := 0x0A, sub := 0x05 }
    else if c.em ≠ c.sp.mask then c.trap s { cause := 0x0A, sub := 0x03 }
    else if f.inner.isSome then c.trap s { cause := 0x0B, sub := 0x03 }
    else if c.openJoin then c.trap s { cause := 0x0A, sub := 0x04 }
    else
      let low := ((lanesOf c.sp.mask).head?).getD 0
      match (if 9 ≤ d then c.spillTrap s (d - 8) (1#32 <<< low) false else none) with
      | some t =>
        c.trap s (c.spillOf t (d - 8) c.sp.mask)
      | none =>
        let back : List DWord :=
          if 9 ≤ d then
            match s.wg? c.warp.wg with
            | some x => [BitVec.ofNat 64 (x.sp.readNat (c.warp.spillSlot (d - 8) low) 8)]
            | none => [0]
          else []
        (c.splitDo s fun sp =>
          { sp with pc := f.rstack.headD 0, seq := f.soft < f.rstack.length, frame := f.pop back }).settleWarp c.w (c.succ s)) s

/-- The lanes of the warp once some have exited. -/
def Warp.lanesWithout (w : Warp) (e : Word) : Word := w.lanes &&& ~~~w.leaving e

/-- A vertex warp hands its batch over (13 R317, 17 R376): the number of a batch counts gangs, workgroups and warps. -/
def State.handVout (s : State) (w : Nat) : State :=
  match s.warp? w with
  | none => s
  | some x =>
    match x.task.bind fun t => (Tab.get? s.tasks t), s.wg? x.wg, Tab.get? s.gangs x.gang with
    | some t, some g, some gang =>
      if x.stage ≠ .rasterVertex || x.voutDone then s
      else
        let n := (gang.index.toNat * gang.kernel.gang + g.index) * gang.kernel.warps + x.index
        let s : State := s.modWarp w fun x => { x with voutDone := true }
        { s with rasters := Tab.modify s.rasters (t.graph * 256 + t.pass) fun r =>
            { r with batches := Tab.set r.batches (t.sub * 2 ^ 48 + n) x.vout } }
    | _, _, _ => s

/-- The fragments of a task that some lanes shade, changed. -/
def State.modFrags (s : State) (w : Nat) (lanes : Word) (f : Frag → Frag) : State :=
  match (s.warp? w).bind fun x => x.task.map fun t => (x, t) with
  | none => s
  | some (x, t) =>
    let seqs := (x.frags.filter fun p => lanes.getLsbD p.1).map (·.2.seq)
    { s with tasks := Tab.modify s.tasks t fun t => { t with frags := t.frags.map fun g => if seqs.contains g.seq then f g else g } }

/-- Lanes of a warp end (06 R146): fragments release their sections and are due their late test, or none where they were discarded
(13 R301, R318, 17 R382); the last lanes of a vertex warp hand its batch over (13 R317). -/
def State.endLanes (s : State) (w : Nat) (exiting : Word) (discard : Bool) (keep : Option Nat) : State :=
  let lanes := match s.warp? w with | some x => x.leaving exiting | none => exiting
  let s : State := s.modFrags w lanes fun g => { g with st := 2, holds := false, released := true, discarded := g.discarded || discard }
  let s : State := s.modWarp w fun x =>
    { x.exitLanes lanes keep with frags := x.frags.map fun p => if lanes.getLsbD p.1 then (p.1, { p.2 with holds := false }) else p }
  let s : State := if lanes = 0 then s else s.stopVictim w
  if (match s.warp? w with | some x => x.lanes == 0 | none => false) then s.handVout w else s

/-- A gang killed by its supervisor for a cause: its graph fails, with detail 1 for the graph-depth trap and 2 for others (16 R346, R368),
its launch's record fails with code 5 (R348), and its lanes end as if they executed EXIT. -/
def State.killGang (s : State) (g cause : Nat) : State :=
  match Tab.get? s.gangs g with
  | none => s
  | some x =>
    let s : State := match x.source with
      | .task t => (match Tab.get? s.tasks t with | some y => s.failGraph y.graph (if cause = 0x0F then 1 else 2) | none => s)
      | .launch l => { s with launches := Tab.modify s.launches l fun y => { y with failed := some (y.failed.getD cause) } }
    let ws := (s.warps.filter fun w => w.2.gang = g).map (·.1)
    let s : State :=
      { s with wgs := s.wgs.map fun y =>
          if y.2.gang = g then
            (y.1, { y.2 with queues := y.2.queues.map fun q =>
              (q.1, { q.2 with pushers := q.2.pushers.filter fun p => p.2.2, poppers := [] }) })
          else y }
    ws.foldl (fun (s : State) (w : Nat) => match s.warp? w with | some y => s.endLanes w y.lanes false none | none => s) s

/-- The supervisor's kill, an act in the handler of the split of entry k: the default action for the cause that the handler was entered for,
of the context for a watchdog kill, of the gang for any other (16 R348, R368, 18 R407; assumption 32). -/
def State.supervisorKill (s : State) (w k : Nat) : State :=
  match (s.warp? w).bind fun x => (x.split? k).map fun sp => (x, sp) with
  | none => s
  | some (x, sp) =>
    if sp.level ≠ 2 || sp.sup.saved.isNone then s
    else if sp.sup.cause = 0x14 then s.killContext x.ctx 0x14
    else s.killGang x.gang sp.sup.cause

/-- An operation that may meet a fault after it was counted (08 R193, R198, 13 R310). -/
def PendOp.mayHold (p : PendOp) : Bool :=
  (match p.path with | some q => [.C, .Q, .T, .X].contains q | none => false) || (match p.body with | .istore .. => true | _ => false)

/-- The oldest fault held for a warp, of an operation of a path or of an abandoned matrix operation (08 R193, 12 R279, 13 R310). -/
def Warp.oldestHeld (w : Warp) : Option ((Nat × HeldFault) ⊕ (Nat × HeldFault)) :=
  match (w.heldOps [.S, .C, .Q, .T, .X]).head?, w.abandoned.head? with
  | some (p, h), some (id, g) => if p.id < id then some (.inl (p.id, h)) else some (.inr (id, g))
  | some (p, h), none => some (.inl (p.id, h))
  | none, some a => some (.inr a)
  | none, none => none

/-- EXIT and DISCARD (R155, 13 R318): by the warp's last lanes, faults held for the warp are delivered first, and the exit waits
while an operation that may still hold one is outstanding (assumption 20). -/
def Issue.exitGo (c : Issue) (s : State) (discard : Bool) : State :=
  if c.em = 0 then c.leave s
  else
    let last := c.warp.lanesWithout c.em = 0
    match (if last then c.warp.oldestHeld else none) with
    | some (.inl (id, h)) => (c.trap s (h.trap c.sp)).giveHeld c.w c.k id
    | some (.inr (id, h)) =>
      let s : State := c.trap s (h.trap c.sp)
      s.modWarp c.w fun w => { w with abandoned := w.abandoned.filter fun a => a.1 ≠ id }
    | none =>
        if last && c.warp.pend.any fun p => !p.done && p.mayHold then
          c.stall s .drain
        else c.leave (s.endLanes c.w c.em discard (some c.k))

/-- EXIT (R155). -/
def execExit (e : Enc) (s : State) : Host.Outcome State Fault Refusal := runIsa formExit e (fun c s => c.exitGo s false) s

/-- The place of the oldest stacked path. -/
def Warp.oldestPath (w : Warp) : Option Nat :=
  ((List.range w.stack.length).filter fun i => match w.stack[i]? with | some (.path ..) => true | _ => false).getLast?

/-- YIELDS (R155): the path it takes runs at LEVEL 0, as a resumed path does (R139; assumption 19). -/
def execYields (e : Enc) (s : State) : Host.Outcome State Fault Refusal :=
  runIsa formYields e (fun c s =>
    let s := c.clearLatches s
    match c.warp.oldestPath with
    | none => c.leave s
    | some i =>
      (c.warpDo s fun w =>
        match w.split? c.k, w.stack[i]? with
        | some sp, some (.path pc seq m j f h) =>
          { w with stack := w.stack.set i (.path (c.next s) true sp.mask j sp.frame sp.handler) }.setSplit c.k
            { Split.fresh pc m f { h with level := 0 } sp.age with seq }
        | _, _ => w).settleWarp c.w (c.succ s)) s

/-- TRAP and BKPT (R156): a trap of the instruction's lanes, with the code in TINFO. -/
def codeTrap (cause : Nat) (c : Issue) (s : State) : State :=
  if c.em = 0 then c.leave s else c.trap s { cause, lanes := some c.em, exact := true, info := c.e.fb 0 16 }

/-- TRAP (R156). -/
def execTrap (e : Enc) (s : State) : Host.Outcome State Fault Refusal := runIsa formTrap e (codeTrap 0x0E) s
/-- BKPT (R156). -/
def execBkpt (e : Enc) (s : State) : Host.Outcome State Fault Refusal := runIsa formBkpt e (codeTrap 0x13) s

/-- A reserved opcode (R66): cause 0x01, reserved opcode, precisely. -/
def execReservedOpcode (op : BitVec 9) (e : Enc) (s : State) : Host.Outcome State Fault Refusal :=
  let f : Form := { op := op.toNat, fields := fun _ => true, roles := fun _ => { d := .raw, a := .raw, b := .raw, c := .raw } }
  match s.issue? f e with
  | none => .fault .noIssuingSplit
  | some c => .next (c.trap (c.begin s) (illegal 0x01))

end Sys2Proof.Machine
end

