-- ==== Sys2Proof/Machine/Convert.lean ====
section
/-!
DEFINITION. The conversions and the block-scaled formats (05 R124 to R130, 01 R35 to R38).
-/
namespace Sys2Proof.Machine

/-- Bits of an integer type. -/
def intBits (t : Nat) : Nat := 8 * typeBytes t

/-- A result of a floating-point type code: a 16-bit one in the low half (R124). -/
def typeWords (t : Nat) (x : Nat) : List Word := if t = 7 then words2 (BitVec.ofNat 64 x) else [BitVec.ofNat 32 x]

/-- An integer result in its register or pair, a narrow one extended (01 R23). -/
def intWords (t : Nat) (x : Int) : List Word := if typeNames t = 2 then words2 (BitVec.ofInt 64 x) else [BitVec.ofInt 32 x]

/-- An integer source of a type, from the low bits of its register or pair (R124). -/
def Issue.intSrc (c : Issue) (spec : BitVec 9) (i t : Nat) : Int :=
  let v := if typeNames t = 2 then (c.rd64 spec i).toNat else (c.rd spec i).toNat % 2 ^ intBits t
  if signedType t ∧ 2 ^ (intBits t - 1) ≤ v then (v : Int) - (2 ^ intBits t : Nat) else v

/-- CVT (R125). -/
def execCvt (e : Enc) (s : State) : Host.Outcome State Fault Refusal :=
  runIsa formCvt e (fun c s => c.direct s fun i =>
    let st := fmtOf (e.fb 8 4)
    let x := st.value (c.rdFp e.a i st false)
    let r := roundTo (fmtOf (e.fb 0 4)) (x.flush st c.ftz) c.rnd c.ftz (e.fb 12 1 = 1)
    { words := typeWords (e.fb 0 4) r.1, flags := sigFlag [x] ||| r.2 }) s

/-- F2I (R126): a subnormal that is not flushed always raises inexact. -/
def execF2i (e : Enc) (s : State) : Host.Outcome State Fault Refusal :=
  runIsa formF2i e (fun c s => c.direct s fun i =>
    let st := fmtOf (e.fb 8 4)
    let t := e.fb 0 4
    let x := (st.value (c.rdFp e.a i st false)).flush st c.ftz
    let r := toIntType x (signedType t) (intBits t) c.rnd
    { words := intWords t r.1, flags := r.2 ||| (if x.subnormal st then flagNX else 0) }) s

/-- I2F (R127). -/
def execI2f (e : Enc) (s : State) : Host.Outcome State Fault Refusal :=
  runIsa formI2f e (fun c s => c.direct s fun i =>
    let r := roundTo (fmtOf (e.fb 0 4)) (Num.ofInt (c.intSrc e.a i (e.fb 8 4)) 0 false) c.rnd false (e.fb 12 1 = 1)
    { words := typeWords (e.fb 0 4) r.1, flags := r.2 }) s

/-- Lanes of a block group: 4 for bytes, 8 for e2m1. -/
def groupSize (t : Nat) : Nat := if t = 10 then 8 else 4

/-- emax_elem of R38. -/
def emaxElem (t : Nat) : Int := if t = 8 then 8 else if t = 9 then 15 else 2

/-- A value times 2^k. -/
def Num.scale (x : Num) (k : Int) : Num := match x with | .fin n m e => .fin n m (e + k) | x => x

/-- A lane's f32 source, subnormals as zeros under FTZ. -/
def Issue.blockSrc (c : Issue) (i : Nat) : Num := (Fmt.f32.value (c.rdFp c.e.a i .f32 false)).flush .f32 c.ftz

/-- A lane's scale exponent X of R129 and R130; none for the NaN scale. -/
def Issue.blockScale (c : Issue) (i : Nat) : Option Int :=
  if c.e.fb 7 1 = 1 then some 0
  else
    let b := (c.rd c.e.b i).toNat % 256
    if b = 255 then none else some ((b : Int) - 127)

/-- SCALEX (R128). -/
def execScalex (e : Enc) (s : State) : Host.Outcome State Fault Refusal :=
  runIsa formScalex e (fun c s =>
    let ls := lanesOf c.em
    let code : Word := BitVec.ofNat 32 (scaleCode (ls.map c.blockSrc) (emaxElem (e.fb 0 4)))
    c.laneResult s (fun _ => [code]) [code] (ls.map fun i => (i, sigFlag [Fmt.f32.value (c.rdFp e.a i .f32 false)]))) s

/-- A lane's element of PACKQ and the flags its lane raises (R129). -/
def Issue.packElem (c : Issue) (i : Nat) : Nat × FpFlags :=
  let t := fmtOf (c.e.fb 0 4)
  match c.blockScale i with
  | none => (t.nanEnc, 0)
  | some x =>
    let r := roundTo t ((c.blockSrc i).scale (-x)) c.rnd false (c.e.fb 12 1 = 1)
    (r.1, sigFlag [Fmt.f32.value (c.rdFp c.e.a i .f32 false)] ||| r.2)

/-- PACKQ (R129). -/
def execPackq (e : Enc) (s : State) : Host.Outcome State Fault Refusal :=
  runIsa formPackq e (fun c s =>
    let g := groupSize (e.fb 0 4)
    let w := 32 / g
    c.direct s fun i =>
      let base := i - i % g
      let word := (List.range g).foldl (fun x k => if c.em.getLsbD (base + k) then x + (c.packElem (base + k)).1 * 2 ^ (w * k) else x) 0
      { words := [BitVec.ofNat 32 word], flags := (c.packElem i).2 }) s

/-- UNPACKQ (R130). -/
def execUnpackq (e : Enc) (s : State) : Host.Outcome State Fault Refusal :=
  runIsa formUnpackq e (fun c s =>
    let t := fmtOf (e.fb 0 4)
    let g := groupSize (e.fb 0 4)
    let w := 32 / g
    c.direct s fun i =>
      let x := t.value (((c.rd e.a i).toNat >>> (w * (i % g))) % 2 ^ w)
      match c.blockScale i with
      | none => { words := [BitVec.ofNat 32 Fmt.f32.nanEnc] }
      | some k =>
        match x with
        | .nan _ => { words := [BitVec.ofNat 32 Fmt.f32.nanEnc] }
        | .inf n => { words := [BitVec.ofNat 32 (Fmt.f32.signed n Fmt.f32.infEnc)] }
        | x =>
          let r := roundTo .f32 (x.scale k) c.rnd c.ftz (e.fb 12 1 = 1)
          { words := [BitVec.ofNat 32 r.1], flags := r.2 }) s

end Sys2Proof.Machine
end

