-- ==== Sys2Proof/Machine/Matrix.lean ====
section
/-!
DEFINITION. Matrix engines (12): operand maps, tiles, the engine's queue, batches and the bypass slot, and the engine's events.
-/
namespace Sys2Proof.Machine

/-! ### Operand maps (R269 to R274) -/

/-- Bytes of cols elements of a type. -/
def elemBytes (ty cols : Nat) : Nat := if ty = 10 then (cols + 1) / 2 else cols * typeBytes ty

/-- Dense columns of one sparse line (R270). -/
def dplOf (ty : Nat) : Nat := if typeBytes ty = 2 then 96 else 192

/-- The bytes that a row of a map occupies, before any rounding under a swizzle. -/
def MapDesc.rowBytes (d : MapDesc) : Nat :=
  if d.sparse then 128 * ((d.cols + dplOf d.ty - 1) / dplOf d.ty) else elemBytes d.ty d.cols

/-- The descriptor in four g registers, decoded (R270). -/
def mapOf (g0 g1 g2 g3 : Word) : MapDesc :=
  { base := g0.toNat % 2 ^ 21, pitch := g1.toNat % 65536, soff := g1.toNat / 65536, rows := g2.toNat % 2048 + 1,
    cols := g2.toNat / 65536 % 2048 + 1, ty := g3.toNat % 16, sparse := g3.toNat / 16 % 2 = 1, swz := g3.toNat / 32 % 4,
    scl := g3.toNat / 128 % 2 = 1 }

/-- The checks of R270 on a descriptor. -/
def mapBad (g0 g2 g3 : Word) (d : MapDesc) : Bool :=
  let narrow := typeBytes d.ty = 2 || ([8, 9, 11, 12].contains d.ty)
  let al := if d.sparse ∨ d.swz ≠ 0 then 128 else 16
  g0.toNat / 2 ^ 21 ≠ 0 || g2.toNat / 2 ^ 27 ≠ 0 || g2.toNat / 2048 % 32 ≠ 0 || g3.toNat / 256 ≠ 0 ||
  !([0, 4, 5, 6, 7, 8, 9, 10, 11, 12].contains d.ty) || d.swz = 3 ||
  (d.sparse && (!narrow || d.swz ≠ 0 || d.cols % 4 ≠ 0)) ||
  (d.scl && !([8, 9, 10].contains d.ty)) || (d.ty = 10 && d.cols % 2 = 1) ||
  d.base % al ≠ 0 || d.pitch % al ≠ 0 || d.pitch = 0 || d.pitch < d.rowBytes

/-- Byte offset within a row under the swizzle (R271). -/
def MapDesc.swizzle (d : MapDesc) (r b : Nat) : Nat :=
  if d.swz = 1 then b ^^^ (r % 8 * 16) else if d.swz = 2 then b ^^^ (r % 4 * 32) else b

/-- The byte of a dense element. -/
def MapDesc.at (d : MapDesc) (r c : Nat) : Nat :=
  d.base + r * d.pitch + d.swizzle r (if d.ty = 10 then c / 2 else c * typeBytes d.ty)

/-- The bytes of a row that its extent covers. -/
def MapDesc.extent (d : MapDesc) : Nat := if d.swz = 0 then d.rowBytes else (d.rowBytes + 127) / 128 * 128

/-- The runs of scratchpad that an operand touches: its rows, and its scale array of n codes (R272, R274). -/
def MapDesc.runs (d : MapDesc) (codes : Nat) : List (Nat × Nat) :=
  ((List.range d.rows).map fun r => (d.base + r * d.pitch, d.extent)) ++ (if d.scl then [(32 * d.soff, codes)] else [])

/-- An element's encoding in a dense map. -/
def MapDesc.elem (d : MapDesc) (sp : Memory) (r c : Nat) : Nat :=
  if d.ty = 10 then let b := (sp.read (d.at r c)).toNat; if c % 2 = 0 then b % 16 else b / 16
  else sp.readNat (d.at r c) (typeBytes d.ty)

/-- The code of group g of a sparse row (R273), and the two kept positions. -/
def MapDesc.sparseCode (d : MapDesc) (sp : Memory) (m g : Nat) : Nat :=
  let per := dplOf d.ty / 4
  let line := d.base + m * d.pitch + 128 * (g / per)
  let b := (sp.read (line + g % per / 2)).toNat
  if g % per % 2 = 0 then b % 16 else b / 16

/-- The kept positions of a code. -/
def keptOf (code : Nat) : List Nat := [[0, 1], [0, 2], [0, 3], [1, 2], [1, 3], [2, 3]].getD code []

/-- The value slot of a kept element (m, k) of a sparse map, where it is kept. -/
def MapDesc.sparseElem (d : MapDesc) (sp : Memory) (m k : Nat) : Option Nat :=
  let g := k / 4
  let per := dplOf d.ty / 4
  let line := d.base + m * d.pitch + 128 * (g / per)
  ((keptOf (d.sparseCode sp m g)).findIdx? fun x => x = k % 4).map fun i =>
    sp.readNat (line + 32 + (2 * (g % per) + i) * typeBytes d.ty) (typeBytes d.ty)

/-- The first sparse line of an operand whose header breaks R273, as its scratchpad offset. -/
def MapDesc.badHeader (d : MapDesc) (sp : Memory) (m : Nat) : Option Nat :=
  let dpl := dplOf d.ty
  let per := dpl / 4
  ((List.range m).flatMap fun r => (List.range ((d.cols + dpl - 1) / dpl)).map fun j => (r, j)).findSome? fun p =>
    let line := d.base + p.1 * d.pitch + 128 * p.2
    let beyond := (List.range (64 - per)).any fun i =>
      let b := (sp.read (line + (per + i) / 2)).toNat
      (if (per + i) % 2 = 0 then b % 16 else b / 16) ≠ 0
    let codes := (List.range per).any fun g => dpl * p.2 + 4 * g < d.cols && 6 ≤ d.sparseCode sp p.1 (per * p.2 + g)
    if beyond || codes then some line else none

/-! ### Tiles and regions (R266, R267) -/

/-- KIND of a tile. -/
def Warp.kind (w : Warp) (acc : Nat) : Nat := (Tab.get? w.kinds acc).getD 0

/-- Rows and columns of a region. -/
def regionSize (shape : Nat) : Nat × Nat := (if shape < 2 then 64 else 32, if shape % 2 = 0 then 64 else 32)

/-- Key of a tile element's low word. -/
def tileKey (acc kind row col : Nat) : Nat := acc * 4096 + (row * 64 + col) * (if kind = 2 then 2 else 1)

/-- A tile element. -/
def Warp.tileGet (w : Warp) (acc kind row col : Nat) : Nat :=
  let k := tileKey acc kind row col
  (Store.get w.acc k).toNat + (if kind = 2 then 2 ^ 32 * (Store.get w.acc (k + 1)).toNat else 0)

/-- A tile element set. -/
def tileSet (m : Store 32) (acc kind row col x : Nat) : Store 32 :=
  let k := tileKey acc kind row col
  let m := Store.set m k (BitVec.ofNat 32 x)
  if kind = 2 then Store.set m (k + 1) (BitVec.ofNat 32 (x / 2 ^ 32)) else m

/-- A tile emptied. -/
def tileClear (m : Store 32) (acc : Nat) : Store 32 := m.filter fun p => p.1 / 4096 ≠ acc

/-- The elements of a region as tile row and column with their place in the region. -/
def MatrixOp.elems (o : MatrixOp) : List (Nat × Nat) :=
  (List.range (regionSize o.shape).1).flatMap fun m => (List.range (regionSize o.shape).2).map fun n => (m, n)

/-! ### Arithmetic (R41 to R43, R275) -/

/-- An exact product term with its MX scales. -/
def mxTerm (fa fb : Fmt) (a b ca cb : Nat) : Num :=
  if ca = 255 ∨ cb = 255 then .nan false
  else
    match (fa.value a).mul (fb.value b) with
    | .fin neg m e => .fin neg m (e + (ca : Int) - 127 + (cb : Int) - 127)
    | x => x

/-- One group's step of R41 on an f32 accumulator; a group without kept products leaves it. -/
def groupStep (acc : Nat) (terms : List Num) : Nat :=
  if terms.isEmpty then acc
  else
    let part := (roundTo .f32 (sumAll 0 terms) 0 false false).1
    (roundTo .f32 (sumAll 0 [Fmt.f32.value acc, Fmt.f32.value part]) 0 false false).1

/-- An 8-bit integer element. -/
def intElem (ty x : Nat) : Int := if ty = 11 then (BitVec.ofNat 8 x).toInt else x

/-- The accumulation of one tile element over its kept products in ascending k (R41, R43): a, b and scale codes by k. -/
def accumulate (kind ta tb acc k : Nat) (a : Nat → Option Nat) (b ca cb : Nat → Nat) : Nat :=
  if kind = 1 then
    ((List.range k).foldl (fun (s : BitVec 32) i =>
      match a i with
      | some x => s + BitVec.ofInt 32 (intElem ta x * intElem tb (b i))
      | none => s) (BitVec.ofNat 32 acc)).toNat
  else if kind = 2 then
    (List.range k).foldl (fun s i =>
      match a i with
      | some x => (roundTo .f64 (sumAll 0 [(Fmt.f64.value x).mul (Fmt.f64.value (b i)), Fmt.f64.value s]) 0 false false).1
      | none => s) acc
  else
    (List.range ((k + 15) / 16)).foldl (fun s g =>
      groupStep s ((List.range 16).filterMap fun i =>
        let q := 16 * g + i
        if q < k then (a q).map fun x => mxTerm (fmtOf ta) (fmtOf tb) x (b q) (ca q) (cb q) else none)) acc

/-- The scale code of k for row or column n (R272). -/
def MapDesc.code (d : MapDesc) (sp : Memory) (n k kk : Nat) : Nat :=
  if d.scl then (sp.read (32 * d.soff + n * (kk / 32) + k / 32)).toNat else 127

/-- Element (m, k) of operand A: a map's, or the bypass slot's. -/
def MatrixOp.elemA (o : MatrixOp) (sp : Memory) (slot : Store 64) (m k : Nat) : Option Nat :=
  match o.mapA with
  | some d => if d.sparse then d.sparseElem sp m k else some (d.elem sp m k)
  | none => some (Store.get slot (64 * m + k)).toNat

/-- MMA and MMAS at the engine (R283): the region accumulated. K is B's rows. -/
def MatrixOp.multiply (o : MatrixOp) (w : Warp) (sp : Memory) (slot : Store 64) : Store 32 :=
  match o.mapB with
  | none => w.acc
  | some b =>
    let kk := b.rows
    o.elems.foldl (fun t p =>
      let row := 32 * o.mo + p.1
      let col := 32 * o.no + p.2
      let ca (k : Nat) : Nat := match o.mapA with | some a => a.code sp p.1 k kk | none => 127
      tileSet t o.acc o.tileKind row col
        (accumulate o.tileKind o.ty b.ty (w.tileGet o.acc o.tileKind row col) kk (fun k => o.elemA sp slot p.1 k)
          (fun k => b.elem sp k p.2) ca (fun k => b.code sp p.2 k kk))) w.acc

/-- An f16 or bf16 element widened as MLDA does; other bits unchanged (R285). -/
def widen (ty x : Nat) : Nat :=
  if ty = 6 then x * 65536
  else if ty = 5 then
    (if x / 1024 % 32 = 31 then x / 32768 * 2 ^ 31 + 255 * 2 ^ 23 + x % 1024 * 2 ^ 13
     else (roundTo .f32 (Fmt.f16.value x) 0 false false).1)
  else x

/-- MLDA at the engine (R285): the region loaded, the rest of the tile zero. -/
def MatrixOp.load (o : MatrixOp) (w : Warp) (sp : Memory) : Store 32 :=
  match o.mapA with
  | none => w.acc
  | some d =>
    o.elems.foldl (fun t p => tileSet t o.acc o.tileKind (32 * o.mo + p.1) (32 * o.no + p.2) (widen d.ty (d.elem sp p.1 p.2)))
      (tileClear w.acc o.acc)

/-- One element as MDRAIN and MBYP convert it (R286). -/
def MatrixOp.convert (o : MatrixOp) (x : Nat) : Nat :=
  if o.tileKind = 0 then
    let x := match o.scale with
      | some s => (roundTo .f32 ((Fmt.f32.value x).mul (Fmt.f32.value s.toNat)) 0 false false).1
      | none => x
    let x := if o.relu then (minMax .f32 false true x 0).1 else x
    let x := match o.clamp with
      | some c =>
        let hi := c.toNat % 2 ^ 31
        (minMax .f32 false false (minMax .f32 false true x (hi + 2 ^ 31)).1 hi).1
      | none => x
    if o.ty = 4 then x else (roundTo (fmtOf o.ty) (Fmt.f32.value x) 0 false true).1
  else if o.tileKind = 1 then
    let v := (BitVec.ofNat 32 x).toInt
    let v := if o.relu then max v 0 else v
    if o.ty = 11 then (BitVec.ofInt 8 (max (-128) (min 127 v))).toNat else (BitVec.ofInt 32 v).toNat
  else if o.relu then (minMax .f64 false true x 0).1 else x

/-- The converted elements of a region with their places. -/
def MatrixOp.converted (o : MatrixOp) (w : Warp) : List (Nat × Nat × Nat) :=
  o.elems.map fun p => (p.1, p.2, o.convert (w.tileGet o.acc o.tileKind (32 * o.mo + p.1) (32 * o.no + p.2)))

/-! ### Issue (R280) -/

/-- The engine of a warp's quadrant (R265). -/
def Warp.engineKey (w : Warp) : Nat := 4 * w.core + w.part / 4

/-- An engine. -/
def State.engine (s : State) (k : Nat) : Engine := (Tab.get? s.engines k).getD { queue := [], bypass := none, ended := [] }

/-- An engine changed. -/
def State.modEngine (s : State) (k : Nat) (f : Engine → Engine) : State := { s with engines := Tab.set s.engines k (f (s.engine k)) }

/-- Illegal convergence (R268): not all 32 lanes are live in the split. -/
def Issue.notFull (c : Issue) : Bool := c.sp.mask ≠ BitVec.allOnes 32 || c.sp.live ≠ BitVec.allOnes 32

/-- A trap of cause 0x02 that names a resource in F, POS 5 (R289). DESIGN CHOICE (assumption 131): for sub-causes 0x05 and 0x06 the spec gives no POS;
it is 0. -/
def resourceTrap (sub : Nat) : Trap := { cause := 0x02, sub, pos := if sub = 0x04 then 5 else 0 }

/-- A matrix instruction: the full-mask check, whatever the predicate, then its body where the predicate holds (R268). -/
def Issue.collective (c : Issue) (s : State) (k : State → State) : State :=
  if c.notFull then c.trap s { cause := 0x0A, sub := 0x01 }
  else if c.em = 0 then c.leave s
  else k s

/-- A region of F's SHAPE, MO and NO. -/
def shapeOf (e : Enc) : Nat × Nat × Nat := (e.fb 12 2, e.fb 14 1, e.fb 15 1)

/-- Shape and kind agree (R267): an f64 tile has 32 rows. -/
def shapeOk (e : Enc) (kind : Nat) : Bool := kind ≠ 2 || ((regionSize (e.fb 12 2)).1 = 32 && e.fb 14 1 = 0)

/-- An accumulator that the warp has, and a map that it has built. -/
def Issue.map? (c : Issue) (n : Nat) : Option MapDesc := Tab.get? c.warp.maps n

/-- Steps 4 to 7 of R280 over the scratchpad runs of an operation, then its issue: granules flip, it joins the open batch. DESIGN CHOICE (assumption
104): the spec does not say which offset SVA names for an operand beyond ALLOC; it is the start of the first run that passes it. -/
def Issue.engineGo (c : Issue) (s : State) (runs : List (Nat × Nat)) (write claims : Bool) (o : MatrixOp) (then_ : State → State) : State :=
  match s.wg? c.warp.wg with
  | none => c.trap s (scratchTrap 0x06 [(0, 0)] write)
  | some x =>
    let eng := s.engine c.warp.engineKey
    let other := match eng.bypass with | some b => b.holder.isSome && b.holder ≠ some c.w | none => false
    match runs.find? fun r => x.alloc < r.1 + r.2 with
    | some r => c.trap s (scratchTrap 0x06 [(0, r.1)] write)
    | none =>
      if runs.any fun r => x.owned r.1 r.2 then c.stall s .granules
      else if claims && other then c.stall s .engine
      else if 32 ≤ eng.queue.length then c.stall s .engine
      else
        let gs := (runs.flatMap fun r => granulesOf r.1 r.2).foldl setAdd []
        let s : State := s.flipEngine (gs.map fun g => (c.warp.wg, g))
        let s : State := (s.modEngine c.warp.engineKey fun x => { x with queue := x.queue ++ [{ o with granules := gs }] }).bump
        let s : State := c.warpDo s fun w => { w with openOps := w.openOps ++ [o.id] }
        c.leave (then_ s)

/-- An operation with nothing filled in but its place. -/
def Issue.matrixOp (c : Issue) (s : State) (kind : Nat) : MatrixOp :=
  let sh := shapeOf c.e
  let acc := c.e.fb 0 4
  { warp := c.w, id := s.nextId, kind, acc, shape := sh.1, mo := sh.2.1, no := sh.2.2, mapA := none, mapB := none, bypass := false,
    tileKind := c.warp.kind acc, ty := 0, scale := none, clamp := none, relu := false, granules := [], releases := false,
    started := false, readDone := false, failed := false }

/-- A and B types that an MMA (or MMAS) accepts on a tile of a KIND (R275). -/
def typesOk (kind a b : Nat) (sparse : Bool) : Bool :=
  match kind with
  | 0 => (a = 10 && b = 10 && !sparse) || ([8, 9].contains a && [8, 9].contains b) || (a = 5 && b = 5) || (a = 6 && b = 6)
  | 1 => [11, 12].contains a && [11, 12].contains b
  | _ => a = 7 && b = 7 && !sparse

/-- MAP (R281). -/
def execMap (e : Enc) (s : State) : Host.Outcome State Fault Refusal :=
  runIsa formMap e (fun c s =>
    c.collective s fun s =>
      let g (k : Nat) : Word := c.warp.gReg (e.a.toNat + k)
      let d := mapOf (g 0) (g 1) (g 2) (g 3)
      if mapBad (g 0) (g 2) (g 3) d then c.trap s { cause := 0x02, sub := 0x06 }
      else c.leave (c.warpDo s fun w => { w with maps := Tab.set w.maps (e.fb 0 4) d })) s

/-- An MMA or MMAS over its operands (R283): A is a map or the bypass slot with its type, rows and columns. -/
def Issue.mmaGo (c : Issue) (s : State) (a : Option MapDesc) (ta ra ka : Nat) (b : MapDesc) (sparse : Bool) : State :=
  let o := c.matrixOp s (if sparse then 1 else 0)
  let mn := regionSize o.shape
  let scl := (match a with | some d => d.scl | none => false) || b.scl
  let sparseOk := (match a with | some d => d.sparse = sparse | none => true) && !b.sparse
  if !shapeOk c.e o.tileKind || ra ≠ mn.1 || b.rows ≠ ka || b.cols ≠ mn.2 || !sparseOk || !typesOk o.tileKind ta b.ty sparse ||
      (scl && ka % 32 ≠ 0) then c.trap s (resourceTrap 0x05)
  else
    let runs := (match a with | some d => d.runs (mn.1 * (ka / 32)) | none => []) ++ b.runs (mn.2 * (ka / 32))
    let holds := match (s.engine c.warp.engineKey).bypass with | some x => x.holder = some c.w | none => false
    c.engineGo s runs false false { o with mapA := a, mapB := some b, bypass := a.isNone, ty := ta, releases := holds } id

/-- MMA (R282, R283). -/
def execMma (e : Enc) (s : State) : Host.Outcome State Fault Refusal :=
  runIsa formMma e (fun c s =>
    c.collective s fun s =>
      if c.warp.accs ≤ e.fb 0 4 then c.trap s (resourceTrap 0x04)
      else
        match c.map? (e.fb 8 4) with
        | none => c.trap s (resourceTrap 0x04)
        | some b =>
          if e.fb 16 1 = 1 then
            match (s.engine c.warp.engineKey).bypass with
            | some x => if x.holder = some c.w then c.mmaGo s none x.ty x.rows x.cols b false else c.trap s (resourceTrap 0x04)
            | none => c.trap s (resourceTrap 0x04)
          else
            match c.map? (e.fb 4 4) with
            | none => c.trap s (resourceTrap 0x04)
            | some a => c.mmaGo s (some a) a.ty a.rows a.cols b false) s

/-- MMAS (R282, R283). -/
def execMmas (e : Enc) (s : State) : Host.Outcome State Fault Refusal :=
  runIsa formMmas e (fun c s =>
    c.collective s fun s =>
      if c.warp.accs ≤ e.fb 0 4 then c.trap s (resourceTrap 0x04)
      else
        match c.map? (e.fb 4 4), c.map? (e.fb 8 4) with
        | some a, some b => c.mmaGo s (some a) a.ty a.rows a.cols b true
        | _, _ => c.trap s (resourceTrap 0x04)) s

/-- MZERO (R284): the KIND changes at issue. -/
def execMzero (e : Enc) (s : State) : Host.Outcome State Fault Refusal :=
  runIsa formMzero e (fun c s =>
    c.collective s fun s =>
      if c.warp.accs ≤ e.fb 0 4 then c.trap s (resourceTrap 0x04)
      else
        let o : MatrixOp := { c.matrixOp s 2 with shape := 0, mo := 0, no := 0, tileKind := e.fb 4 2 }
        c.engineGo s [] false false o fun s => c.warpDo s fun w => { w with kinds := Tab.set w.kinds (e.fb 0 4) (e.fb 4 2) }) s

/-- MLDA (R285). -/
def execMlda (e : Enc) (s : State) : Host.Outcome State Fault Refusal :=
  runIsa formMlda e (fun c s =>
    c.collective s fun s =>
      if c.warp.accs ≤ e.fb 0 4 then c.trap s (resourceTrap 0x04)
      else
        match c.map? (e.fb 4 4) with
        | none => c.trap s (resourceTrap 0x04)
        | some d =>
          let kind := e.fb 16 2
          let mn := regionSize (e.fb 12 2)
          let tyOk := (kind = 0 && [4, 5, 6].contains d.ty) || (kind = 1 && d.ty = 0) || (kind = 2 && d.ty = 7)
          if !shapeOk e kind || d.rows ≠ mn.1 || d.cols ≠ mn.2 || d.sparse || d.scl || !tyOk then c.trap s (resourceTrap 0x05)
          else
            c.engineGo s (d.runs 0) false false { c.matrixOp s 3 with mapA := some d, tileKind := kind, ty := d.ty } fun s =>
              c.warpDo s fun w => { w with kinds := Tab.set w.kinds (e.fb 0 4) kind }) s

/-- The operation of MDRAIN or MBYP with its conversion (R286). -/
def Issue.drainOp (c : Issue) (s : State) (kind ty : Nat) : MatrixOp :=
  { c.matrixOp s kind with
    ty, relu := c.e.fb 16 1 = 1,
    scale := if c.e.fb 18 1 = 1 then some (c.warp.gReg c.e.b.toNat) else none,
    clamp := if c.e.fb 17 1 = 1 then some (c.warp.gReg (c.e.b.toNat + 1)) else none }

/-- The types a drain of a tile may take. -/
def drainTypes (kind : Nat) : List Nat := if kind = 0 then [4, 5, 6, 8, 9] else if kind = 1 then [0, 11] else [7]

/-- MDRAIN (R286). -/
def execMdrain (e : Enc) (s : State) : Host.Outcome State Fault Refusal :=
  runIsa formMdrain e (fun c s =>
    c.collective s fun s =>
      if c.warp.accs ≤ e.fb 0 4 then c.trap s (resourceTrap 0x04)
      else
        match c.map? (e.fb 4 4) with
        | none => c.trap s (resourceTrap 0x04)
        | some d =>
          let kind := c.warp.kind (e.fb 0 4)
          let mn := regionSize (e.fb 12 2)
          if !shapeOk e kind || d.rows ≠ mn.1 || d.cols ≠ mn.2 || d.sparse || d.scl || !((drainTypes kind).contains d.ty) ||
              (kind ≠ 0 && e.fb 17 2 ≠ 0) then c.trap s (resourceTrap 0x05)
          else c.engineGo s (d.runs 0) true false { c.drainOp s 4 d.ty with mapA := some d } id) s

/-- The types MBYP may take from a tile. -/
def bypTypes (kind : Nat) : List Nat := if kind = 0 then [5, 6, 8, 9] else if kind = 1 then [11] else []

/-- MBYP (R278, R286): it claims the slot. -/
def execMbyp (e : Enc) (s : State) : Host.Outcome State Fault Refusal :=
  runIsa formMbyp e (fun c s =>
    c.collective s fun s =>
      if c.warp.accs ≤ e.fb 0 4 then c.trap s (resourceTrap 0x04)
      else
        let kind := c.warp.kind (e.fb 0 4)
        let ty := e.fb 4 4
        let mn := regionSize (e.fb 12 2)
        if !shapeOk e kind || !((bypTypes kind).contains ty) || (kind ≠ 0 && e.fb 17 2 ≠ 0) then c.trap s (resourceTrap 0x05)
        else
          c.engineGo s [] false true (c.drainOp s 5 ty) fun s =>
            s.modEngine c.warp.engineKey fun x =>
              { x with bypass := some { holder := some c.w, ty, rows := mn.1, cols := mn.2,
                                        data := match x.bypass with | some b => b.data | none => [] } }) s

/-! ### Batches (R276, R287, R288) -/

/-- An operation of a warp that its engine has not completed. -/
def State.opOpen (s : State) (w : Warp) (id : Nat) : Bool := (s.engine w.engineKey).queue.any fun o => o.id = id

/-- Batches all of whose operations have completed leave the closed ones. -/
def State.pruneBatches (s : State) (w : Nat) : State :=
  match s.warp? w with
  | none => s
  | some x => s.modWarp w fun y => { y with closed := y.closed.filter fun b => b.2.any (s.opOpen x) }

/-- MFENCE (R287). -/
def execMfence (e : Enc) (s : State) : Host.Outcome State Fault Refusal :=
  runIsa formMfence e (fun c s =>
    c.collective s fun s =>
      if 8 ≤ c.warp.closed.length then c.stall s .batch
      else
        let n := c.warp.bseq % 8
        let s : State := c.warpDo s fun w =>
          { w with bseq := w.bseq + 1, openOps := [], closed := w.closed ++ [(n, w.openOps)] }.put (.g e.d.toNat) 0 (BitVec.ofNat 32 n)
        c.leave (s.pruneBatches c.w)) s

/-- The operations that MWAIT waits for. -/
def Issue.waitOps (c : Issue) : List Nat :=
  if c.e.fb 0 1 = 1 then c.warp.openOps ++ c.warp.closed.flatMap (·.2) ++ c.warp.abandoned.map (·.1)
  else
    let n := (c.rd c.e.a 0).toNat % 8
    match c.warp.closed.find? fun b => b.1 = n with
    | some b => b.2
    | none => []

/-- The oldest abandoned operation among some (R279). -/
def Warp.abandonedIn (w : Warp) (ids : List Nat) : Option (Nat × HeldFault) := w.abandoned.find? fun a => ids.contains a.1

/-- A delivered fault of an abandoned operation is no longer held: the operation is not repeated (R279). -/
def State.dropAbandoned (s : State) (w id : Nat) : State :=
  s.modWarp w fun x => { x with abandoned := x.abandoned.filter fun a => a.1 ≠ id }

/-- MWAIT (R288). -/
def execMwait (e : Enc) (s : State) : Host.Outcome State Fault Refusal :=
  runIsa formMwait e (fun c s =>
    c.collective s fun s =>
      match c.warp.abandonedIn c.waitOps with
      | some (id, h) => (c.trap s (h.trap c.sp)).dropAbandoned c.w id
      | none => if c.waitOps.any (s.opOpen c.warp) then c.block s (.matrix c.waitOps) else c.leave s) s

/-- MWAIT_WAKE (R288, R279). -/
def execMwaitWake (w k : Nat) (s : State) : Host.Outcome State Fault Refusal :=
  .next (match (s.warp? w).bind fun x => (x.split? k).map fun sp => (x, sp) with
    | none => s
    | some (x, sp) =>
      match sp.wait with
      | .matrix ids =>
        if !x.runs then s
        else
          (match x.abandonedIn ids with
           | some (id, h) => (s.waitTrap w k (h.trap sp) sp.waitAt).dropAbandoned w id
           | none => if ids.any (s.opOpen x) then s else s.resumeSplit w k)
      | _ => s)

/-! ### The engine's events (R277, R279, R283) -/

/-- The granules of an operation return to lanes. -/
def State.releaseFoot (s : State) (w : Warp) (o : MatrixOp) : State := s.flipLanes (o.granules.map fun g => (w.wg, g))

/-- The slot released by the operation that must, unless a later MBYP of the same warp has claimed it again (R278). -/
def Engine.release (x : Engine) (o : MatrixOp) : Engine :=
  if o.releases && !(x.queue.any fun q => q.kind = 5 && q.warp = o.warp && o.id < q.id) then
    { x with bypass := x.bypass.map fun b => if b.holder = some o.warp then { b with holder := none } else b }
  else x

/-- The warp of an operation: in being, or ended with the operation still in the queue (06 R146; assumption 40). -/
def State.opWarp (s : State) (eng w : Nat) : Option Warp := s.warp? w <|> Tab.get? (s.engine eng).ended w

/-- The warp of an operation changed. -/
def State.modOpWarp (s : State) (eng w : Nat) (f : Warp → Warp) : State :=
  (s.modWarp w f).modEngine eng fun x => { x with ended := Tab.modify x.ended w f }

/-- The head operation leaves the queue; an ended warp whose last it was is forgotten. -/
def Engine.pop (x : Engine) : Engine :=
  let q := x.queue.drop 1
  { x with queue := q, ended := x.ended.filter fun w => q.any fun o => o.warp = w.1 }

/-- The head operation of an engine leaves its queue; a batch may thereby complete. -/
def State.finishHead (s : State) (eng w : Nat) : State := (s.modEngine eng Engine.pop).pruneBatches w

/-- The head operation abandoned with a held fault (R279). -/
def State.abandon (s : State) (eng : Nat) (w : Warp) (o : MatrixOp) (h : HeldFault) : State :=
  let s : State := (s.releaseFoot w o).modEngine eng fun x => x.release o
  let s : State := s.modWarp o.warp fun y => { y with abandoned := y.abandoned ++ [(o.id, h)] }
  s.finishHead eng o.warp

/-- The 128-byte lines that some scratchpad bytes lie in. -/
def linesOf (r : Nat × Nat) : List Nat :=
  if r.2 = 0 then [] else (List.range ((r.1 + r.2 + 127) / 128 - r.1 / 128)).map fun k => (r.1 / 128 + k) * 128

/-- The places an operation reads, as SVA names them: scratchpad lines of 128 bytes, of operands and of their scales, and its accumulator. -/
def MatrixOp.places (o : MatrixOp) : List Nat :=
  let mn := regionSize o.shape
  let lines (d : MapDesc) (scales : Nat) : List Nat := (d.runs scales).flatMap linesOf
  (if o.kind = 4 then []
   else (match o.mapA with | some d => lines d (if o.kind ≤ 1 then mn.1 * (d.cols / 32) else 0) | none => [])
     ++ (match o.mapB with | some d => lines d (mn.2 * (d.rows / 32)) | none => []))
    ++ (if o.kind = 2 ∨ o.kind = 3 then [] else [0x80000000 + o.acc])

/-- MATRIX_OP_START (R180, R279, R283): the head operation starts once earlier lane accesses to its footprint are performed; err: one
of its reads meets an uncorrectable error. -/
def execMatrixOpStart (eng : Nat) (err : Bool) (s : State) : Host.Outcome State Fault Refusal :=
  .next (match (s.engine eng).queue with
    | [] => s
    | o :: rest =>
      match s.opWarp eng o.warp with
      | none => s.finishHead eng o.warp
      | some w =>
        if o.started || s.asleep eng || 1 ≤ s.throttle || s.laneBusy o.id (o.granules.map fun g => (w.wg, g)) then s
        else if err && !o.places.isEmpty then
          s.noteError.abandon eng w o
            { cause := 0x11, sub := 0x02,
              addr := BitVec.ofNat 64 (o.places.getD (Config.errorPlace s.free % o.places.length) 0) }
        else s.modEngine eng fun x => { x with queue := { o with started := true } :: rest })

/-- The first scratchpad line of an operation's operands in which a byte it reads is bad (R279, 26 R502). -/
def MatrixOp.badLine (o : MatrixOp) (g : Workgroup) : Option Nat :=
  if g.bad.isEmpty then none
  else
    let mn := regionSize o.shape
    let runs (m : Option MapDesc) (n : Nat) (byRow : Bool) : List (Nat × Nat) := match m with
      | some d => d.runs (if o.kind ≤ 1 then n * ((if byRow then d.cols else d.rows) / 32) else 0)
      | none => []
    (runs o.mapA mn.1 true ++ runs o.mapB mn.2 false).findSome? fun r =>
      (linesOf r).find? fun a => g.bad.any fun b => a ≤ b && b < a + 128 && r.1 ≤ b && b < r.1 + r.2

/-- MATRIX_READ_COMPLETE (R277, R283, R285): the operands are read, their granules flip back, and the tile is written; the head's tile
is named by no earlier operation still in the queue. -/
def execMatrixReadComplete (eng : Nat) (s : State) : Host.Outcome State Fault Refusal :=
  .next (match (s.engine eng).queue with
    | [] => s
    | o :: rest =>
      match (s.opWarp eng o.warp).bind fun w => (s.wg? w.wg).map fun g => (w, g) with
      | none => s.finishHead eng o.warp
      | some (w, g) =>
        if !o.started || o.readDone || !(o.kind ≤ 1 || o.kind = 3) then s
        else
          match o.badLine g with
          | some line => s.noteError.abandon eng w o { cause := 0x11, sub := 0x02, addr := BitVec.ofNat 64 line }
          | none =>
          match (if o.kind = 1 then o.mapA.bind fun d => d.badHeader g.sp (regionSize o.shape).1 else none) with
          | some line => s.abandon eng w o { cause := 0x12, sub := 0x02, addr := BitVec.ofNat 64 line }
          | none =>
            let slot := match (s.engine eng).bypass with | some b => b.data | none => []
            let acc := if o.kind = 3 then o.load w g.sp else o.multiply w g.sp slot
            let s : State := (s.modOpWarp eng o.warp fun y => { y with acc }).releaseFoot w o
            s.modEngine eng fun x => { x with queue := { o with readDone := true } :: rest }.release o)

/-- MATRIX_OP_COMPLETE (R276, R284, R286). -/
def execMatrixOpComplete (eng : Nat) (s : State) : Host.Outcome State Fault Refusal :=
  .next (match (s.engine eng).queue with
    | [] => s
    | o :: _ =>
      match s.opWarp eng o.warp with
      | none => s.finishHead eng o.warp
      | some w =>
        if !o.started then s
        else if o.kind ≤ 1 ∨ o.kind = 3 then if o.readDone then s.finishHead eng o.warp else s
        else
          let s : State :=
            if o.kind = 2 then s.modOpWarp eng o.warp fun y => { y with acc := tileClear y.acc o.acc }
            else if o.kind = 4 then
              match o.mapA with
              | some d => s.modWg w.wg fun g =>
                  g.put ((o.converted w).flatMap fun p => cellsOf (d.at p.1 p.2.1) (typeBytes d.ty) p.2.2)
              | none => s
            else
              s.modEngine eng fun x =>
                { x with bypass := x.bypass.map fun b =>
                    { b with data := (o.converted w).foldl (fun m p => Store.set m (64 * p.1 + p.2.1) (BitVec.ofNat 64 p.2.2)) [] } }
          (s.releaseFoot w o).finishHead eng o.warp)

end Sys2Proof.Machine
end

