-- ==== Sys2Proof/Machine/Astc.lean ====
section
/-!
DEFINITION. The ASTC LDR profile (13 R292, R293): a texel of a 128-bit two-dimensional block as four 16-bit UNORM channels. The spec names the
profile and describes none of its blocks: all that stands here is PRESUMED, from the ASTC format as its standard describes it (assumption
9).
-/
namespace Sys2Proof.Machine

/-- n bits of a number from bit lo. -/
def bitsFrom (x lo n : Nat) : Nat := x / 2 ^ lo % 2 ^ n

/-! ### Integer sequences -/

/-- A range of coded values: 0 plain bits, 1 with a trit, 2 with a quint, and its bits. -/
structure AstcRange where
  kind : Nat
  bits : Nat
deriving DecidableEq, Repr

/-- The ranges of 2, 3, 4, 5, 6, 8, 10, 12, 16, 20, 24, 32, 40, 48, 64, 80, 96, 128, 160, 192 and 256 values. -/
def astcRanges : List AstcRange :=
  [⟨0, 1⟩, ⟨1, 0⟩, ⟨0, 2⟩, ⟨2, 0⟩, ⟨1, 1⟩, ⟨0, 3⟩, ⟨2, 1⟩, ⟨1, 2⟩, ⟨0, 4⟩, ⟨2, 2⟩, ⟨1, 3⟩, ⟨0, 5⟩, ⟨2, 3⟩, ⟨1, 4⟩, ⟨0, 6⟩, ⟨2, 4⟩, ⟨1, 5⟩,
   ⟨0, 7⟩, ⟨2, 5⟩, ⟨1, 6⟩, ⟨0, 8⟩]

/-- The bits that n values of a range take. -/
def AstcRange.size (q : AstcRange) (n : Nat) : Nat :=
  q.bits * n + (if q.kind = 1 then (8 * n + 4) / 5 else if q.kind = 2 then (7 * n + 2) / 3 else 0)

/-- The five trits packed in eight bits. -/
def astcTrits (t : Nat) : List Nat :=
  let b (k : Nat) : Nat := bitsFrom t k 1
  let hi := bitsFrom t 2 3 = 7
  let c := if hi then 4 * bitsFrom t 5 3 + bitsFrom t 0 2 else bitsFrom t 0 5
  let (t4, t3) := if hi then (2, 2) else if bitsFrom t 5 2 = 3 then (2, b 7) else (b 7, bitsFrom t 5 2)
  let k (n : Nat) : Nat := bitsFrom c n 1
  let (t2, t1, t0) :=
    if bitsFrom c 0 2 = 3 then (2, k 4, 2 * k 3 + k 2 * (1 - k 3))
    else if bitsFrom c 2 2 = 3 then (2, 2, bitsFrom c 0 2)
    else (k 4, bitsFrom c 2 2, 2 * k 1 + k 0 * (1 - k 1))
  [t0, t1, t2, t3, t4]

/-- The three quints packed in seven bits. -/
def astcQuints (t : Nat) : List Nat :=
  let b (k : Nat) : Nat := bitsFrom t k 1
  if bitsFrom t 1 2 = 3 ∧ bitsFrom t 5 2 = 0 then [4, 4, 4 * b 0 + 2 * (b 4 * (1 - b 0)) + b 3 * (1 - b 0)]
  else
    let (q2, c) :=
      if bitsFrom t 1 2 = 3 then (4, 8 * bitsFrom t 3 2 + 2 * (3 - bitsFrom t 5 2) + b 0) else (bitsFrom t 5 2, bitsFrom t 0 5)
    if bitsFrom c 0 3 = 5 then [bitsFrom c 3 2, 4, q2] else [bitsFrom c 0 3, bitsFrom c 3 2, q2]

/-- Value i of a sequence: its trit or quint and its bits. Packs of five trits or three quints lie between the values' bits. -/
def AstcRange.value (q : AstcRange) (d i : Nat) : Nat × Nat :=
  let pack (per total : Nat) (widths places : List Nat) (digits : Nat → List Nat) : Nat × Nat :=
    let base := i / per * (per * q.bits + total)
    let k := i % per
    let t := (List.range per).foldl (fun t j =>
      t + bitsFrom d (base + (j + 1) * q.bits + places.getD j 0) (widths.getD j 0) * 2 ^ places.getD j 0) 0
    ((digits t).getD k 0, bitsFrom d (base + k * q.bits + places.getD k 0) q.bits)
  if q.kind = 1 then pack 5 8 [2, 2, 1, 2, 1] [0, 2, 4, 5, 7] astcTrits
  else if q.kind = 2 then pack 3 7 [3, 2, 2] [0, 3, 5] astcQuints
  else (0, bitsFrom d (i * q.bits) q.bits)

/-- n bits repeated downwards to w bits. -/
def astcRepeat (w n m : Nat) : Nat :=
  (List.range w).foldl (fun v j => v + (if m.testBit (n - 1 - j % n) then 2 ^ (w - 1 - j) else 0)) 0

/-- A value with a trit or quint spread over w - 2 bits and its lowest bit on top: the digit's weight, and those of its bits from bit 1 up. -/
def astcSpread (w weight : Nat) (places : List Nat) (v : Nat × Nat) : Nat :=
  let b := (List.range places.length).foldl (fun b k => b + (if v.2.testBit (k + 1) then places.getD k 0 else 0)) 0
  if v.2 % 2 = 1 then 2 ^ (w - 2) + Nat.xor (v.1 * weight + b) (2 ^ w - 1) / 4 else (v.1 * weight + b) / 4

/-- An endpoint value, 0 to 255. -/
def AstcRange.colour (q : AstcRange) (v : Nat × Nat) : Nat :=
  if q.kind = 0 then astcRepeat 8 q.bits v.2
  else if q.kind = 1 then
    let p := ([(204, []), (93, [0x116]), (44, [0x85, 0x10A]), (22, [0x41, 0x82, 0x104]), (11, [0x20, 0x40, 0x81, 0x102]),
      (5, [0x10, 0x20, 0x40, 0x80, 0x101])] : List (Nat × List Nat)).getD (q.bits - 1) (0, [])
    astcSpread 9 p.1 p.2 v
  else
    let p := ([(113, []), (54, [0x10C]), (26, [0x82, 0x105]), (13, [0x40, 0x81, 0x102]), (6, [0x20, 0x40, 0x80, 0x101])] :
      List (Nat × List Nat)).getD (q.bits - 1) (0, [])
    astcSpread 9 p.1 p.2 v

/-- A weight, 0 to 64. -/
def AstcRange.weight (q : AstcRange) (v : Nat × Nat) : Nat :=
  let x :=
    if q.kind = 0 then astcRepeat 6 q.bits v.2
    else if q.kind = 1 then
      if q.bits = 0 then [0, 32, 63].getD v.1 0
      else
        let p := ([(50, []), (23, [0x45]), (11, [0x21, 0x42])] : List (Nat × List Nat)).getD (q.bits - 1) (0, [])
        astcSpread 7 p.1 p.2 v
    else if q.bits = 0 then [0, 16, 32, 47, 63].getD v.1 0
    else
      let p := ([(28, []), (13, [0x42])] : List (Nat × List Nat)).getD (q.bits - 1) (0, [])
      astcSpread 7 p.1 p.2 v
  if 32 < x then x + 1 else x

/-! ### Block modes -/

/-- A block's weight grid: its width and height, its range, whether it has two planes. -/
structure AstcGrid where
  w : Nat
  h : Nat
  range : AstcRange
  dual : Bool
deriving DecidableEq, Repr

/-- The weights of a grid, and the bits they take. -/
def AstcGrid.count (g : AstcGrid) : Nat := g.w * g.h * (if g.dual then 2 else 1)
/-- The bits of a grid's weights. -/
def AstcGrid.bits (g : AstcGrid) : Nat := g.range.size g.count

/-- The grid that a block mode's eleven bits give; none for a reserved mode. -/
def astcMode (m : Nat) : Option AstcGrid :=
  let a := bitsFrom m 5 2
  let b := bitsFrom m 7 2
  let d := bitsFrom m 10 1
  let h := bitsFrom m 9 1
  let grid (r w hh d h : Nat) : Option AstcGrid :=
    if r < 2 then none else some { w, h := hh, range := astcRanges.getD (r - 2 + 6 * h) ⟨0, 1⟩, dual := d = 1 }
  if bitsFrom m 0 2 ≠ 0 then
    let r := bitsFrom m 4 1 + 2 * bitsFrom m 0 2
    match bitsFrom m 2 2 with
    | 0 => grid r (b + 4) (a + 2) d h
    | 1 => grid r (b + 8) (a + 2) d h
    | 2 => grid r (a + 2) (b + 8) d h
    | _ => if b < 2 then grid r (a + 2) (b + 6) d h else grid r (b - 2 + 2) (a + 2) d h
  else
    let r := bitsFrom m 4 1 + 2 * bitsFrom m 2 2
    match b with
    | 0 => grid r 12 (a + 2) d h
    | 1 => grid r (a + 2) 12 d h
    | 2 => grid r (a + 6) (bitsFrom m 9 2 + 6) 0 0
    | _ => if a = 0 then grid r 6 10 d h else if a = 1 then grid r 10 6 d h else none

/-- The bits of a block in the opposite order: its weights stand from the top down. -/
def astcReverse (x : Nat) : Nat := (List.range 128).foldl (fun v k => v + (if x.testBit k then 2 ^ (127 - k) else 0)) 0

/-- Weight n of a block's sequence, zero beyond it. -/
def AstcGrid.weightAt (g : AstcGrid) (x n : Nat) : Nat :=
  if g.count ≤ n then 0 else g.range.weight (g.range.value (astcReverse x % 2 ^ g.bits) n)

/-- A texel's weight in a plane of a block of bw by bh texels: between the four grid points around it. -/
def AstcGrid.at (g : AstcGrid) (x bw bh s t plane : Nat) : Nat :=
  let along (size n k : Nat) : Nat := ((1024 + size / 2) / (size - 1) * k * (n - 1) + 32) / 64
  let gs := along bw g.w s
  let gt := along bh g.h t
  let fs := gs % 16
  let ft := gt % 16
  let p (dx dy : Nat) : Nat :=
    let n := gs / 16 + dx + (gt / 16 + dy) * g.w
    g.weightAt x (if g.dual then 2 * n + plane else n)
  let w11 := (fs * ft + 8) / 16
  ((16 + w11 - fs - ft) * p 0 0 + (fs - w11) * p 1 0 + (ft - w11) * p 0 1 + w11 * p 1 1 + 8) / 16

/-! ### Partitions -/

/-- The partition hash of a seed. -/
def astcHash (p : BitVec 32) : BitVec 32 :=
  let p := (p ^^^ (p >>> 15)) * 0xEEDE0891#32
  let p := p ^^^ (p >>> 5)
  let p := p + (p <<< 16)
  let p := p ^^^ (p >>> 7)
  let p := p ^^^ (p >>> 3)
  let p := p ^^^ (p <<< 6)
  p ^^^ (p >>> 17)

/-- The partition of a texel, of `parts` partitions under an index; texels of small blocks count double. -/
def astcPartition (index parts x y : Nat) (small : Bool) : Nat :=
  let x := if small then 2 * x else x
  let y := if small then 2 * y else y
  let r := (astcHash (BitVec.ofNat 32 (index + (parts - 1) * 1024))).toNat
  let s1 := if parts = 3 then 6 else 5
  let s2 := if index / 2 % 2 = 1 then 4 else 5
  let (sh1, sh2) := if index % 2 = 1 then (s2, s1) else (s1, s2)
  let seed (k sh : Nat) : Nat := let v := bitsFrom r k 4; v * v / 2 ^ sh
  let side (a b k : Nat) : Nat := (seed a sh1 * x + seed b sh2 * y + r / 2 ^ k) % 64
  let a := side 0 4 14
  let b := side 8 12 10
  let c := if parts < 3 then 0 else side 16 20 6
  let d := if parts < 4 then 0 else side 24 28 2
  if parts < 2 then 0
  else if b ≤ a ∧ c ≤ a ∧ d ≤ a then 0 else if c ≤ b ∧ d ≤ b then 1 else if d ≤ c then 2 else 3

/-! ### Endpoints -/

/-- Blue contraction. -/
def astcContract (c : List Int) : List Int :=
  let b := c.getD 2 0
  [(c.getD 0 0 + b) / 2, (c.getD 1 0 + b) / 2, b, c.getD 3 0]

/-- A base of eight bits and a signed offset of six, from their two values. -/
def astcOffset (offset base : Nat) : Int × Int :=
  let o : Int := offset / 2 % 64
  (base / 2 + offset / 128 * 128, if o < 32 then o else o - 64)

/-- The two endpoints of a mode, each R, G, B, A of eight bits; none for an HDR mode. -/
def astcEnds (mode : Nat) (v : List Nat) : Option (List Int × List Int) :=
  let n (k : Nat) : Int := v.getD k 0
  let clamp (c : List Int) : List Int := c.map fun x => min 255 (max 0 x)
  let direct (e0 e1 : List Int) : List Int × List Int :=
    if n 0 + n 2 + n 4 ≤ n 1 + n 3 + n 5 then (e0, e1) else (astcContract e1, astcContract e0)
  let offset (alphas : Int × Int) : List Int × List Int :=
    let o := [astcOffset (v.getD 1 0) (v.getD 0 0), astcOffset (v.getD 3 0) (v.getD 2 0), astcOffset (v.getD 5 0) (v.getD 4 0), alphas]
    let e0 := o.map (·.1)
    let e1 := (o.map fun p => p.1 + p.2)
    if 0 ≤ ((o.take 3).map (·.2)).sum then (clamp e0, clamp e1) else (clamp (astcContract e1), clamp (astcContract e0))
  let scaled (a0 a1 : Int) : List Int × List Int := ([n 0 * n 3 / 256, n 1 * n 3 / 256, n 2 * n 3 / 256, a0], [n 0, n 1, n 2, a1])
  match mode with
  | 0 => some ([n 0, n 0, n 0, 255], [n 1, n 1, n 1, 255])
  | 1 =>
    let l0 : Nat := v.getD 0 0 / 4 + v.getD 1 0 / 64 * 64
    let l1 : Nat := min 255 (l0 + v.getD 1 0 % 64)
    some ([l0, l0, l0, 255], [l1, l1, l1, 255])
  | 4 => some ([n 0, n 0, n 0, n 2], [n 1, n 1, n 1, n 3])
  | 5 =>
    let l := astcOffset (v.getD 1 0) (v.getD 0 0)
    let a := astcOffset (v.getD 3 0) (v.getD 2 0)
    some (clamp [l.1, l.1, l.1, a.1], clamp [l.1 + l.2, l.1 + l.2, l.1 + l.2, a.1 + a.2])
  | 6 => some (scaled 255 255)
  | 8 => some (direct [n 0, n 2, n 4, 255] [n 1, n 3, n 5, 255])
  | 9 => some (offset (255, 0))
  | 10 => some (scaled (n 4) (n 5))
  | 12 => some (direct [n 0, n 2, n 4, n 6] [n 1, n 3, n 5, n 7])
  | 13 => some (offset (astcOffset (v.getD 7 0) (v.getD 6 0)))
  | _ => none

/-- The values that an endpoint mode takes. -/
def astcValues (mode : Nat) : Nat := 2 * (mode / 4 + 1)

/-! ### Blocks -/

/-- What a block has beside its weights: partitions and their index, the endpoint mode of each, the channel of the second plane, its endpoint
values. -/
structure AstcBlock where
  grid : AstcGrid
  parts : Nat
  index : Nat
  modes : List Nat
  plane2 : Option Nat
  values : List Nat
deriving DecidableEq, Repr

/-- The endpoint modes of a block of several partitions, and the bits that they take under its weights. -/
def astcModes (x parts top : Nat) : List Nat × Nat :=
  let low := bitsFrom x 23 6
  if low % 4 = 0 then (List.replicate parts (low / 4), 0)
  else
    let n := 3 * parts - 4
    let t := low + 64 * bitsFrom x (top - n) n
    ((List.range parts).map fun i => 4 * (bitsFrom t (2 + i) 1 + low % 4 - 1) + bitsFrom t (2 + parts + 2 * i) 2, n)

/-- A block of bw by bh texels taken apart; none where it is illegal. -/
def astcParse (x bw bh : Nat) : Option AstcBlock :=
  (astcMode (bitsFrom x 0 11)).bind fun g =>
    let parts := bitsFrom x 11 2 + 1
    if bw < g.w || bh < g.h || 64 < g.count || g.bits < 24 || 96 < g.bits || (g.dual && parts = 4) then none
    else
      let top := 128 - g.bits
      let ms := if parts = 1 then ([bitsFrom x 13 4], 0) else astcModes x parts top
      let n := (ms.1.map astcValues).sum
      let start := if parts = 1 then 17 else 29
      let below := top - ms.2 - (if g.dual then 2 else 0)
      let room := below - start
      match ((astcRanges.drop 4).filter fun q => q.size n ≤ room).getLast? with
      | none => none
      | some q =>
        if 18 < n then none
        else
          let d := bitsFrom x start (q.size n)
          some { grid := g, parts, index := bitsFrom x 13 10, modes := ms.1,
                 plane2 := if g.dual then some (bitsFrom x below 2) else none,
                 values := (List.range n).map fun i => q.colour (q.value d i) }

/-- The channels of a texel of a block that has been taken apart; none in a partition of an HDR endpoint mode. -/
def AstcBlock.texel (b : AstcBlock) (x bw bh s t : Nat) : Option (List Nat) :=
  let p := if b.parts = 1 then 0 else astcPartition b.index b.parts s t (bw * bh < 31)
  let first := ((b.modes.take p).map astcValues).sum
  (astcEnds (b.modes.getD p 0) (b.values.drop first)).map fun e =>
    (List.range 4).map fun k =>
      let w := b.grid.at x bw bh s t (if b.plane2 = some k then 1 else 0)
      let c (l : List Int) : Nat := (l.getD k 0).toNat * 257
      (c e.1 * (64 - w) + c e.2 * w + 32) / 64

/-- A void-extent block: one colour; none where its extent is illegal, its reserved bits are not ones, or its colour is an HDR one. -/
def astcVoid (x : Nat) : Option (List Nat) :=
  let e (k : Nat) : Nat := bitsFrom x (12 + 13 * k) 13
  let whole := e 0 = 8191 ∧ e 1 = 8191 ∧ e 2 = 8191 ∧ e 3 = 8191
  if bitsFrom x 9 1 = 1 || bitsFrom x 10 2 ≠ 3 || (!whole && (e 1 ≤ e 0 || e 3 ≤ e 2)) then none
  else some ((List.range 4).map fun k => bitsFrom x (64 + 16 * k) 16)

/-- The texel (s, t) of a block of bw by bh texels as four 16-bit UNORM channels; none for the error colour: an illegal block, or an HDR mode
(R293). -/
def astcTexel (bw bh x s t : Nat) : Option (List Nat) :=
  if bitsFrom x 0 9 = 0x1FC then astcVoid x else (astcParse x bw bh).bind fun b => b.texel x bw bh s t

end Sys2Proof.Machine
end

