-- ==== Sys2Proof/Machine/Rational.lean ====
section
/-!
DEFINITION. Exact rational arithmetic, rounded once to a format, and f32 operations on encodings (13 R306, R307, 17 R377 to R386).
-/
namespace Sys2Proof.Machine

/-- A rational number; the denominator is not zero. -/
structure Q where
  n : Int
  d : Nat
deriving DecidableEq, Repr

/-- An integer. -/
def Q.ofInt (i : Int) : Q := { n := i, d := 1 }
/-- Sum. -/
def Q.add (a b : Q) : Q := if a.d = b.d then { n := a.n + b.n, d := a.d } else { n := a.n * b.d + b.n * a.d, d := a.d * b.d }
/-- Negation. -/
def Q.neg (a : Q) : Q := { a with n := -a.n }
/-- Difference. -/
def Q.sub (a b : Q) : Q := a.add b.neg
/-- Product. -/
def Q.mul (a b : Q) : Q := { n := a.n * b.n, d := a.d * b.d }
/-- Quotient; by zero it is zero. -/
def Q.div (a b : Q) : Q :=
  if b.n = 0 then { n := 0, d := 1 } else { n := if b.n < 0 then -(a.n * b.d) else a.n * b.d, d := a.d * b.n.natAbs }
/-- Less. -/
def Q.lt (a b : Q) : Bool := a.n * b.d < b.n * a.d
/-- At most. -/
def Q.le (a b : Q) : Bool := a.n * b.d ≤ b.n * a.d
/-- The largest integer at most a. -/
def Q.floor (a : Q) : Int := a.n / (a.d : Int)
/-- Rounded to nearest, ties to even. -/
def Q.rne (a : Q) : Int :=
  let f := a.floor
  let twice := 2 * (a.n - f * a.d)
  if twice < (a.d : Int) then f else if (a.d : Int) < twice then f + 1 else if f % 2 = 0 then f else f + 1
/-- Magnitude. -/
def Q.abs (a : Q) : Q := { a with n := a.n.natAbs }

/-- A finite value as a rational; others 0. -/
def Num.toQ (x : Num) : Q :=
  match x with
  | .fin neg m e =>
    let k : Int := if neg then -(m : Int) else m
    if 0 ≤ e then { n := k * (2 ^ e.toNat : Nat), d := 1 } else { n := k, d := 2 ^ (-e).toNat }
  | _ => { n := 0, d := 1 }

/-- A rational as a value that rounds as it does; a zero takes the sign given. -/
def Q.num (a : Q) (zneg : Bool) : Num :=
  if a.n = 0 then .fin zneg 0 0
  else
    let k := 80 + bitLen a.d
    let m := a.n.natAbs <<< k
    sticky (a.n < 0) (m / a.d) (-(k : Int)) (m % a.d = 0)

/-- Rounded once to a format under a mode. -/
def Q.round (a : Q) (f : Fmt) (mode : Nat) : Nat := (roundTo f (a.num false) mode false false).1

/-- A rational rounded once to f32. -/
def Q.f32 (a : Q) : Nat := a.round .f32 0

/-! ### f32 operations on encodings -/

/-- The value of an f32. -/
def val32 (x : Nat) : Num := Fmt.f32.value x
/-- f32 sum. -/
def add32 (a b : Nat) : Nat := (roundTo .f32 (sumAll 0 [val32 a, val32 b]) 0 false false).1
/-- f32 difference. -/
def sub32 (a b : Nat) : Nat := (roundTo .f32 (sumAll 0 [val32 a, (val32 b).negate]) 0 false false).1
/-- f32 product. -/
def mul32 (a b : Nat) : Nat := (roundTo .f32 ((val32 a).mul (val32 b)) 0 false false).1
/-- f32 quotient by a positive integer. -/
def divInt32 (a n : Nat) : Nat :=
  match val32 a with
  | .fin neg m e => (roundTo .f32 (({ (Num.fin neg m e).toQ with d := (Num.fin neg m e).toQ.d * n } : Q).num neg) 0 false false).1
  | x => (roundTo .f32 x 0 false false).1
/-- An integer as f32. -/
def ofInt32 (i : Int) : Nat := (roundTo .f32 (Num.ofInt i 0 false) 0 false false).1
/-- FSQRT of an f32. -/
def sqrt32 (a : Nat) : Nat := (roundTo .f32 (fnSqrt (val32 a)).1 0 false false).1
/-- FLOG2 of an f32. -/
def log32 (a : Nat) : Nat := (roundTo .f32 (fnLog2 (val32 a)).1 0 false false).1
/-- The greater of two f32 (R34). -/
def max32 (a b : Nat) : Nat := (minMax .f32 false true a b).1
/-- The lesser of two f32 (R34). -/
def min32 (a b : Nat) : Nat := (minMax .f32 false false a b).1
/-- An f32 constant: 1.0. -/
def one32 : Nat := 0x3F800000
/-- 0.5. -/
def half32 : Nat := 0x3F000000

end Sys2Proof.Machine
end

