-- ==== Sys2Proof/Machine/Pixel.lean ====
section
/-!
DEFINITION. Pixel formats (13 R292, R293), image and sampler descriptors (R303, R305), texel addresses (R304), and the taps of a
filtered sample (R306, R307).
-/
namespace Sys2Proof.Machine

/-! ### Formats -/

/-- How a channel is stored. -/
inductive Chan where
  | unorm | srgb | f16 | f32 | small (frac : Nat) | raw
deriving DecidableEq, Repr

/-- The channels of a format: channel, low bit, width, kind (R292). -/
def formatChans (f : Nat) : List (Nat × Nat × Nat × Chan) :=
  match f with
  | 0x01 => [(0, 0, 8, .unorm)]
  | 0x02 => [(0, 0, 8, .unorm), (1, 8, 8, .unorm)]
  | 0x03 => [(0, 0, 8, .unorm), (1, 8, 8, .unorm), (2, 16, 8, .unorm), (3, 24, 8, .unorm)]
  | 0x04 => [(0, 0, 8, .srgb), (1, 8, 8, .srgb), (2, 16, 8, .srgb), (3, 24, 8, .unorm)]
  | 0x05 => [(0, 0, 16, .f16)]
  | 0x06 => [(0, 0, 16, .f16), (1, 16, 16, .f16)]
  | 0x07 => [(0, 0, 16, .f16), (1, 16, 16, .f16), (2, 32, 16, .f16), (3, 48, 16, .f16)]
  | 0x08 => [(0, 0, 32, .f32)]
  | 0x09 => [(0, 0, 32, .f32), (1, 32, 32, .f32)]
  | 0x0A => [(0, 0, 16, .unorm)]
  | 0x0B => [(0, 0, 32, .f32), (1, 32, 32, .f32), (2, 64, 32, .f32), (3, 96, 32, .f32)]
  | 0x0C => [(0, 0, 32, .raw)]
  | 0x0D => [(0, 0, 32, .raw)]
  | 0x10 => [(0, 0, 32, .f32)]
  | 0x11 => [(0, 0, 24, .unorm)]
  | 0x12 => [(0, 0, 11, .small 6), (1, 11, 11, .small 6), (2, 22, 10, .small 5)]
  | 0x13 => [(0, 0, 10, .unorm), (1, 10, 10, .unorm), (2, 20, 10, .unorm), (3, 30, 2, .unorm)]
  | _ => []

/-- An integer format. -/
def intFormat (f : Nat) : Bool := f = 0x0C || f = 0x0D

/-- An ASTC format. -/
def astcFormat (f : Nat) : Bool := 0x20 ≤ f && f ≤ 0x2D

/-- A code of R292. -/
def formatOk (f : Nat) : Bool := !(formatChans f).isEmpty || astcFormat f

/-- Block width and height of an ASTC format. -/
def astcBlock (f : Nat) : Nat × Nat :=
  [(4, 4), (5, 4), (5, 5), (6, 5), (6, 6), (8, 5), (8, 6), (8, 8), (10, 5), (10, 6), (10, 8), (10, 10), (12, 10), (12, 12)].getD
    (f - 0x20) (4, 4)

/-- A UNORM code of n bits as f32. -/
def unormDecode (n c : Nat) : Nat := ({ n := c, d := 2 ^ n - 1 } : Q).f32

/-- An f32 as a UNORM code of n bits. -/
def unormEncode (n x : Nat) : Nat :=
  match val32 x with
  | .nan _ => 0
  | .inf neg => if neg then 0 else 2 ^ n - 1
  | .fin neg m e =>
    let q := (Num.fin neg m e).toQ
    if q.le { n := 0, d := 1 } then 0
    else if (Q.ofInt 1).le q then 2 ^ n - 1
    else (q.mul (Q.ofInt (2 ^ n - 1 : Nat))).rne.toNat

/-- The largest m at most `top` with m^5 at most x, by halving. -/
def fifthRoot (x lo size fuel : Nat) : Nat :=
  match fuel with
  | 0 => lo
  | n + 1 => let h := size / 2; if (lo + h) ^ 5 ≤ x then fifthRoot x (lo + h) (size - h) n else fifthRoot x lo h n

/-- The IEC 61966-2-1 decoding of an 8-bit code, exact and rounded to f32 (R293; the transfer function is PRESUMED from that standard,
assumption 9): linear up to 0.04045, above it ((c + 0.055) / 1.055) to the power 12/5. -/
def srgbDecode (c : Nat) : Nat :=
  if c ≤ 10 then ({ n := 100 * c, d := 255 * 1292 } : Q).f32
  else
    let n := (1000 * c + 55 * 255) ^ 12 * 2 ^ 300
    let d := (1055 * 255) ^ 12
    let m := fifthRoot (n / d) 0 (2 ^ 61) 64
    (roundTo .f32 (sticky false m (-60) (m ^ 5 * d = n)) 0 false false).1

/-- x to the power 5/12 against the code between k - 1 and k: the encoding of x reaches k, a tie going to the even code. -/
def srgbReaches (x : Q) (k : Nat) : Bool :=
  let t := 500 * (2 * k - 1) + 55 * 255
  let l := x.n.toNat ^ 5 * (1055 * 255) ^ 12
  let r := t ^ 12 * x.d ^ 5
  r < l || (l = r && k % 2 = 0)

/-- The IEC 61966-2-1 encoding of an f32 in [0, 1] scaled by 255 and rounded to nearest, ties to even (R293; assumption 9): linear up to
0.0031308, above it 1.055 x to the power 5/12 less 0.055. -/
def srgbEncode (x : Nat) : Nat :=
  let y := val32 x
  let q := y.toQ
  if y.isNan || y.isInf || q.lt (Q.ofInt 0) || (Q.ofInt 1).lt q then (Config.srgbOutside (BitVec.ofNat 32 x)).toNat
  else if q.le { n := 31308, d := 10000000 } then (q.mul { n := 1292 * 255, d := 100 }).rne.toNat
  else ((List.range 255).filter fun k => srgbReaches q (k + 1)).length

/-- F11 and F10: an unsigned float with a 5-bit exponent of bias 15. -/
def smallDecode (frac c : Nat) : Nat :=
  let ex := c / 2 ^ frac
  let fr := c % 2 ^ frac
  if ex = 31 then (if fr = 0 then 0x7F800000 else 0x7FC00000)
  else if ex = 0 then (roundTo .f32 (.fin false fr (-14 - (frac : Int))) 0 false false).1
  else (roundTo .f32 (.fin false (2 ^ frac + fr) ((ex : Int) - 15 - frac)) 0 false false).1

/-- An f32 as F11 or F10. -/
def smallEncode (frac x : Nat) : Nat :=
  match val32 x with
  | .nan _ => 2 ^ (frac + 5) - 1
  | .inf neg => if neg then 0 else 31 * 2 ^ frac
  | .fin neg m e =>
    if neg ∨ m = 0 then 0
    else
      let top := e + (bitLen m : Int) - 1
      let qmin : Int := -14 - frac
      let q : Int := if top < -14 then qmin else top - frac
      min ((q - qmin).toNat * 2 ^ frac + (quantise false m e q 0).1) (31 * 2 ^ frac)

/-- A channel decoded to f32, or to raw bits. -/
def chanDecode (k : Chan) (n c : Nat) : Nat :=
  match k with
  | .unorm => unormDecode n c
  | .srgb => srgbDecode c
  | .f16 =>
    (match Fmt.f16.value c with
     | .nan _ => 0x7FC00000
     | x => (roundTo .f32 x 0 false false).1)
  | .f32 => c
  | .small frac => smallDecode frac c
  | .raw => c

/-- A channel encoded from f32, or from raw bits. -/
def chanEncode (k : Chan) (n x : Nat) : Nat :=
  match k with
  | .unorm => unormEncode n x
  | .srgb => srgbEncode x
  | .f16 => (roundTo .f16 (val32 x) 0 false false).1
  | .f32 => x
  | .small frac => smallEncode frac x
  | .raw => x

/-- An element decoded to its four channels (R292, R293). -/
def pixelDecode (f raw : Nat) : List Nat :=
  let cs := formatChans f
  (List.range 4).map fun k =>
    match cs.find? fun c => c.1 = k with
    | some (_, lo, n, kind) => chanDecode kind n (raw / 2 ^ lo % 2 ^ n)
    | none => if k = 3 then (if intFormat f then 1 else one32) else 0

/-- An element with the channels of a mask encoded over the stored bits (R293). -/
def pixelEncode (f old : Nat) (chans : List Nat) (mask : Nat) : Nat :=
  (formatChans f).foldl (fun v c =>
    let (k, lo, n, kind) := c
    if mask.testBit k then v - (v / 2 ^ lo % 2 ^ n) * 2 ^ lo + (chanEncode kind n (chans.getD k 0) % 2 ^ n) * 2 ^ lo else v) old

/-! ### Descriptors -/

/-- An image descriptor (R303). -/
structure Image where
  base : Nat
  format : Nat
  dim : Nat
  levels : Nat
  w : Nat
  h : Nat
  d : Nat
deriving DecidableEq, Repr

/-- A field of a little-endian record. -/
def byteField (v lo n : Nat) : Nat := v / 2 ^ (8 * lo) % 2 ^ (8 * n)

/-- The descriptor in 64 bytes. -/
def imageOf (v : Nat) : Image :=
  { base := byteField v 0 8, format := byteField v 8 1, dim := byteField v 9 1, levels := byteField v 10 1,
    w := byteField v 12 2 + 1, h := byteField v 14 2 + 1, d := byteField v 16 2 + 1 }

/-- The faults of R303. -/
def Image.bad (i : Image) : Bool :=
  let m := max (max i.w i.h) (if i.dim = 2 then i.d else 0)
  !formatOk i.format || 3 < i.dim || i.levels = 0 || bitLen m < i.levels || (i.dim = 3 && (i.w ≠ i.h || i.d ≠ 6)) ||
    (i.dim = 2 && astcFormat i.format) || i.base % 128 ≠ 0 || 16384 < i.w || 16384 < i.h

/-- A sampler descriptor (R305). -/
structure Sampler where
  mip : Nat
  min : Nat
  mag : Nat
  wrapU : Nat
  wrapV : Nat
  wrapW : Nat
  border : Nat
  cmp : Nat
  aniso : Nat
  bias : Int
  minLod : Nat
  maxLod : Nat
deriving DecidableEq, Repr

/-- The descriptor in 16 bytes. -/
def samplerOf (v : Nat) : Sampler :=
  { mip := v / 16 % 4, min := v / 4 % 4, mag := v % 4, wrapV := v / 2048 % 8, wrapU := v / 256 % 8, border := v / 2 ^ 19 % 8,
    wrapW := v / 65536 % 8, cmp := v / 2 ^ 29 % 8, aniso := v / 2 ^ 24 % 32,
    bias := (BitVec.ofNat 16 (byteField v 4 2)).toInt, minLod := byteField v 6 2, maxLod := byteField v 8 2 }

/-- The faults of R305. -/
def Sampler.bad (x : Sampler) (format : Nat) (cmp : Bool) : Bool :=
  x.mip = 3 || 2 ≤ x.min || 2 ≤ x.mag || 4 ≤ x.wrapU || 4 ≤ x.wrapV || 4 ≤ x.wrapW || 3 ≤ x.border || 16 < x.aniso ||
    (cmp && (intFormat format || astcFormat format))

/-! ### Texel addresses (R304) -/

/-- Width of a level. -/
def Image.wl (i : Image) (l : Nat) : Nat := max 1 (i.w >>> l)
/-- Height of a level. -/
def Image.hl (i : Image) (l : Nat) : Nat := max 1 (i.h >>> l)
/-- Depth, layers or faces of a level. -/
def Image.dl (i : Image) (l : Nat) : Nat := if i.dim = 2 then max 1 (i.d >>> l) else if i.dim = 0 then 1 else i.d

/-- Row pitch of a level. -/
def Image.pitch (i : Image) (l : Nat) : Nat :=
  let n := if astcFormat i.format then (i.wl l + (astcBlock i.format).1 - 1) / (astcBlock i.format).1 * 16 else i.wl l * formatBytes i.format
  (n + 127) / 128 * 128

/-- Slice size of a level. -/
def Image.slice (i : Image) (l : Nat) : Nat :=
  i.pitch l * (if astcFormat i.format then (i.hl l + (astcBlock i.format).2 - 1) / (astcBlock i.format).2 else i.hl l)

/-- Where a level begins. -/
def Image.levelBase (i : Image) (l : Nat) : Nat := (List.range l).foldl (fun a j => a + i.slice j * i.dl j) i.base

/-- The address of a texel, or of the block that holds it. -/
def Image.at (i : Image) (l x y z : Nat) : DWord :=
  let row := if astcFormat i.format then y / (astcBlock i.format).2 else y
  let off := if astcFormat i.format then x / (astcBlock i.format).1 * 16 else x * formatBytes i.format
  BitVec.ofNat 64 (i.levelBase l + z * i.slice l + row * i.pitch l + off)

/-- The channels of the texel (x, y) in the bytes at its address; an ASTC block of an HDR endpoint mode, or an illegal one, gives the error
colour (R293). -/
def Image.decode (i : Image) (raw x y : Nat) : List Nat :=
  if astcFormat i.format then
    let b := astcBlock i.format
    match astcTexel b.1 b.2 (raw % 2 ^ 128) (x % b.1) (y % b.2) with
    | some t => t.map (unormDecode 16)
    | none => [one32, 0, one32, one32]
  else pixelDecode i.format raw

/-! ### Taps (R306, R307) -/

/-- A tap: its weight and the texel it reads (level, x, y, z), none for the border colour. -/
structure Tap where
  weight : Q
  texel : Option (Nat × Nat × Nat × Nat)
deriving DecidableEq, Repr

/-- An index wrapped by its code; none is the border. -/
def wrapIndex (code : Nat) (i : Int) (n : Nat) : Option Nat :=
  match code with
  | 0 => some (i % (n : Int)).toNat
  | 1 => let m := (i % (2 * n : Nat)).toNat; some (if m < n then m else 2 * n - 1 - m)
  | 2 => some (max 0 (min i ((n : Int) - 1))).toNat
  | _ => if 0 ≤ i ∧ i < (n : Int) then some i.toNat else none

/-- The taps of one coordinate in an extent: index and weight. -/
def taps1 (u : Q) (n code : Nat) (linear : Bool) : List (Option Nat × Q) :=
  let x := u.mul (Q.ofInt n)
  if linear then
    let y := x.sub { n := 1, d := 2 }
    let i := y.floor
    let a : Q := { n := ((y.sub (Q.ofInt i)).mul (Q.ofInt 256)).rne, d := 256 }
    [(wrapIndex code i n, (Q.ofInt 1).sub a), (wrapIndex code (i + 1) n, a)]
  else [(wrapIndex code x.floor n, Q.ofInt 1)]

/-- A coordinate as a rational: NaN is 0, infinities are 2^24 with their sign. -/
def coordQ (x : Nat) : Q :=
  match val32 x with
  | .nan _ => Q.ofInt 0
  | .inf neg => Q.ofInt (if neg then -(2 ^ 24 : Nat) else (2 ^ 24 : Nat))
  | y => y.toQ

/-- A sanitised coordinate's encoding. -/
def coord32 (x : Nat) : Nat := match val32 x with | .fin .. => x | _ => (coordQ x).f32

/-- Face, u and v of a cube direction (R306); free names what the zero direction reads. -/
def cubeFace (x y z free : Nat) : Nat × Nat × Nat :=
  let a := coordQ x
  let b := coordQ y
  let c := coordQ z
  let (face, sc, tc, ma) : Nat × Q × Q × Q :=
    if a.abs.le c.abs && b.abs.le c.abs then (if c.n < 0 then (5, a.neg, b.neg, c) else (4, a, b.neg, c))
    else if a.abs.le b.abs then (if b.n < 0 then (3, a, c.neg, b) else (2, a, c, b))
    else (if a.n < 0 then (1, c, b.neg, a) else (0, c.neg, b.neg, a))
  if ma.n = 0 then (face, coord32 free, coord32 free)
  else
    let f (s : Q) : Nat := (((s.div ma.abs).add (Q.ofInt 1)).div (Q.ofInt 2)).f32
    (face, f sc, f tc)

/-- The layer of an array: rne of word 2, clamped. -/
def layerOf (w layers : Nat) : Nat := (max 0 (min (coordQ w).rne ((layers : Int) - 1))).toNat

/-- The taps of one sample position in one level under a filter (0 nearest, 1 linear). -/
def levelTaps (i : Image) (s : Sampler) (u v w : Nat) (face l : Nat) (linear : Bool) (weight : Q) : List Tap :=
  let cube := i.dim = 3
  let xs := taps1 (coordQ u) (i.wl l) (if cube then 2 else s.wrapU) linear
  let ys := taps1 (coordQ v) (i.hl l) (if cube then 2 else s.wrapV) linear
  let zs : List (Option Nat × Q) :=
    if cube then [(some face, Q.ofInt 1)]
    else if i.dim = 1 then [(some (layerOf w i.d), Q.ofInt 1)]
    else if i.dim = 2 then taps1 (coordQ w) (i.dl l) s.wrapW linear
    else [(some 0, Q.ofInt 1)]
  zs.flatMap fun z => ys.flatMap fun y => xs.map fun x =>
    { weight := ((weight.mul z.2).mul y.2).mul x.2,
      texel := match x.1, y.1, z.1 with | some a, some b, some c => some (l, a, b, c) | _, _, _ => none }

/-- The level and the positions of a sample (R307): lod, count, and the derivative pair along which positions spread. -/
structure Spread where
  lod : Nat
  n : Nat
  du : Nat
  dv : Nat

/-- R307's arithmetic over the derivatives of u and v; an integer format, filtered as nearest, has one sample (DEDUCED from R305,
assumption 115). mode: 0 implicit or gradients, 1 .lz, 2 .l, 3 .b; w3 is word 3. -/
def spreadOf (i : Image) (s : Sampler) (mode w3 dudx dvdx dudy dvdy : Nat) : Spread :=
  let w0 := ofInt32 i.w
  let h0 := ofInt32 i.h
  let px := sqrt32 (add32 (mul32 (mul32 dudx w0) (mul32 dudx w0)) (mul32 (mul32 dvdx h0) (mul32 dvdx h0)))
  let py := sqrt32 (add32 (mul32 (mul32 dudy w0) (mul32 dudy w0)) (mul32 (mul32 dvdy h0) (mul32 dvdy h0)))
  let pmax := max32 px py
  let pmin := min32 px py
  let n :=
    if s.aniso ≤ 1 ∨ (val32 pmin).isZero ∨ intFormat i.format then 1
    else
      match val32 pmax, val32 pmin with
      | .fin a m e, .fin b k d =>
        -- the f32 quotient, rounded up to an integer
        let q := ((Num.fin a m e).toQ.div (Num.fin b k d).toQ).f32
        (match val32 q with
         | .fin neg m e => max 1 (min (-((Num.fin neg m e).toQ.neg.floor)).toNat s.aniso)
         | _ => s.aniso)
      | _, _ => s.aniso
  let bias := divInt32 (ofInt32 s.bias) 256
  let lod :=
    if mode = 1 then 0
    else if mode = 2 then add32 w3 bias
    else
      let l := add32 (log32 (divInt32 pmax n)) bias
      if mode = 3 then add32 l w3 else l
  let lod := min32 (max32 lod (divInt32 (ofInt32 s.minLod) 256)) (divInt32 (ofInt32 s.maxLod) 256)
  let alongX := !(val32 px).lt (val32 py)
  { lod, n, du := if alongX then dudx else dudy, dv := if alongX then dvdx else dvdy }

/-- The levels a sample reads with their weights, and whether the minifying filter applies (R307). -/
def levelsOf (i : Image) (s : Sampler) (lod : Nat) : List (Nat × Q) × Bool :=
  let x := (val32 lod).toQ
  let top : Int := i.levels - 1
  if x.le (Q.ofInt 0) then ([(0, Q.ofInt 1)], false)
  else
    let one (l : Int) : List (Nat × Q) := [((min l top).toNat, Q.ofInt 1)]
    if s.mip = 0 then (one 0, true)
    else if s.mip = 1 ∨ intFormat i.format then (one (val32 (add32 lod half32)).toQ.floor, true)
    else
      let f : Q := { n := ((x.sub (Q.ofInt x.floor)).mul (Q.ofInt 256)).rne, d := 256 }
      let l0 := min x.floor top
      ([(l0.toNat, (Q.ofInt 1).sub f), ((min (l0 + 1) top).toNat, f)], true)

/-- Every tap of a sample at (u, v, w) (R306, R307). -/
def sampleTaps (i : Image) (s : Sampler) (u v w face : Nat) (sp : Spread) : List Tap :=
  let lv := levelsOf i s sp.lod
  let linear := (if lv.2 then s.min else s.mag) = 1 && !intFormat i.format
  (List.range sp.n).flatMap fun (k : Nat) =>
    let t := sub32 (divInt32 (add32 (ofInt32 k) half32) sp.n) half32
    let move (x dx : Nat) : Nat := add32 (coord32 x) (mul32 t dx)
    lv.1.flatMap fun l => levelTaps i s (move u sp.du) (move v sp.dv) w face l.1 linear { n := l.2.n, d := l.2.d * sp.n }

/-- The colour of the border as channels. -/
def borderOf (code : Nat) (int : Bool) : List Nat :=
  let one := if int then 1 else one32
  if code = 0 then [0, 0, 0, 0] else if code = 1 then [0, 0, 0, one] else [one, one, one, one]

/-- CMP of R305 on two f32. -/
def cmpHolds (code a b : Nat) : Bool :=
  let x := val32 a
  let y := val32 b
  match code with
  | 0 => fcond 2 x y
  | 1 => fcond 3 x y
  | 2 => fcond 4 x y
  | 3 => fcond 5 x y
  | 4 => fcond 0 x y
  | 5 => fcond 1 x y
  | 6 => true
  | _ => false

/-- The exact sum of weighted f32 values, rounded once (R307); infinities and NaNs as in a sum of products. -/
def weighted (vs : List (Q × Nat)) : Nat :=
  if vs.any (fun p => (val32 p.2).isNan || ((val32 p.2).isInf && p.1.n = 0)) then 0x7FC00000
  else if vs.any fun p => (val32 p.2).isInf then
    (roundTo .f32 (sumAll 0 ((vs.filter fun p => (val32 p.2).isInf).map fun p => val32 p.2)) 0 false false).1
  else
    let s := vs.foldl (fun a p => a.add (p.1.mul (val32 p.2).toQ)) (Q.ofInt 0)
    if vs.all fun p => (val32 p.2).isZero && (val32 p.2).neg then 0x80000000 else s.f32

/-- The four words of a sample from its taps' channels (R307); ref: the reference of a comparison. -/
def combine (i : Image) (s : Sampler) (taps : List (Tap × List Nat)) (ref : Option Nat) : List Nat :=
  match ref with
  | some r =>
    let r := if (formatChans i.format).any fun c => c.1 = 0 && c.2.2.2 = .unorm then min32 (max32 r 0) one32 else r
    [weighted (taps.map fun t => (t.1.weight, if cmpHolds s.cmp r (t.2.getD 0 0) then one32 else 0)), 0, 0, one32]
  | none =>
    if intFormat i.format then (match taps with | t :: _ => t.2 | [] => [0, 0, 0, 0])
    else (List.range 4).map fun k => weighted (taps.map fun t => (t.1.weight, t.2.getD k 0))

end Sys2Proof.Machine
end

