-- ==== Sys2Proof/Machine/Texture.lean ====
section
/-!
DEFINITION. SAMPLE, SAMPLEG, TFETCH, ISTORE and their results (13 R291, R303 to R310): descriptors and texels read through the
texture caches, the filtered value of a lane, and the store of a texel.
-/
namespace Sys2Proof.Machine

/-! ### Reads through the texture caches -/

/-- The key of a line in the texture cache of a quadrant (00 R3: quadrant q holds partitions 4 q to 4 q + 3). -/
def texKey (part line : Nat) : Nat := part / 4 * 2 ^ 130 + line

/-- A task's uncommitted bytes lie in a line of its core's column. -/
def State.taskTouches (s : State) (core : Nat) (task : Option Nat) (line : Nat) : Bool :=
  match s.openTask task with
  | some t => ((Tab.get? s.taskBuf (t * 32 + core)).getD []).any fun b => b.1 / 128 = line
  | none => false

/-- Bytes of one line by its name (13 R303): as one of the versions that the texture cache still holds has them, which a later read may take
after a newer one (10 R235; assumption 50), or through the column, with that version put into the cache; the second part is none while a
host half stands in the way, with a poison mark beside the value. -/
def State.texLine (s : State) (x : Warp) (name n : Nat) : State × Option (Nat × Nat) :=
  let line := name / 128
  let key := texKey x.part line
  let held := (Tab.get? (s.core x.core).tex key).getD []
  match held[Config.choice key s.free % (held.length + 1)]? with
  | some d => (s, some ((d.toNat >>> (8 * (name % 128))) % 2 ^ (8 * n), 0))
  | none =>
    if s.isPeer name || s.taskTouches x.core x.task line then s.readGlobal x.core x.task name n true
    else
      match s.readGlobal x.core x.task (128 * line) 128 true with
      | (s, none) => (s, none)
      | (s, some (v, m)) =>
        let s : State := if m = 0 then s.modCore x.core fun k => { k with tex := Tab.set k.tex key (BitVec.ofNat 1024 v :: held) } else s
        (s, some ((v >>> (8 * (name % 128))) % 2 ^ (8 * n), m))

/-- Bytes read by a texture unit (tex) or the traversal unit; a decoded view faults (21 R464). -/
def State.unitRead (s : State) (w : Nat) (x : Warp) (p : PendOp) (va : DWord) (n : Nat) (tex : Bool) : State × EngRes :=
  (lineRuns va n (n / 128 + 2)).foldl (fun r q =>
    match r with
    | (s, .ok bs) =>
      (match s.engineAccess w x p { size := 1, write := false } q.1 with
       | (s, .wait) => (s, .wait)
       | (s, .fault cause sub) => (s, .fault cause (if cause = 0x12 then 0x03 else sub) q.1)
       | (s, .ok name _) =>
         if (viewOf (name / 128)).isSome then (s, .fault 0x12 0x03 q.1)
         else match (if tex then s.texLine x name q.2 else s.readGlobal x.core x.task name q.2 true) with
           | (s, none) => (s, .wait)
           | (s, some (v, m)) => if m = 0 then (s, .ok (bs ++ bytesOf q.2 v)) else (s, .fault 0x11 0x01 q.1))
    | r => r) (s, .ok [])

/-- Bytes read by a texture unit. -/
def State.texRead (s : State) (w : Nat) (x : Warp) (p : PendOp) (va : DWord) (n : Nat) : State × EngRes := s.unitRead w x p va n true

/-- A value of bytes, low first. -/
def natOfBytes (bs : List Byte) : Nat := bs.foldr (fun b n => b.toNat + 256 * n) 0

/-- What a lane of a texture instruction comes to. -/
inductive TexRes where
  | wait
  | fault (h : HeldFault)
  | ok (words : List Nat)

/-- A value read by a texture unit and given on. -/
def State.texThen (s : State) (w : Nat) (x : Warp) (p : PendOp) (va : DWord) (n : Nat) (k : State → Nat → State × TexRes) :
    State × TexRes :=
  match s.texRead w x p va n with
  | (s, .wait) => (s, .wait)
  | (s, .fault cause sub a) => (s, .fault (heldBy 0x12 cause sub a))
  | (s, .ok bs) => k s (natOfBytes bs)

/-- A bad descriptor at its address (R310). -/
def badDesc (va : DWord) : TexRes := .fault { cause := 0x06, sub := 0x04, addr := va }

/-- The image descriptor of a lane (R303), its reserved bytes zero. -/
def State.withImage (s : State) (w : Nat) (x : Warp) (p : PendOp) (base : DWord) (desc : Word)
    (k : State → DWord → Image → State × TexRes) : State × TexRes :=
  let va := base + BitVec.ofNat 64 (64 * (desc.toNat % 2 ^ 20))
  s.texThen w x p va 64 fun s v => if (imageOf v).bad then (s, badDesc va) else k s va (imageOf v)

/-! ### A filtered sample -/

/-- The channels of every tap, in order (R307). -/
def State.tapValues (s : State) (w : Nat) (x : Warp) (p : PendOp) (i : Image) (m : Sampler) (taps : List Tap)
    (k : State → List (Tap × List Nat) → State × TexRes) (acc : List (Tap × List Nat)) : State × TexRes :=
  match taps with
  | [] => k s acc
  | t :: rest =>
    match t.texel with
    | none => s.tapValues w x p i m rest k (acc ++ [(t, borderOf m.border (intFormat i.format))])
    | some (l, a, b, z) =>
      match s.texRead w x p (i.at l a b z) (formatBytes i.format) with
      | (s, .wait) => (s, .wait)
      | (s, .fault cause sub va) => (s, .fault (heldBy 0x12 cause sub va))
      | (s, .ok bs) => s.tapValues w x p i m rest k (acc ++ [(t, i.decode (natOfBytes bs) a b)])

/-- The face, u and v of a lane's coordinates (R306); free names the coordinates of the zero direction of a cube. -/
def laneUv (i : Image) (a : List Word) (free : Nat) : Nat × Nat × Nat :=
  let q (k : Nat) : Nat := (a.getD k 0).toNat
  if i.dim = 3 then cubeFace (q 0) (q 1) (q 2) free else (0, coord32 (q 0), coord32 (q 1))

/-- The derivatives of a lane's quad (R307): of u and v along x, then along y; a lane outside the mask contributes 0. -/
def quadDerivs (i : Image) (a : List (Nat × List Word)) (quads : Word) (lane free : Nat) : Nat × Nat × Nat × Nat :=
  let at4 (k : Nat) : List Word := ((a.find? fun p => p.1 = lane / 4 * 4 + k).map (·.2)).getD []
  let in4 (k : Nat) : Bool := quads.getLsbD (lane / 4 * 4 + k)
  let o := laneUv i (at4 0) free
  let d (k : Nat) : Nat × Nat :=
    if in4 0 && in4 k then
      let y := laneUv i (at4 k) free
      (sub32 y.2.1 o.2.1, sub32 y.2.2 o.2.2)
    else (0, 0)
  let dx := d 1
  let dy := d 2
  (dx.1, dx.2, dy.1, dy.2)

/-- The four words of a lane of SAMPLE or SAMPLEG (R306 to R308). -/
def State.sampleLane (s : State) (w : Nat) (x : Warp) (p : PendOp) (a : List (Nat × List Word)) (desc : Word) (f : Nat) (grad : Bool)
    (img smp : DWord) (quads : Word) (lane : Nat) : State × TexRes :=
  s.withImage w x p img desc fun s _ i =>
    let sva := smp + BitVec.ofNat 64 (16 * (desc.toNat / 2 ^ 20))
    s.texThen w x p sva 16 fun s v =>
      let m := samplerOf v
      let cmp := f.testBit 8
      if m.bad i.format cmp then (s, badDesc sva)
      else
        let own := ((a.find? fun q => q.1 = lane).map (·.2)).getD []
        let word (k : Nat) : Nat := (own.getD k 0).toNat
        let free := (Config.freeCoord s.free).toNat
        let uv := laneUv i own free
        let mode := if grad then 0 else f / 64 % 4
        let d := if grad then (word 4, word 5, word 6, word 7) else quadDerivs i a quads lane free
        let sp := spreadOf i m mode (word 3) d.1 d.2.1 d.2.2.1 d.2.2.2
        s.tapValues w x p i m (sampleTaps i m uv.2.1 uv.2.2 (word 2) uv.1 sp)
          (fun s ts => (s, .ok (combine i m ts (if cmp then some (word 3) else none)))) []

/-! ### A single texel -/

/-- The texel that a lane of TFETCH or ISTORE names, none outside the image (R309): level, x, y, z. A 2D image has no third
coordinate (DEDUCED from R308). -/
def texelOf (i : Image) (a : List Word) : Option (Nat × Nat × Nat × Nat) :=
  let q (k : Nat) : Int := (a.getD k 0).toInt
  let l := q 3
  let z := if i.dim = 0 then 0 else q 2
  if l < 0 ∨ (i.levels : Int) ≤ l ∨ q 0 < 0 ∨ (i.wl l.toNat : Int) ≤ q 0 ∨ q 1 < 0 ∨ (i.hl l.toNat : Int) ≤ q 1 ∨ z < 0 ∨
      (i.dl l.toNat : Int) ≤ z then none
  else some (l.toNat, (q 0).toNat, (q 1).toNat, z.toNat)

/-- The four words of a lane of TFETCH (R309). -/
def State.fetchLane (s : State) (w : Nat) (x : Warp) (p : PendOp) (a : List Word) (desc : Word) (img : DWord) : State × TexRes :=
  if desc.toNat / 2 ^ 20 ≠ 0 then (s, badDesc (img + BitVec.ofNat 64 (64 * (desc.toNat % 2 ^ 20))))
  else
    s.withImage w x p img desc fun s _ i =>
      match texelOf i a with
      | none => (s, .ok [0, 0, 0, 0])
      | some (l, u, v, z) => s.texThen w x p (i.at l u v z) (formatBytes i.format) fun s raw => (s, .ok (i.decode raw u v))

/-- The store of one texel by a lane of ISTORE (R309): the stencil bits of D24_S8 are not written. -/
def State.storeLane (s : State) (w : Nat) (x : Warp) (p : PendOp) (a data : List Word) (desc : Word) (img : DWord) : State × TexRes :=
  s.withImage w x p img desc fun s va i =>
    if astcFormat i.format then (s, badDesc va)
    else
      match texelOf i a with
      | none => (s, .ok [])
      | some (l, u, v, z) =>
        let dest := i.at l u v z
        let n := formatBytes i.format
        if x.behindAt p [(virtLoc x.ctx dest, n)] then (s, .wait)
        else
        let bs := bytesOf (if i.format = 0x11 then 3 else n) (pixelEncode i.format 0 (data.map (·.toNat)) 15)
        match s.engineWrite w x p n dest bs with
        | (s, .wait) => (s, .wait)
        | (s, .fault cause sub at_) => (s, .fault (heldBy 0x12 cause sub at_))
        | (s, .ok _) => (s, .ok [])

/-- Bytes of a context as a core finds them now, without a change of anything; none where nothing maps them. -/
def State.peekNat (s : State) (core ctx : Nat) (va : DWord) (n : Nat) : Option Nat :=
  (lineRuns va n (n / 128 + 2)).foldl (fun r q => r.bind fun v =>
    (s.findLeaf (dieOf core) ctx q.1).map fun t =>
      let d := s.peekLine core (aliasName ctx q.1 t.2 / 128)
      v + ((d.toNat >>> (8 * (q.1.toNat % 128))) % 2 ^ (8 * q.2)) * 2 ^ (8 * (q.1 - va).toNat)) (some 0)

/-- The bytes that the lanes of an ISTORE name by their descriptors as those stand now, as locations and lengths: by these the part keeps
the order of a lane's accesses to the same bytes (09 R213). -/
def State.storeRuns (s : State) (x : Warp) (lanes : List Nat) (a : List (Nat × List Word)) (desc : List (Nat × Word)) (img : DWord) :
    List (Nat × DWord × Nat) :=
  lanes.filterMap fun k =>
    let word := ((desc.find? fun p => p.1 = k).map (·.2)).getD 0
    (s.peekNat x.core x.ctx (img + BitVec.ofNat 64 (64 * (word.toNat % 2 ^ 20))) 64).bind fun v =>
      let i := imageOf v
      if i.bad || astcFormat i.format then none
      else (texelOf i (((a.find? fun p => p.1 = k).map (·.2)).getD [])).map fun t =>
        (k, i.at t.1 t.2.1 t.2.2.1 t.2.2.2, formatBytes i.format)

/-! ### Operations -/

/-- The lanes of a texture operation still to be done (R308, R309). -/
def OpBody.texLanes (b : OpBody) : List Nat :=
  match b with
  | .sample lanes .. => lanes
  | .tfetch lanes .. => lanes
  | .istore lanes .. => lanes
  | _ => []

/-- The same operation with other lanes to be done. -/
def OpBody.withLanes (b : OpBody) (ls : List Nat) : OpBody :=
  match b with
  | .sample _ a desc f grad img smp quads => .sample ls a desc f grad img smp quads
  | .tfetch _ a desc img => .tfetch ls a desc img
  | .istore _ a data desc img runs => .istore ls a data desc img runs
  | b => b

/-- A value of a lane. -/
def valOfLane {α : Type} (xs : List (Nat × α)) (lane : Nat) (d : α) : α := ((xs.find? fun p => p.1 = lane).map (·.2)).getD d

/-- One lane of a texture operation. -/
def State.texLane (s : State) (w : Nat) (x : Warp) (p : PendOp) (lane : Nat) : State × TexRes :=
  match p.body with
  | .sample _ a desc f grad img smp quads => s.sampleLane w x p a (valOfLane desc lane 0) f grad img smp quads lane
  | .tfetch _ a desc img => s.fetchLane w x p (valOfLane a lane []) (valOfLane desc lane 0) img
  | .istore _ a data desc img _ => s.storeLane w x p (valOfLane a lane []) (valOfLane data lane []) (valOfLane desc lane 0) img
  | _ => (s, .wait)

/-- The next lane of an operation done, lanes in ascending order: its value is written; the operation completes with its last lane (R308,
R310). -/
def State.texNext (s : State) (w : Nat) (x : Warp) (p : PendOp) (ls : List Nat) : State :=
  match ls with
  | [] => s.completeOp w p
  | lane :: rest =>
    match s.texLane w x p lane with
    | (s, .wait) => s
    | (s, .fault h) => s.modWarp w fun y => y.modOp p.id fun q => { q with held := some h }
    | (s, .ok vs) =>
      let s : State := s.modWarp w fun y => (y.applyResult p [(lane, vs.map (BitVec.ofNat 32), 0)]).modOp p.id fun q =>
        { q with body := q.body.withLanes rest }
      if rest.isEmpty then s.completeOp w p else s

/-- A texture operation goes on; one that is held waits for its SRET (R310). -/
def State.texStep (s : State) (w op : Nat) : State :=
  match (s.warp? w).bind fun x => (x.op? op).map fun p => (x, p) with
  | none => s
  | some (x, p) =>
    if p.held.isSome || s.asleep (96 + 4 * x.core + x.part / 4) then s
    else match p.body with
      | .sample lanes .. => s.texNext w x p lanes
      | .tfetch lanes .. => s.texNext w x p lanes
      | .istore lanes .. => s.texNext w x p lanes
      | _ => s

/-- TEXTURE_RESULT (R308, R309): the result of the next lane of a texture read is applied, and with the last X falls. -/
def execTextureResult (w op : Nat) (s : State) : Host.Outcome State Fault Refusal :=
  .next (match (s.warp? w).bind (·.op? op) with
    | some p => if p.path = some .X then s.texStep w op else s
    | none => s)

/-- The VBASE of a translation base of a warp. -/
def Issue.vbase (c : Issue) (n : Nat) : DWord := (c.warp.tbase n).vbase

/-- The words of a source of n names in every lane of the instruction. -/
def Issue.laneWords (c : Issue) (spec : BitVec 9) (n : Nat) : List (Nat × List Word) := c.lanes.map fun i => (i, c.rdWords spec i n)

/-- The descriptor word of every lane. -/
def Issue.descWords (c : Issue) (spec : BitVec 9) : List (Nat × Word) := c.lanes.map fun i => (i, c.rd spec i)

/-- A texture read issues: counted on X (R291, R308). -/
def Issue.texIssue (c : Issue) (s : State) (body : OpBody) : State :=
  if c.warp.walker then c.trap s walkerTrap
  else if c.em = 0 then c.leave s
  else if c.full .X then c.stall s .counter
  else c.leave (c.enqueue s (some .X) (c.dsts c.e.d c.lanes 4) body)

/-- SAMPLE (R308). -/
def execSample (e : Enc) (s : State) : Host.Outcome State Fault Refusal :=
  runIsa formSample e (fun c s =>
    c.texIssue s (.sample c.lanes (c.laneWords e.a 4) (c.descWords e.b) e.f.toNat false (c.vbase (e.fb 0 3)) (c.vbase (e.fb 3 3)) c.em)) s

/-- SAMPLEG (R308). -/
def execSampleg (e : Enc) (s : State) : Host.Outcome State Fault Refusal :=
  runIsa formSampleg e (fun c s =>
    c.texIssue s (.sample c.lanes (c.laneWords e.a 8) (c.descWords e.b) e.f.toNat true (c.vbase (e.fb 0 3)) (c.vbase (e.fb 3 3)) c.em)) s

/-- TFETCH (R309). -/
def execTfetch (e : Enc) (s : State) : Host.Outcome State Fault Refusal :=
  runIsa formTfetch e (fun c s => c.texIssue s (.tfetch c.lanes (c.laneWords e.a 4) (c.descWords e.b) (c.vbase (e.fb 0 3)))) s

/-- ISTORE (R309): counted on S; performed at STORE_PERFORMED. A store outside its task's outputs pins the task (16 R364). -/
def execIstore (e : Enc) (s : State) : Host.Outcome State Fault Refusal :=
  runIsa formIstore e (fun c s =>
    if c.warp.walker then c.trap s walkerTrap
    else if c.em = 0 then c.leave s
    else if c.full .S then c.stall s .counter
    else
      let a := c.laneWords e.a 4
      let desc := c.descWords e.d
      let img := c.vbase (e.fb 0 3)
      let runs := s.storeRuns c.warp c.lanes a desc img
      c.writing s (runs.map fun r => (r.2.1.toNat, r.2.2)) fun s =>
        c.leave (c.enqueue s (some .S) []
          (.istore c.lanes a (c.laneWords e.b 4) desc img (runs.map fun r => (virtLoc c.warp.ctx r.2.1, r.2.2))))) s

end Sys2Proof.Machine
end

