-- ==== Sys2Proof/Machine/Tile.lean ====
section
/-!
DEFINITION. Tile memory (13 R294 to R298, 17 R373, R374, R386), ordered sections (13 R299 to R302), vertex outputs (R317), discards
(R318), and the events that perform TLDT, TSTT and every other store counted on S.
-/
namespace Sys2Proof.Machine

/-! ### The RASTER state record (17 R373 to R375) -/

/-- A field of the state record of a RASTER pass. -/
def Pass.rb (p : Pass) (off n : Nat) : Nat := p.rbytes.readNat off n
/-- SAMPLES. -/
def Pass.samples (p : Pass) : Nat := 2 ^ p.rb 1 1
/-- NATT. -/
def Pass.natt (p : Pass) : Nat := p.rb 2 1
/-- DSATT, none for 0xFF. -/
def Pass.dsatt (p : Pass) : Option Nat := if p.rb 3 1 = 0xFF then none else some (p.rb 3 1)
/-- A byte field of attachment a. -/
def Pass.att (p : Pass) (a off n : Nat) : Nat := p.rb (128 + 64 * a + off) n
/-- FORMAT of an attachment. -/
def Pass.attFormat (p : Pass) (a : Nat) : Nat := p.att a 0 1
/-- Element size of an attachment. -/
def Pass.esize (p : Pass) (a : Nat) : Nat := formatBytes (p.attFormat a)

/-- TS of a RASTER pass: its outputs', which share it (17 R375); a pass without outputs names none (assumption 23). -/
def passTs (g : Graph) (p : Pass) : Nat :=
  match p.outs.head?.bind fun o => g.ress[o]? with
  | some r => r.ts
  | none => 16 * 2 ^ (Config.looseTile % 3)

/-- ABASE of attachment a (17 R374). -/
def abase (p : Pass) (ts a : Nat) : Nat :=
  (List.range a).foldl (fun b k => b + (ts * ts * p.samples * p.esize k + 127) / 128 * 128) 0

/-- The Grotto offset of a sample (13 R295). -/
def sampleOff (p : Pass) (ts a x y smp : Nat) : Nat := abase p ts a + ((y * ts + x) * p.samples + smp) * p.esize a

/-! ### Blending (17 R386) -/

/-- The factor of a code for channel k; s and d are the channels of source and destination. -/
def blendFactor (code k : Nat) (s d : List Nat) : Nat :=
  let x := s.getD k 0
  let y := d.getD k 0
  let sa := s.getD 3 0
  let da := d.getD 3 0
  match code with
  | 0 => 0
  | 1 => one32
  | 2 => x
  | 3 => sub32 one32 x
  | 4 => sa
  | 5 => sub32 one32 sa
  | 6 => y
  | 7 => sub32 one32 y
  | 8 => da
  | _ => sub32 one32 da

/-- One channel blended: the products are exact, the combination is rounded once. -/
def blendChan (op fs fd x y : Nat) : Nat :=
  let a := (val32 x).mul (val32 fs)
  let b := (val32 y).mul (val32 fd)
  let r (xs : List Num) : Nat := (roundTo .f32 (sumAll 0 xs) 0 false false).1
  match op with
  | 0 => r [a, b]
  | 1 => r [a, b.negate]
  | 2 => r [b, a.negate]
  | 3 => min32 x y
  | _ => max32 x y

/-- TSTT.blend of an attachment: the element that replaces the stored one. -/
def Pass.blend (p : Pass) (a src old : Nat) : Nat :=
  let f := p.attFormat a
  let s := pixelDecode f src
  let d := pixelDecode f old
  let bctl := p.att a 2 1
  if bctl % 2 = 0 then src
  else
    let fac (k : Nat) : Nat := p.att a (if k = 3 then 5 else 4) 1
    let op (k : Nat) : Nat := if k = 3 then p.att a 6 1 / 8 % 8 else p.att a 6 1 % 8
    let chans := (List.range 4).map fun k =>
      blendChan (op k) (blendFactor (fac k % 16) k s d) (blendFactor (fac k / 16 % 16) k s d) (s.getD k 0) (d.getD k 0)
    pixelEncode f old chans (bctl / 2 % 16)

/-! ### TLDT and TSTT -/

/-- A fragment warp, or a tile task, of a RASTER pass. -/
def Stage.isTile (x : Stage) : Bool := x = .rasterTile || x = .rasterFragment

/-- The task, graph and pass of the warp. -/
def Issue.taskOf (c : Issue) (s : State) : Option (Nat × Task × Graph × Pass) :=
  c.warp.task.bind fun t => (Tab.get? s.tasks t).bind fun x => (s.taskPass x).map fun g => (t, x, g.1, g.2)

/-- Registers of the data of TLDT and TSTT by element size (R298). -/
def attNames (esize : Nat) : Nat := if esize ≤ 4 then 1 else if esize = 8 then 2 else 4

/-- A coordinate word with a part out of range (R295). -/
def coordBad (ts samples : Nat) (w : Word) : Bool :=
  w.toNat / 2 ^ 19 ≠ 0 || samples ≤ w.toNat / 2 ^ 16 % 8 || ts ≤ w.toNat / 256 % 256 || ts ≤ w.toNat % 256

/-- The coordinate word of a fragment (R295, R296). -/
def FragLane.coord (f : FragLane) : Word := BitVec.ofNat 32 (f.x + 256 * f.y + 65536 * f.smp)

/-- The fragment word of R296. -/
def FragLane.words (f : FragLane) : List Word :=
  [f.coord, BitVec.ofNat 32 f.cover, BitVec.ofNat 32 f.prim, if f.front then 1 else 0]

/-- The coordinates that a tile-memory instruction names, in order of lanes. -/
def Issue.coords (c : Issue) : List (Nat × Word) :=
  c.lanes.map fun i =>
    (i, if c.e.fb 5 1 = 1 then (match Tab.get? c.warp.frags i with | some f => f.coord | none => 0) else c.rd c.e.a i)

/-- The names of the attachment that F[3:0] selects, in a warp's pass: one where there is no such pass or attachment (assumption 13). -/
def State.attNamesOf (s : State) (x : Option Warp) (e : Enc) : Nat :=
  let att := e.fb 0 4
  match x.bind fun w => w.task.bind fun t => (Tab.get? s.tasks t).bind s.taskPass with
  | some (_, p) => if att < p.natt then attNames (p.esize att) else if att = 8 then 4 else 1
  | none => if att = 8 then 4 else 1

/-- The same for the warp that issues. -/
def State.attWidth (s : State) (e : Enc) : Nat := s.attNamesOf (s.cur.bind fun u => s.warp? u.warp) e

/-- The form of TLDT with a destination of n names (assumption 13). -/
def formTldtN (n : Nat) : Form := { formTldt with roles := fun e => { formTldt.roles e with d := .vo n n } }

/-- The form of TSTT with data of n names (assumption 13). -/
def formTsttN (n : Nat) : Form := { formTstt with roles := fun e => { formTstt.roles e with b := .src n true } }

/-- The form that an instruction has as a warp issues it: that of TLDT and TSTT turns on the attachment. -/
def State.formOf (s : State) (x : Warp) (i : Instr) : Option (Form × Enc) :=
  match i with
  | .tldt e => some (formTldtN (s.attNamesOf (some x) e), e)
  | .tstt e => some (formTsttN (s.attNamesOf (some x) e), e)
  | _ => i.form?

/-- A tile-memory fault: cause 0x06, sub-cause 0x14, the coordinate words in SVA_LO (R298). -/
def tileTrap (bad : List (Nat × Word)) (write : Bool) : Trap :=
  { cause := 0x06, sub := 0x14, lanes := some (maskOf (bad.map (·.1))), va := bad.map fun p => (p.1, p.2.setWidth 64), write }

/-- The checks of TLDT and TSTT up to the coordinate fault, then k over the pass, its tile size and the coordinates (R298). -/
def Issue.tileGo (c : Issue) (s : State) (write : Bool) (k : State → Nat → Pass → Nat → List (Nat × Word) → State) : State :=
  let att := c.e.fb 0 4
  let own := c.e.fb 5 1 = 1
  if !c.warp.stage.isTile then c.trap s (illegal 0x06)
  else if 8 < att ∨ (att = 8 ∧ (write ∨ !own)) then c.trap s (illegal 0x05)
  else if own ∧ c.warp.stage ≠ .rasterFragment then c.trap s (illegal 0x06)
  else if c.em = 0 then c.leave s
  else
    match c.taskOf s with
    | none => c.trap s (tileTrap c.coords write)
    | some (t, _, g, p) =>
      let ts := passTs g p
      if att ≠ 8 ∧ p.natt ≤ att then c.trap s (tileTrap c.coords write)
      else
        let bad := c.coords.filter fun q => coordBad ts p.samples q.2
        if !bad.isEmpty then c.trap s (tileTrap bad write) else k s t p ts c.coords

/-- The tile-memory offset of a coordinate word. -/
def wordOff (p : Pass) (ts a : Nat) (w : Word) : Nat :=
  sampleOff p ts a (w.toNat % 256) (w.toNat / 256 % 256) (w.toNat / 2 ^ 16 % 8)

/-- TLDT (R298). -/
def execTldt (e : Enc) (s : State) : Host.Outcome State Fault Refusal :=
  runIsa (formTldtN (s.attWidth e)) e (fun c s =>
    c.tileGo s false fun s _ p ts cs =>
      let att := e.fb 0 4
      let n := if att = 8 then 4 else attNames (p.esize att)
      if c.full .X then c.stall s .counter
      else
        c.leave (c.enqueue s (some .X) (c.dsts e.d c.lanes n)
          (.tldt att (cs.map fun q => (q.1, if att = 8 then 0 else wordOff p ts att q.2)) n))) s

/-- TSTT (R298); the first of a RASTER tile task pins it (R294). -/
def execTstt (e : Enc) (s : State) : Host.Outcome State Fault Refusal :=
  runIsa (formTsttN (s.attWidth e)) e (fun c s =>
    c.tileGo s true fun s _ p ts cs =>
      let att := e.fb 0 4
      if c.full .S then c.stall s .counter
      else
        c.pinning s fun s =>
          c.leave (c.enqueue s (some .S) []
            (.tstt att (cs.map fun q => (q.1, wordOff p ts att q.2))
              (c.lanes.map fun i => (i, BitVec.ofNat 128 (natOfWords (c.rdWords e.b i (attNames (p.esize att)))))) (e.fb 4 1 = 1)))) s

/-- An older TLDT or TSTT of the warp is still to be performed (R297). -/
def Warp.tileBehind (w : Warp) (id : Nat) : Bool :=
  w.pend.any fun q => q.id < id && !q.done && (match q.body with | .tldt .. => true | .tstt .. => true | _ => false)

/-- The task and pass of a warp's tile memory. -/
def State.tileOf (s : State) (x : Warp) : Option (Nat × Task × Pass) :=
  x.task.bind fun t => (Tab.get? s.tasks t).bind fun y => (s.taskPass y).map fun g => (t, y, g.2)

/-- TLDT_RESULT (R298): its value is applied. -/
def execTldtResult (w op : Nat) (s : State) : Host.Outcome State Fault Refusal :=
  .next (match (s.warp? w).bind fun x => (x.op? op).map fun p => (x, p) with
    | none => s
    | some (x, p) =>
      match p.body, s.tileOf x with
      | .tldt att offs names, some (_, t, pass) =>
        if x.tileBehind op then s
        else
          let vals := offs.map fun q =>
            (q.1, if att = 8 then (match Tab.get? x.frags q.1 with | some f => f.words | none => [0, 0, 0, 0])
                  else wordsOf names (t.tm.readNat q.2 (pass.esize att)), 0)
          (s.modWarp w fun y => y.applyResult p vals).completeOp w p
      | _, _ => s)

/-- The lanes of a TSTT that write: of several lanes naming one sample the highest alone (R297). -/
def tsttWinners (offs : List (Nat × Nat)) : List (Nat × Nat) := offs.filter fun q => !(offs.any fun r => r.2 = q.2 && q.1 < r.1)

/-- A TSTT performed in tile memory: one act per sample, with the data of the highest lane that names it (R297, R298). -/
def State.tsttDo (s : State) (x : Warp) (att : Nat) (offs : List (Nat × Nat)) (data : List (Nat × BitVec 128)) (blend : Bool) : State :=
  match s.tileOf x with
  | none => s
  | some (t, y, pass) =>
    let n := pass.esize att
    let tm := (tsttWinners offs).foldl (fun m q =>
      let src := (valOfLane data q.1 0).toNat % 2 ^ (8 * n)
      m.writeAll (cellsOf q.2 n (if blend then pass.blend att src (m.readNat q.2 n) else src))) y.tm
    { s with tasks := Tab.modify s.tasks t fun y => { y with tm } }

/-! ### Ordered sections -/

/-- The fragment of a lane may hold its pixel's section: every fragment of lower sequence number on the pixel has released it or
ended (R299). -/
def Task.grants (t : Task) (f : FragLane) : Bool :=
  t.frags.all fun g => !(g.x = f.x && g.y = f.y && g.seq < f.seq) || 2 ≤ g.st || (g.released && !g.holds)

/-- Every lane of a mask of a warp may hold its section. -/
def State.sectionsFree (s : State) (x : Warp) (lanes : Word) : Bool :=
  match x.task.bind fun t => (Tab.get? s.tasks t) with
  | none => true
  | some t => (lanesOf lanes).all fun i => match Tab.get? x.frags i with | some f => t.grants f | none => true

/-- Lanes of a warp hold or release their sections. -/
def State.setSections (s : State) (w : Nat) (lanes : Word) (holds : Bool) : State :=
  let s : State := s.modFrags w lanes fun g => { g with holds, released := g.released || (!holds && g.holds) }
  let s : State := s.modWarp w fun x =>
    { x with frags := x.frags.map fun p => if lanes.getLsbD p.1 then (p.1, { p.2 with holds }) else p }
  if holds then s else s.stopVictim w

/-- ORDBEGIN (R301, R302): an acquire at core scope once every lane holds its section. -/
def execOrdbegin (e : Enc) (s : State) : Host.Outcome State Fault Refusal :=
  runIsa formOrdbegin e (fun c s =>
    if c.warp.stage ≠ .rasterFragment then c.trap s (illegal 0x06)
    else if c.em = 0 then c.leave s
    else
      let nested := (lanesOf c.em).filter fun i => match Tab.get? c.warp.frags i with | some f => f.holds | none => false
      if !nested.isEmpty then c.trap s { cause := 0x0A, sub := 0x07, lanes := some (maskOf nested) }
      else if s.sectionsFree c.warp c.em then c.leave (s.setSections c.w c.em true)
      else c.splitDo s fun sp => { sp with wait := .ordered c.em, age := c.sp.age }) s

/-- ORDBEGIN_GRANT (R299, R302): a split that waits in ORDBEGIN is granted the sections of its lanes: its instruction issues, and it is
the youngest (03 R90). -/
def execOrdbeginGrant (w k : Nat) (s : State) : Host.Outcome State Fault Refusal :=
  .next (match (s.warp? w).bind fun x => (x.split? k).map fun sp => (x, sp) with
    | none => s
    | some (x, sp) =>
      match sp.wait with
      | .ordered lanes =>
        if x.runs && s.sectionsFree x lanes then
          ((s.setSections w lanes true).modWarp w fun x => x.modSplit k fun sp => { sp with age := s.nextId }).bump.resumeSplit w k
        else s
      | _ => s)

/-- ORDEND (R302): a release at core scope, then the sections of its lanes are released. -/
def execOrdend (e : Enc) (s : State) : Host.Outcome State Fault Refusal :=
  runIsa formOrdend e (fun c s =>
    if c.warp.stage ≠ .rasterFragment then c.trap s (illegal 0x06)
    else if c.em = 0 then c.leave s
    else c.releasing s 1 fun s => c.leave (s.setSections c.w c.em false)) s

/-- DISCARD (R318). -/
def execDiscard (e : Enc) (s : State) : Host.Outcome State Fault Refusal :=
  runIsa formDiscard e (fun c s => if c.warp.stage ≠ .rasterFragment then c.trap s (illegal 0x06) else c.exitGo s true) s

/-! ### Vertex outputs -/

/-- A vertex's outputs with one item replaced. -/
def VertexOut.put (o : VertexOut) (kind slot : Nat) (xs : List Word) : VertexOut :=
  if kind = 0 then { o with pos := some xs }
  else if kind = 1 then { o with attrs := Tab.set o.attrs slot xs }
  else { o with prim := xs.getD 0 0 }

/-- VOUT (R317): the items are the vertex's from its issue on, and the front end accepts them at STORE_PERFORMED. -/
def execVout (e : Enc) (s : State) : Host.Outcome State Fault Refusal :=
  runIsa formVout e (fun c s =>
    let kind := e.fb 0 2
    if c.warp.stage ≠ .rasterVertex ∨ c.warp.voutDone then c.trap s (illegal 0x06)
    else if c.em = 0 then c.leave s
    else if c.full .S then c.stall s .counter
    else
      let s : State := c.enqueue s (some .S) [] .vout
      if kind = 3 then c.leave (s.handVout c.w)
      else
        c.leave (c.warpDo s fun w => { w with vout := c.lanes.foldl (fun o i =>
          Tab.set o i (((Tab.get? o i).getD { pos := none, attrs := [], prim := 0 }).put kind (e.fb 2 5)
            (c.rdWords e.a i (if kind = 2 then 1 else 4)))) w.vout })) s

end Sys2Proof.Machine
end

