-- ==== Sys2Proof/Machine/Ray.lean ====
section
/-!
DEFINITION. The traversal unit: acceleration structures, rays and hit records (13 R311 to R315).
-/
namespace Sys2Proof.Machine

/-- A value on the extended line. -/
inductive Ext where
  | low | fin (q : Q) | high
deriving DecidableEq, Repr

/-- Less. -/
def Ext.lt (a b : Ext) : Bool :=
  match a, b with
  | .low, .low => false
  | .low, _ => true
  | .fin x, .fin y => x.lt y
  | .fin _, .high => true
  | _, _ => false

/-- At most. -/
def Ext.le (a b : Ext) : Bool := !b.lt a

/-- An f32's value; a NaN does not come here. -/
def ext32 (x : Nat) : Ext :=
  match val32 x with
  | .inf neg => if neg then .low else .high
  | y => .fin y.toQ

/-- A finite f32. -/
def finite32 (x : Nat) : Bool := match val32 x with | .fin .. => true | _ => false

/-- Field k of 32 bits of a record of bytes. -/
def word32 (v off : Nat) : Nat := byteField v off 4

/-! ### Rays and instances -/

/-- An instance that is current: its ray, ID, flags, hit index (R312). -/
structure Inst where
  o : List Nat
  d : List Nat
  id : Nat
  flags : Nat
  hit : Nat
deriving DecidableEq, Repr

/-- What a node of a structure is: a top-level box, an instance record, a bottom-level box, a triangle leaf (R311). -/
inductive RayNode where
  | top | inst | bottom | leaf
deriving DecidableEq, Repr

/-- An entry of the stack. -/
structure RayEntry where
  va : DWord
  node : RayNode
  cur : Inst

/-- An accepted hit (R314). -/
structure Hit where
  t : Nat
  u : Nat
  v : Nat
  prim : Nat
  geom : Nat
  inst : Nat
  index : Nat
  front : Bool

/-- A ray's progress: stack with its top first, the bound and the hit so far, box nodes visited. -/
structure RayState where
  stack : List RayEntry
  best : Ext
  hit : Option Hit
  boxes : Nat

/-- Component k of a list of encodings. -/
def comp (xs : List Nat) (k : Nat) : Q := (val32 (xs.getD k 0)).toQ

/-! ### Box nodes (R311, R313) -/

/-- Bounds of child k on an axis: low and high. -/
def boxBound (v k axis : Nat) : Q × Q :=
  let o := (val32 (word32 v (4 * axis))).toQ
  let e := (BitVec.ofNat 8 (byteField v (12 + axis) 1)).toInt
  let s : Q := if 0 ≤ e then Q.ofInt (2 ^ e.toNat : Nat) else { n := 1, d := 2 ^ (-e).toNat }
  let at_ (off : Nat) : Q := o.add ((Q.ofInt (byteField v (16 + 6 * k + off + axis) 1 : Nat)).mul s)
  (at_ 0, at_ 3)

/-- The slab of an axis: near and far, none for a miss. -/
def slab (b : Q × Q) (o d : Q) : Option (Ext × Ext) :=
  if d.n = 0 then (if b.1.le o && o.le b.2 then some (.low, .high) else none)
  else
    let near := ((if 0 < d.n then b.1 else b.2).sub o).div d
    let far := ((if 0 < d.n then b.2 else b.1).sub o).div d
    some (ext32 (near.round .f32 3), ext32 (far.round .f32 2))

/-- tnear of child k where it is hit. -/
def childNear (v k : Nat) (i : Inst) (tmin best : Ext) : Option Ext :=
  let r := (List.range 3).foldl (fun (r : Option (Ext × Ext)) a =>
    match r, slab (boxBound v k a) (comp i.o a) (comp i.d a) with
    | some (n, f), some (n', f') => some (if n.lt n' then n' else n, if f'.lt f then f' else f)
    | _, _ => none) (some (.low, .high))
  match r with
  | some (n, f) => if n.le f && tmin.le f && n.le best then some n else none
  | none => none

/-- A hit child put among the others: ascending tnear, ties by ascending k. -/
def insertNear (xs : List (Ext × RayEntry)) (x : Ext × RayEntry) : List (Ext × RayEntry) :=
  match xs with
  | [] => [x]
  | y :: t => if x.1.lt y.1 then x :: y :: t else y :: insertNear t x

/-- The hit children of a box node as they will pop. -/
def boxChildren (v : Nat) (e : RayEntry) (tmin best : Ext) : List RayEntry :=
  let base := byteField v 40 8
  let kids := (List.range 4).filterMap fun k =>
    if (byteField v 15 1).testBit k then
      (childNear v k e.cur tmin best).map fun n =>
        let leaf := (byteField v 15 1).testBit (4 + k)
        let node := if leaf then (if e.node = .top then RayNode.inst else .leaf) else e.node
        (n, ({ va := BitVec.ofNat 64 (64 * (base + word32 v (48 + 4 * k))), node, cur := e.cur } : RayEntry))
    else none
  (kids.foldl insertNear []).map (·.2)

/-! ### Instances and triangles (R312, R313) -/

/-- The exact sum of products of a transform row, rounded once. -/
def transformDot (m : List Nat) (xs : List Nat) (w : Bool) : Nat :=
  let ps := (List.range 3).map fun k => (val32 (m.getD k 0)).mul (val32 (xs.getD k 0))
  (roundTo .f32 (sumAll 0 (if w then ps ++ [val32 (m.getD 3 0)] else ps)) 0 false false).1

/-- The current instance that an instance record makes of a ray; none where its subtree yields no hit. -/
def instOf (v : Nat) (o d : List Nat) : Option Inst :=
  let row (r : Nat) : List Nat := (List.range 4).map fun k => word32 v (16 * r + 4 * k)
  let o' := (List.range 3).map fun r => transformDot (row r) o true
  let d' := (List.range 3).map fun r => transformDot (row r) d false
  if (o' ++ d').all finite32 && d'.any (fun x => !(val32 x).isZero) then
    some { o := o', d := d', id := word32 v 56, flags := byteField v 61 1, hit := byteField v 62 2 }
  else none

/-- Cross product. -/
def cross3 (a b : List Q) : List Q :=
  let g (x : List Q) (k : Nat) : Q := x.getD k (Q.ofInt 0)
  let m (i j : Nat) : Q := ((g a i).mul (g b j)).sub ((g a j).mul (g b i))
  [m 1 2, m 2 0, m 0 1]

/-- Dot product. -/
def dot3 (a b : List Q) : Q := (a.zip b).foldl (fun s p => s.add (p.1.mul p.2)) (Q.ofInt 0)

/-- Difference. -/
def sub3 (a b : List Q) : List Q := a.zipWith Q.sub b

/-- Where a ray meets a closed triangle of finite vertices: t, u, v, and whether its front is met before any flip. -/
def meetTriangle (v : Nat) (o d : List Nat) : Option (Q × Q × Q × Bool) :=
  let vertex (n : Nat) : List Q := (List.range 3).map fun k => (val32 (word32 v (12 * n + 4 * k))).toQ
  let q (xs : List Nat) : List Q := (List.range 3).map (comp xs)
  let e1 := sub3 (vertex 1) (vertex 0)
  let e2 := sub3 (vertex 2) (vertex 0)
  let n := cross3 e1 e2
  let det := dot3 n (q d)
  if det.n = 0 then none
  else
    let t := (dot3 n (sub3 (vertex 0) (q o))).div det
    let p := ((q o).zip (q d)).map fun x => x.1.add (t.mul x.2)
    let r := sub3 p (vertex 0)
    let nn := dot3 n n
    let u := (dot3 (cross3 r e2) n).div nn
    let w := (dot3 (cross3 e1 r) n).div nn
    if 0 ≤ u.n && 0 ≤ w.n && (u.add w).le (Q.ofInt 1) then some (t, u, w, det.n < 0) else none

/-- The hit of a triangle leaf, with its exact t, where it is accepted. f: FIRST 1, CULLB 2, CULLF 3. -/
def leafHit (v : Nat) (i : Inst) (tmin best : Ext) (k f : Nat) : Option (Ext × Hit) :=
  let finite := (List.range 9).all fun n => finite32 (word32 v (4 * n))
  let met : Option (Ext × Nat × Nat × Nat × Bool) :=
    if finite then (meetTriangle v i.o i.d).map fun m => (.fin m.1, m.1.f32, m.2.1.f32, m.2.2.1.f32, m.2.2.2)
    else (Config.looseTriangle (((List.range 9).map fun n => BitVec.ofNat 32 (word32 v (4 * n))) ++ (i.o ++ i.d).map (BitVec.ofNat 32))).bind
      fun m => if finite32 m.1.toNat then some (ext32 m.1.toNat, m.1.toNat, m.2.1.toNat, m.2.2.1.toNat, m.2.2.2) else none
  match met with
  | none => none
  | some (t, t32, u, w, side) =>
    let front := side != i.flags.testBit 1
    let free := (word32 v 44).testBit 0 || i.flags.testBit 0
    if tmin.le t && t.lt best && (free || !((f.testBit 2 && !front) || (f.testBit 3 && front))) then
      some (t, { t := t32, u, v := w, prim := word32 v 36, geom := word32 v 40, inst := i.id, index := (i.hit + k) % 65536, front })
    else none

/-! ### Traversal -/

/-- What a ray comes to. -/
inductive RayRes where
  | wait
  | fault (h : HeldFault)
  | ok (hit : Option Hit) (boxes : Nat)

/-- A bad structure at an address (R310, R312). -/
def badNode (va : DWord) : RayRes := .fault { cause := 0x06, sub := 0x04, addr := va }

/-- A node read; a misaligned address is a fault. -/
def State.rayRead (s : State) (w : Nat) (x : Warp) (p : PendOp) (va : DWord) (n : Nat) : State × (Nat ⊕ RayRes) :=
  if va.toNat % 64 ≠ 0 then (s, .inr (badNode va))
  else match s.unitRead w x p va n false with
    | (s, .wait) => (s, .inr .wait)
    | (s, .fault cause sub a) => (s, .inr (.fault (heldBy 0x13 cause sub a)))
    | (s, .ok bs) => (s, .inl (natOfBytes bs))

/-- What visiting a node of given bytes makes of a ray. tmin, the ray mask, K and F are the ray's. -/
def RayState.visit (r : RayState) (e : RayEntry) (v : Nat) (tmin : Ext) (rmask k f : Nat) : RayState ⊕ RayRes :=
  match e.node with
  | .inst =>
    if byteField v 61 1 / 4 ≠ 0 ∨ byteField v 64 64 ≠ 0 then .inr (badNode e.va)
    else if byteField v 60 1 &&& rmask = 0 then .inl r
    else if (List.range 12).any fun n => !finite32 (word32 v (4 * n)) then .inr (badNode e.va)
    else match instOf v e.cur.o e.cur.d with
      | none => .inl r
      | some i =>
        if 64 ≤ r.stack.length then .inr (badNode e.va)
        else .inl { r with stack := { va := BitVec.ofNat 64 (byteField v 48 8), node := .bottom, cur := i } :: r.stack }
  | .leaf =>
    if word32 v 44 / 2 ≠ 0 ∨ byteField v 48 16 ≠ 0 then .inr (badNode e.va)
    else match leafHit v e.cur tmin r.best k f with
      | none => .inl r
      | some (t, h) => .inl { r with best := t, hit := some h, stack := if f.testBit 1 then [] else r.stack }
  | _ =>
    if (List.range 3).any fun a => !finite32 (word32 v (4 * a)) then .inr (badNode e.va)
    else
      let kids := boxChildren v e tmin r.best
      if 64 < r.stack.length + kids.length then .inr (badNode e.va)
      else .inl { r with stack := kids ++ r.stack, boxes := r.boxes + 1 }

/-- The traversal of a ray (R313). -/
def State.traverse (s : State) (w : Nat) (x : Warp) (p : PendOp) (r : RayState) (tmin : Ext) (rmask k f fuel : Nat) : State × RayRes :=
  match fuel with
  | 0 => (s, .wait)
  | n + 1 =>
    match r.stack with
    | [] => (s, .ok r.hit r.boxes)
    | e :: rest =>
      match s.rayRead w x p e.va (if e.node = .inst then 128 else 64) with
      | (s, .inr a) => (s, a)
      | (s, .inl v) =>
        match ({ r with stack := rest } : RayState).visit e v tmin rmask k f with
        | .inr a => (s, a)
        | .inl r => s.traverse w x p r tmin rmask k f n

/-- A ray that misses whatever the structure holds (R313): a NaN, tmin above tmax, a zero direction, an infinite component. -/
def deadRay (ray : List Nat) : Bool :=
  let q (k : Nat) : Nat := ray.getD k 0
  ray.any (fun x => (val32 x).isNan) || (ext32 (q 7)).lt (ext32 (q 3)) || [4, 5, 6].all (fun k => (val32 (q k)).isZero) ||
    [0, 1, 2, 4, 5, 6].any fun k => !finite32 (q k)

/-- The bytes of a hit record (R314). -/
def hitBytes (hit : Option Hit) (boxes : Nat) : List Byte :=
  match hit with
  | none => bytesOf 32 0
  | some h =>
    bytesOf 4 h.t ++ bytesOf 4 h.u ++ bytesOf 4 h.v ++ bytesOf 4 h.prim ++ bytesOf 4 h.geom ++ bytesOf 4 h.inst ++ bytesOf 2 h.index ++
      bytesOf 1 (if h.front then 1 else 2) ++ bytesOf 1 0 ++ bytesOf 4 boxes

/-- One lane of TRACE: its ray traversed and its record written. -/
def State.traceLane (s : State) (w : Nat) (x : Warp) (p : PendOp) (ray : List Word) (root : DWord) (rmask : Word) (rec : DWord)
    (k f : Nat) : State × RayRes :=
  let q := ray.map (·.toNat)
  let i : Inst := { o := q.take 3, d := [q.getD 4 0, q.getD 5 0, q.getD 6 0], id := 0, flags := 0, hit := 0 }
  let r : RayState :=
    { stack := if deadRay q then [] else [{ va := root, node := if f.testBit 4 then .bottom else .top, cur := i }],
      best := ext32 (q.getD 7 0), hit := none, boxes := 0 }
  match s.traverse w x p r (ext32 (q.getD 3 0)) (rmask.toNat % 256) k f (2 ^ 40) with
  | (s, .ok hit boxes) =>
    let bs := hitBytes hit boxes
    if f.testBit 0 then
      match s.engineWrite w x p 32 rec bs with
      | (s, .wait) => (s, .wait)
      | (s, .fault cause sub a) => (s, .fault (heldBy 0x13 cause sub a))
      | (s, .ok _) => (s, .ok hit boxes)
    else (s.putScratch x.wg rec.toNat bs, .ok hit boxes)
  | a => a

/-- Lanes of a TRACE in ascending order, as far as they go. -/
def State.traceLanes (s : State) (w : Nat) (x : Warp) (p : PendOp) (ls : List Nat) (f : Nat → State → State × RayRes)
    (put : List Nat → OpBody) : State :=
  match ls with
  | [] => s.completeOp w p
  | lane :: rest =>
    match f lane s with
    | (s, .wait) => s.modWarp w fun y => y.modOp p.id fun q => { q with body := put (lane :: rest) }
    | (s, .fault h) => s.modWarp w fun y => y.modOp p.id fun q => { q with body := put (lane :: rest), held := some h }
    | (s, .ok ..) => s.traceLanes w x p rest f put

/-- TRACE_COMPLETE (R315): the rays are traced and their records written; the granules flip back and T falls. -/
def execTraceComplete (w op : Nat) (s : State) : Host.Outcome State Fault Refusal :=
  .next (match (s.warp? w).bind fun x => (x.op? op).map fun p => (x, p) with
    | none => s
    | some (x, p) =>
      match p.body with
      | .trace lanes rays root rmask rec k f =>
        if p.held.isSome || s.asleep (288 + x.core) || s.laneBusy op p.granules then s
        else
          s.traceLanes w x p lanes
            (fun i s => s.traceLane w x p (valOfLane rays i []) (valOfLane root i 0) (valOfLane rmask i 0) (valOfLane rec i 0) k f)
            fun ls => .trace ls rays root rmask rec k f
      | _ => s)

/-- A TRACE whose records may be written issues: counted on T. -/
def Issue.traceOn (c : Issue) (s : State) (rec : List (Nat × DWord)) (gs : List (Nat × Nat)) : State :=
  let s : State := s.flipEngine gs
  c.leave (c.enqueue s (some .T) []
    (.trace c.lanes (c.laneWords c.e.a 8) (c.lanes.map fun i => (i, c.rd64 c.e.b i)) (c.descWords c.e.c) rec (c.e.k.toNat % 65536) c.e.f.toNat)
    gs)

/-- TRACE (R315). -/
def execTrace (e : Enc) (s : State) : Host.Outcome State Fault Refusal :=
  runIsa formTrace e (fun c s =>
    if c.warp.walker then c.trap s walkerTrap
    else if c.em = 0 then c.leave s
    else if e.fb 0 1 = 1 then
      let recs := c.lanes.map fun i => (i, c.rd64 e.d i)
      let mis := recs.filter fun p => p.2.toNat % 32 ≠ 0
      if !mis.isEmpty then
        c.trap s { cause := 0x09, sub := 0x01, lanes := some (maskOf (mis.map (·.1))), va := mis, write := true }
      else
      match s.admission c { size := 32, write := true, store := true } (flatReqs recs) with
      | (s, .trap t) => c.trap s t
      | (s, .stall y) => c.stall s y
      | (s, .ok _ _) => if c.full .T then c.stall s .counter else c.pinning s fun s => c.traceOn s recs []
    else
      let offs := c.lanes.map fun i => (i, (c.rd e.d i).toNat)
      match s.wg? c.warp.wg with
      | none => c.leave s
      | some g =>
        let mis := offs.filter fun p => p.2 % 32 ≠ 0
        let out := offs.filter fun p => g.alloc < p.2 + 32
        let gs := (offs.flatMap fun p => (granulesOf p.2 32).map fun q => (c.warp.wg, q)).eraseDups
        if !mis.isEmpty then c.trap s (scratchTrap 0x09 mis true)
        else if !out.isEmpty then c.trap s (scratchTrap 0x06 out true)
        else if offs.any fun p => g.owned p.2 32 then c.stall s .granules
        else if c.full .T then c.stall s .counter
        else c.traceOn s (offs.map fun p => (p.1, BitVec.ofNat 64 p.2)) gs) s

end Sys2Proof.Machine
end

