-- ==== Sys2Proof/Machine/Emit.lean ====
section
/-!
DEFINITION. Records into the rings of a graph (13 R316, 16 R367, R368), and STORE_PERFORMED, which performs every operation that
counts on S (08 R182).
-/
namespace Sys2Proof.Machine

/-- The ring that EMIT names, as a resource of the graph: the pass's own, or that of its output edge (R316, 16 R368). -/
def Issue.emitRing (c : Issue) (g : Graph) (p : Pass) : Option Nat :=
  if c.e.fb 5 1 = 1 then (if p.kind = 4 then some p.ring else none)
  else match p.outs[c.e.fb 2 3]? with
    | some r => if (match g.ress[r]? with | some x => x.format == 0 | none => false) then some r else none
    | none => none

/-- Slots of a ring in use: its records, and those of its gangs that have not retired (16 R367). -/
def State.ringUsed (s : State) (graph ring : Nat) : Nat :=
  let waiting := match Tab.get? s.graphs graph with | some g => ((Tab.get? g.rings ring).getD []).length | none => 0
  s.tasks.foldl (fun n t => if t.2.graph = graph then
      (match (Tab.get? s.graphs graph).bind fun g => g.passes[t.2.pass]? with
       | some p => if p.kind = 4 ∧ p.ring = ring then n + t.2.recs.length else n
       | none => n) else n) waiting

/-- A ring takes n records: it has the slots, or its excess goes to backing (16 R368). -/
def State.ringTakes (s : State) (graph ring n : Nat) : Bool :=
  match (Tab.get? s.graphs graph).bind fun g => g.ress[ring]? with
  | some r => r.overflow || s.ringUsed graph ring + n ≤ r.ringcap
  | none => true

/-- Records beyond a ring's slots written to its BACKING, one after another in the order of their arrival (16 R368; assumption 63). -/
def State.spillRecs (s : State) (graph ring : Nat) (recs : List (BitVec 512)) : State :=
  recs.foldl (fun (s : State) b =>
    match (Tab.get? s.graphs graph).bind fun g => g.ress[ring]?.map fun r => (g, r) with
    | none => s
    | some (g, r) =>
      let n := (Tab.get? g.spilled ring).getD 0
      let s : State := { s with graphs := Tab.set s.graphs graph { g with spilled := Tab.set g.spilled ring (n + 1) } }
      match s.unitName g.ctx (r.backing + BitVec.ofNat 64 (64 * n)) with
      | some pa => s.unitWrite (cellsOf pa 64 b.toNat)
      | none => s) s

/-- Records appended to a ring in order, as one act (R316); those beyond its slots go to BACKING too. -/
def State.appendRecs (s : State) (graph ring : Nat) (recs : List (BitVec 512)) (depth : Nat) : State :=
  let room := match (Tab.get? s.graphs graph).bind fun g => g.ress[ring]? with
    | some r => r.ringcap - s.ringUsed graph ring
    | none => recs.length
  let s : State := s.spillRecs graph ring (recs.drop room)
  { s with graphs := Tab.modify s.graphs graph fun g =>
      { g with rings := Tab.set g.rings ring (((Tab.get? g.rings ring).getD []) ++ recs.map fun b => { depth, bytes := b }) } }

/-- EMIT (R316): irrevocable, so it pins its task (16 R364). -/
def execEmit (e : Enc) (s : State) : Host.Outcome State Fault Refusal :=
  runIsa formEmit e (fun c s =>
    let len := 16 * (e.fb 0 2 + 1)
    if c.warp.stage = .compute then c.trap s (illegal 0x06)
    else if c.em = 0 then c.leave s
    else
      match c.taskOf s, s.wg? c.warp.wg with
      | some (_, t, g, p), some wg =>
        (match c.emitRing g p with
         | none => c.trap s (illegal 0x06)
         | some ring =>
           let offs := c.lanes.map fun i => (i, (c.rd e.a i).toNat)
           let out := offs.filter fun q => wg.alloc < q.2 + len
           let mis := offs.filter fun q => q.2 % 16 ≠ 0
           let own := offs.filter fun q => wg.owned q.2 len
           if !out.isEmpty then c.trap s (scratchTrap 0x06 out false)
           else if !mis.isEmpty then c.trap s (scratchTrap 0x09 mis false)
           else if !own.isEmpty then c.trap s (scratchTrap 0x08 own false)
           else if e.fb 5 1 = 1 ∧ c.warp.recDepth = p.maxdepth then c.trap s { cause := 0x0F, lanes := some c.em }
           else if c.full .S then c.stall s .counter
           else
             c.pinning s fun s =>
               let recs := offs.map fun q => BitVec.ofNat 512 (wg.sp.readNat q.2 len)
               let depth := if e.fb 5 1 = 1 then c.warp.recDepth + 1 else 0
               if s.ringTakes t.graph ring recs.length then
                 c.leave (c.enqueue (s.appendRecs t.graph ring recs depth) (some .S) [] (.emit t.graph ring [] depth))
               else
                 let op := s.nextId
                 c.splitDo (c.enqueue s (some .S) [] (.emit t.graph ring recs depth)) fun sp => { sp with wait := .ring op c.waitAt, age := c.sp.age })
      | _, _ => c.trap s (illegal 0x06)) s

/-- EMIT_APPEND (R316): a waiting EMIT appends its records once its ring has space. -/
def execEmitAppend (w k : Nat) (s : State) : Host.Outcome State Fault Refusal :=
  .next (match (s.warp? w).bind fun x => (x.split? k).map fun sp => (x, sp) with
    | none => s
    | some (x, sp) =>
      match sp.wait with
      | .ring op _ =>
        (match x.op? op with
         | some p =>
           (match p.body with
            | .emit graph ring recs depth =>
              if x.runs && s.ringTakes graph ring recs.length then
                ((s.appendRecs graph ring recs depth).modWarp w fun y => y.modOp op fun q => { q with body := .emit graph ring [] depth }).resumeSplit w k
              else s
            | _ => s)
         | none => s)
      | _ => s)

/-- STORE_PERFORMED (08 R182, 09 R212, R218, 13 R291): the bytes of a store in one line outside peer memory, a CLEAN or INVAL, a TSTT in
its warp's order, the next lane of an ISTORE, an EMIT whose records are in their ring, or a VOUT. -/
def execStorePerformed (w : Nat) (o : OpAt) (s : State) : Host.Outcome State Fault Refusal :=
  .next (match (s.warp? w).bind fun x => (x.op? o.op).map fun p => (x, p) with
    | none => s
    | some (x, p) =>
      match p.body with
      | .store bytes rel na =>
        let mine (b : Nat × Byte) : Bool := b.1 / 128 = o.line && !s.isPeer b.1
        s.storeStep w x p (bytes.filter mine) (bytes.filter fun b => !mine b) rel na
      | .clean base len inval icache =>
        if x.behind p then s else s.maintStep w x p base len inval icache
      | .tstt att offs data blend => if x.tileBehind o.op then s else (s.tsttDo x att offs data blend).completeOp w p
      | .istore .. => s.texStep w o.op
      | .emit _ _ recs _ => if recs.isEmpty then s.completeOp w p else s
      | .vout => s.completeOp w p
      | _ => s)

end Sys2Proof.Machine
end

