-- ==== Sys2Proof/Machine/Sysreg.lean ====
section
/-!
DEFINITION. System registers (14 R324 to R327, 19 R416, R422, R427) and the instructions that reach them, URET, SRET, TIME and BBMARK
(14 R330 to R334, 19 R430).
-/
namespace Sys2Proof.Machine

/-- The half of a 64-bit register: 0 low. -/
def half64 (x : DWord) (h : Nat) : Word := x.extractLsb' (32 * h) 32

/-- A 64-bit register with one half replaced. -/
def setHalf (x : DWord) (h : Nat) (v : Word) : DWord := if h = 0 then half64 x 1 ++ v else v ++ half64 x 0

/-! ### Reading -/

/-- Registers of the user frame and of the warp (14 R324). -/
def Issue.userReg (c : Issue) (n : Nat) : Word :=
  let u := c.sp.user
  let w := c.warp
  match n with
  | 0x000 => u.tcause
  | 0x001 => half64 u.tpc 0
  | 0x002 => half64 u.tpc 1
  | 0x003 => half64 u.tnpc 0
  | 0x004 => half64 u.tnpc 1
  | 0x005 => u.tmask
  | 0x006 => u.tact
  | 0x007 => u.tdest
  | 0x008 => u.tinfo
  | 0x009 => w.fpstat
  | 0x00A => w.fptrap
  | 0x00B => half64 w.utvec 0
  | 0x00C => half64 w.utvec 1
  | 0x00D => w.usave + BitVec.ofNat 32 (256 * c.k)
  | 0x020 => BitVec.ofNat 32 (w.index + 32 * w.part)
  | 0x021 => BitVec.ofNat 32 w.core
  | 0x022 => BitVec.ofNat 32 (clusterOf w.core)
  | 0x023 => BitVec.ofNat 32 (dieOf w.core)
  | 0x024 => BitVec.ofNat 32 w.ctx
  | 0x025 => w.gangIndex.setWidth 32
  | 0x030 => BitVec.ofNat 32 (w.counter .G)
  | 0x031 => BitVec.ofNat 32 (w.counter .S)
  | 0x032 => BitVec.ofNat 32 (w.counter .C)
  | 0x033 => BitVec.ofNat 32 (w.counter .X)
  | 0x034 => BitVec.ofNat 32 (w.counter .T)
  | 0x035 => BitVec.ofNat 32 (w.counter .Q)
  | _ => 0

/-- Registers of the supervisor frame, the context and the warp (19 R422); those that every lane holds, for a lane; those of the context read
the values of its block (R416). An index that no
table lists reads zero, as a reserved field does (R17; assumption 27). -/
def Issue.sysReg (c : Issue) (s : State) (n lane : Nat) : Word :=
  let f := c.sp.sup
  let block (off : Nat) : Word := BitVec.ofNat 32 (s.winNat (0xA00 + 32 * c.warp.ctx + off) 4)
  let va : DWord := Store.get f.sva lane
  match n with
  | 0x100 => f.scause
  | 0x101 => half64 f.spc 0
  | 0x102 => half64 f.spc 1
  | 0x103 => half64 f.snpc 0
  | 0x104 => half64 f.snpc 1
  | 0x105 => f.smask
  | 0x106 => f.sact
  | 0x107 => f.sdest
  | 0x108 => if c.e.uni then Config.uniformRead s.free else half64 va 0
  | 0x109 => if c.e.uni then Config.uniformRead s.free else half64 va 1
  | 0x10A => f.sinfo
  | 0x10B => block 8
  | 0x10C => block 12
  | 0x10D => c.warp.ssave + BitVec.ofNat 32 (256 * c.k)
  | 0x110 => block 0
  | 0x111 => block 4
  | 0x112 => block 24
  | 0x113 => block 28
  | 0x116 => block 16
  | 0x117 => block 20
  | 0x120 => c.warp.callspill
  | _ => c.userReg n

/-! ### Writing -/

/-- The layout of TCAUSE and SCAUSE holds these bits (02 R68). -/
def causeBits (v : Word) : Word := v &&& 0x7FFFF

/-- A value of the context's block in the stream configuration window, which the register of its name writes (19 R416). -/
def State.putBlock (s : State) (ctx off n v : Nat) : State := { s with win := s.win.writeNat (0xA00 + 32 * ctx + off) n v }

/-- IVAL of HARVEST (19 R427). -/
def harvestOf (v : Word) : Word := BitVec.ofNat 32 (max 1 (min 1000 (v.toNat % 1024)))

/-- An address in the context's block, at a byte offset. -/
def State.block64 (s : State) (ctx off : Nat) : DWord := BitVec.ofNat 64 (s.winNat (0xA00 + 32 * ctx + off) 8)

/-- PTROOT of a context written: a change removes every TLB entry of the context (19 R416). -/
def State.setPtroot (s : State) (ctx : Nat) (v : DWord) : State :=
  let s' : State := (s.modCtx ctx fun x => { x with ptroot := v }).putBlock ctx 0 8 v.toNat
  if s.block64 ctx 0 = v then s' else s'.removeCtx ctx

/-- A register written under its access codes (14 R324, 19 R422). -/
def Issue.writeReg (c : Issue) (s : State) (n : Nat) (v : Word) : State :=
  let user (g : UserFrame → UserFrame) : State := c.splitDo s fun sp => { sp with user := g sp.user }
  let sup (g : SupFrame → SupFrame) : State := c.splitDo s fun sp => { sp with sup := g sp.sup }
  let warp (g : Warp → Warp) : State := c.warpDo s g
  let ctx := c.warp.ctx
  match n with
  | 0x000 => user fun u => { u with tcause := causeBits v }
  | 0x001 => user fun u => { u with tpc := setHalf u.tpc 0 v }
  | 0x002 => user fun u => { u with tpc := setHalf u.tpc 1 v }
  | 0x003 => user fun u => { u with tnpc := setHalf u.tnpc 0 v, tnpcSeq := false }
  | 0x004 => user fun u => { u with tnpc := setHalf u.tnpc 1 v, tnpcSeq := false }
  | 0x005 => user fun u => { u with tmask := v }
  | 0x009 => warp fun w => { w with fpstat := v &&& 0x1F }
  | 0x00A => warp fun w => { w with fptrap := v &&& 0x1F }
  | 0x00B => warp fun w => { w with utvec := setHalf w.utvec 0 v }
  | 0x00C => warp fun w => { w with utvec := setHalf w.utvec 1 v }
  | 0x00D => warp fun w => { w with usave := v &&& 0xFFFFFC00 }
  | 0x100 => sup fun u => { u with scause := causeBits v }
  | 0x101 => sup fun u => { u with spc := setHalf u.spc 0 v, spcSeq := false }
  | 0x102 => sup fun u => { u with spc := setHalf u.spc 1 v, spcSeq := false }
  | 0x103 => sup fun u => { u with snpc := setHalf u.snpc 0 v, snpcSeq := false }
  | 0x104 => sup fun u => { u with snpc := setHalf u.snpc 1 v, snpcSeq := false }
  | 0x10A => sup fun u => { u with sinfo := (u.sinfo &&& 0xBFFFFFFF) ||| (v &&& 0x40000000) }
  | 0x10B => let y := setHalf (s.block64 ctx 8) 0 v; (s.modCtx ctx fun x => { x with stvec := y }).putBlock ctx 8 8 y.toNat
  | 0x10C => let y := setHalf (s.block64 ctx 8) 1 v; (s.modCtx ctx fun x => { x with stvec := y }).putBlock ctx 8 8 y.toNat
  | 0x10D => warp fun w => { w with ssave := v &&& 0xFFFFFC00 }
  | 0x110 => s.setPtroot ctx (setHalf (s.block64 ctx 0) 0 v)
  | 0x111 => s.setPtroot ctx (setHalf (s.block64 ctx 0) 1 v)
  | 0x112 => s.putBlock ctx 24 4 v.toNat
  | 0x113 => (s.modCtx ctx fun x => { x with harvest := harvestOf v }).putBlock ctx 28 4 (harvestOf v).toNat
  | 0x116 => let y := setHalf (s.block64 ctx 16) 0 v; (s.modCtx ctx fun x => { x with walkentry := y }).putBlock ctx 16 8 y.toNat
  | 0x117 => let y := setHalf (s.block64 ctx 16) 1 v; (s.modCtx ctx fun x => { x with walkentry := y }).putBlock ctx 16 8 y.toNat
  | 0x120 => warp fun w => { w with callspill := v &&& 0xFF9FFF00 }
  | _ => s

/-! ### The register that TDEST names (14 R325, R332) -/

/-- RDSYS.dest for a lane. -/
def Issue.readDest (c : Issue) (s : State) (j lane : Nat) : Word :=
  let u := c.sp.user
  match u.destName j with
  | .none => 0
  | .v n => if c.e.uni then Config.uniformRead s.free else Store.get c.warp.v (laneKey n lane)
  | .o n => if c.e.uni then Config.uniformRead s.free
            else (match u.saved with | some x => Store.get x.ofile (laneKey n lane) | none => 0)
  | .g n => c.warp.gReg n

/-- Words of an operand-file register written into the saved copy of some lanes: their poison goes, and results due to them are no longer
(03 R95, 09 R216). -/
def Saved.putO (x : Saved) (n : Nat) (vals : List (Nat × Word)) : Saved :=
  vals.foldl (fun x p =>
    { x with ofile := Store.set x.ofile (laneKey n p.1) p.2, omarks := Tab.erase x.omarks (laneKey n p.1),
             odue := x.odue.filter fun d => !d.2.names (.o n) p.1 }) x

/-- WRSYS.dest: word j of the named register in some lanes, and of the saved l0 where the trapping instruction was direct-class. -/
def Issue.writeDest (c : Issue) (w : Warp) (j : Nat) (vals : List (Nat × Word)) : Warp :=
  let u := c.sp.user
  let saved (w : Warp) (f : Saved → Saved) : Warp :=
    w.modSplit c.k fun sp => { sp with user := { sp.user with saved := sp.user.saved.map f } }
  let latch (w : Warp) : Warp :=
    if u.direct && j < 2 then
      saved w fun x => { x with latches := { x.latches with data := vals.foldl (fun d p =>
        Store.set d (laneKey 0 p.1) (setHalf (Store.get d (laneKey 0 p.1)) j p.2)) x.latches.data } }
    else w
  match u.destName j with
  | .none => w
  | .v n => latch (vals.foldl (fun w p => w.put (.v n) p.1 p.2) w)
  | .o n => latch (saved w fun x => x.putO n vals)
  | .g n => (match vals with | p :: _ => w.put (.g n) 0 p.2 | [] => w)

/-- The lanes that TDEST's register is written in. -/
def Issue.destLanes (c : Issue) : List Nat := lanesOf c.em

/-- RDSYS (R332). -/
def execRdsys (e : Enc) (s : State) : Host.Outcome State Fault Refusal :=
  runIsa formRdsys e (fun c s =>
    let dest := e.fb 12 1 = 1
    if dest ∧ c.sp.level ≠ 1 then c.trap s (illegal 0x07)
    else
      let val (i : Nat) : Word := if dest then c.readDest s (e.fb 13 2) i else c.sysReg s (e.fb 0 12) i
      c.leave (c.warpDo s fun w => c.lanes.foldl (fun w i => c.putWords w e.d.toNat i [val i]) w)) s

/-- WRSYS (R332): the index form writes once, from g or the lowest lane. -/
def execWrsys (e : Enc) (s : State) : Host.Outcome State Fault Refusal :=
  runIsa formWrsys e (fun c s =>
    let dest := e.fb 12 1 = 1
    if dest ∧ c.sp.level ≠ 1 then c.trap s (illegal 0x07)
    else if c.em = 0 then c.leave s
    else if dest then
      c.leave (c.warpDo s fun w => c.writeDest w (e.fb 13 2) (c.destLanes.map fun i => (i, c.rd e.a i)))
    else
      match c.sp.wait with
      | .stall (.tlb n) => c.afterRemoval s n
      | _ =>
        let t := c.writeReg s (e.fb 0 12) (c.rd e.a c.first)
        if s.block64 c.warp.ctx 0 = t.block64 c.warp.ctx 0 then c.leave t else c.afterRemoval t t.nextId) s

/-! ### Returns from handlers -/

/-- URET (R330). -/
def execUret (e : Enc) (s : State) : Host.Outcome State Fault Refusal :=
  runIsa formUret e (fun c s =>
    if c.em = 0 then c.leave s
    else if c.sp.level ≠ 1 ∨ c.sp.user.saved.isNone then c.trap s (illegal 0x07)
    else if c.sp.user.tact &&& c.warp.lanes &&& ~~~c.sp.mask ≠ 0 then c.trap s { cause := 0x0A, sub := 0x06 }
    else c.userReturn s) s

/-- SRET (19 R430): what the split's held fault stopped goes on (R193, 13 R310). -/
def execSret (e : Enc) (s : State) : Host.Outcome State Fault Refusal :=
  runIsa formSret e (fun c s =>
    if c.em = 0 then c.leave s
    else if c.sp.sup.saved.isNone then c.trap s (illegal 0x07)
    else if c.sp.sup.smask &&& c.warp.lanes &&& ~~~c.sp.mask ≠ 0 then c.trap s { cause := 0x0A, sub := 0x06 }
    else (c.supReturn s).resumeHeld c.w c.sp.sup.heldOp) s

/-! ### Time and marks -/

/-- TIME (R333). -/
def execTime (e : Enc) (s : State) : Host.Outcome State Fault Refusal :=
  runIsa formTime e (fun c s =>
    if c.em = 0 then c.leave s
    else c.leave (c.warpDo s fun w => c.putWords w e.d.toNat 0 [BitVec.ofNat 32 s.timer, BitVec.ofNat 32 (s.timer / 2 ^ 32)])) s

/-- BBMARK (R334): a record in the log of the warp's die. -/
def execBbmark (e : Enc) (s : State) : Host.Outcome State Fault Refusal :=
  runIsa formBbmark e (fun c s =>
    if c.em = 0 then c.leave s
    else
      let data := if e.a = 0x10F then 0 else natOfWords (c.rdWords e.a 0 4)
      c.leave (s.log (dieOf c.warp.core) (0xF00 + e.fb 0 8) c.warp.core c.warp.ctx data)) s

end Sys2Proof.Machine
end

