-- ==== Sys2Proof/Machine/Drain.lean ====
section
/-!
DEFINITION. Draining a stopped warp (18 R396 step 4), which HALTW (19 R434), pre-emption and migration share, and a
halted warp's record (19 R435).
-/
namespace Sys2Proof.Machine

/-- Nothing of a stopped warp is outstanding but held faults and remote pushes held at their targets (R396 step 4). -/
def State.drained (s : State) (w : Nat) : Bool :=
  match s.warp? w with
  | none => true
  | some x =>
    !((s.engine x.engineKey).queue.any fun o => o.warp = w) &&
      x.pend.all fun p => p.done || p.held.isSome || (match p.body with | .push _ _ _ _ arrived => arrived | .words _ => p.path.isNone | _ => false)

/-- Remote pushes of a warp held at their targets withdrawn to be sent again (08 R201); interlocked results are in their registers, and
completed operations count no more (R184). -/
def State.withdrawPushes (s : State) (w : Nat) : State :=
  let s : State := s.modWarp w fun x =>
    let x := x.interlock fun _ => true
    { x with pend := (x.pend.filter fun p => !p.done).map fun p => match p.body with
        | .push t q v y true => { p with body := .push t q v y false }
        | _ => p }
  { s with wgs := s.wgs.map fun g => (g.1, { g.2 with queues := g.2.queues.map fun q =>
      (q.1, { q.2 with pushers := q.2.pushers.filter fun p => !(p.1 = w && p.2.2) }) }) }

/-! ### HALTW and RESUMEW -/

/-- The warp of an index in a workgroup that has not ended. -/
def State.warpOf (s : State) (wg index : Nat) : Option (Nat × Warp) :=
  s.warps.find? fun x => x.2.wg = wg && x.2.index = index && x.2.lanes ≠ 0

/-- HALTW (19 R434): stalls until the drain is done. -/
def execHaltw (e : Enc) (s : State) : Host.Outcome State Fault Refusal :=
  runIsa formHaltw e (fun c s =>
    let put (s : State) (v : Nat) : State := c.leave (c.warpDo s fun w => c.putWords w e.d.toNat 0 [BitVec.ofNat 32 v])
    if c.em = 0 then c.leave s
    else
      match s.warpOf c.warp.wg (c.rd e.a 0).toNat with
      | none => put s 2
      | some (t, x) =>
        if t = c.w then put s 3
        else if x.halted then put s 1
        else
          let s : State := s.stopWarp t
          if s.drained t then
            let victim := match Tab.get? s.gangs x.gang with | some g => g.victim | none => false
            put ((s.withdrawPushes t).modWarp t fun y => { y with halted := true, stopping := victim }) 0
          else c.stall s .drain) s

/-- RESUMEW (19 R434): a core-scope release by the issuing warp. -/
def execResumew (e : Enc) (s : State) : Host.Outcome State Fault Refusal :=
  runIsa formResumew e (fun c s =>
    let put (s : State) (v : Nat) : State := c.leave (c.warpDo s fun w => c.putWords w e.d.toNat 0 [BitVec.ofNat 32 v])
    if c.em = 0 then c.leave s
    else
      match s.warpOf c.warp.wg (c.rd e.a 0).toNat with
      | none => put s 2
      | some (t, x) =>
        if t = c.w then put s 3
        else if !x.halted then put s 1
        else c.releasing s 1 fun s => put (s.modWarp t fun y => { y with halted := false }) 0) s

/-! ### The record of a halted warp (18 R400, 19 R435) -/

/-- A word of bits, bit i by a function. -/
def bitsWord (f : Nat → Bool) : Word := maskOf ((List.range 32).filter f)

/-- A word of a warp's record behind the poison bits, by its offset from their start: the Matrix section, where the warp has one, with 8,576
bytes of maps, kinds, batch state and bypass slot as the part keeps them (assumption 29), then the accumulator tiles in the order of 25
R493; else 0. -/
def Warp.matrixWord (x : Warp) (free off : Nat) : Word :=
  let a := (4 * (x.vregs + 8) + 8 + 127) / 128 * 128
  if off < a || (x.accs = 0 && x.maps.isEmpty) then 0
  else if off < a + 8576 then Config.recordHeader (off / 4) free
  else if off < a + 8576 + 16384 * x.accs then Store.get x.acc ((off - a - 8576) / 4)
  else 0

/-- The word of a warp's record at an offset, as RDWARP reads it. -/
def Warp.record (x : Warp) (free off : Nat) : Word :=
  let n := off / 4
  let lane := n % 32
  let poison := 9728 + 128 * x.vregs
  if off < 128 then Config.recordHeader n free
  else if off < 384 then x.gReg (n - 32)
  else if off < 512 then
    let k := n - 96
    if k = 0 then x.fpstat
    else if k = 1 then x.fptrap
    else if k = 2 then half64 x.utvec 0
    else if k = 3 then half64 x.utvec 1
    else if k = 4 then x.usave
    else if k = 5 then x.callspill
    else if k < 12 then BitVec.ofNat 32 (x.counter (pathOf (k - 6)))
    else if k = 12 then BitVec.ofNat 32 x.bseq
    else if k < 29 then half64 (x.tbase ((k - 13) / 2)).vbase ((k - 13) % 2)
    else 0
  else if off < 576 then
    let k := n - 128
    match x.split? (k / 4) with
    | none => 0
    | some sp =>
      if k % 4 = 0 then half64 sp.pc 0
      else if k % 4 = 1 then half64 sp.pc 1
      else if k % 4 = 2 then sp.mask
      else BitVec.ofNat 32 (2048 + 512 * sp.level + sp.frame.depth % 512)
  else if off < 8704 then 0
  else if off < 9728 then Store.get x.o (laneKey ((n - 2176) / 32) lane)
  else if off < poison then Store.get x.v (laneKey ((n - 2432) / 32) lane)
  else
    let k := n - poison / 4
    if k < x.vregs then bitsWord fun i => (Tab.get? x.pv (laneKey k i)).isSome
    else if k < x.vregs + 8 then bitsWord fun i => (Tab.get? x.po (laneKey (k - x.vregs) i)).isSome
    else if k < x.vregs + 10 then bitsWord fun i => (Tab.get? x.pg (32 * (k - x.vregs - 8) + i)).isSome
    else x.matrixWord free (off - poison)

/-- A word of a warp's record written, where it may be. -/
def Warp.putRecord (x : Warp) (off : Nat) (v : Word) : Warp :=
  let n := off / 4
  let lane := n % 32
  if off < 128 then x
  else if off < 384 then x.setReg (.g (n - 32)) 0 v
  else if off < 512 then
    let k := n - 96
    if k = 0 then { x with fpstat := v &&& 0x1F }
    else if k = 1 then { x with fptrap := v &&& 0x1F }
    else if k = 2 then { x with utvec := setHalf x.utvec 0 v }
    else if k = 3 then { x with utvec := setHalf x.utvec 1 v }
    else if k = 4 then { x with usave := v &&& 0xFFFFFC00 }
    else x
  else if off < 576 then
    let k := n - 128
    if k % 4 < 2 then x.modSplit (k / 4) fun sp => { sp with pc := setHalf sp.pc (k % 4) v, seq := false } else x
  else if off < 8704 then x
  else if off < 9728 then x.setReg (.o ((n - 2176) / 32)) lane v
  else if off < 9728 + 128 * x.vregs then x.setReg (.v ((n - 2432) / 32)) lane v
  else x

/-- An offset without its bits [1:0]. -/
def wordOffset (x : Word) : Nat := x.toNat / 4 * 4

/-- The warp that RDWARP and WRWARP name, where it is halted. -/
def Issue.haltedWarp (c : Issue) (s : State) : Option (Nat × Warp) :=
  match s.warpOf c.warp.wg (c.rd c.e.a c.first).toNat with
  | some (t, x) => if x.halted then some (t, x) else none
  | none => none

/-- RDWARP (19 R435). -/
def execRdwarp (e : Enc) (s : State) : Host.Outcome State Fault Refusal :=
  runIsa formRdwarp e (fun c s =>
    if c.em = 0 then c.leave s
    else
      match c.haltedWarp s with
      | none => c.trap s { cause := 0x06, sub := 0x05 }
      | some (_, x) =>
        c.leave (c.warpDo s fun w => c.lanes.foldl (fun w i => c.putWords w e.d.toNat i [x.record s.free (wordOffset (c.rd e.b i))]) w)) s

/-- WRWARP (19 R435): the highest lane wins an offset. -/
def execWrwarp (e : Enc) (s : State) : Host.Outcome State Fault Refusal :=
  runIsa formWrwarp e (fun c s =>
    if c.em = 0 then c.leave s
    else
      match c.haltedWarp s with
      | none => c.trap s { cause := 0x06, sub := 0x05 }
      | some (t, _) =>
        c.leave (s.modWarp t fun x => c.lanes.foldl (fun x i => x.putRecord (wordOffset (c.rd e.b i)) (c.rd e.d i)) x)) s

end Sys2Proof.Machine
end

