-- ==== Sys2Proof/Machine/Loop.lean ====
section
/-!
DEFINITION. Declared loops (07 R169 to R176): LOOP, LOOPP, BREAK, LCGET, LCSET, IPREF.
-/
namespace Sys2Proof.Machine

/-- END of LOOP and LOOPP: PC + 4 X. -/
def Issue.loopEnd (c : Issue) : DWord := c.sp.pc + BitVec.ofNat 64 (4 * c.e.x.toNat)

/-- The checks of R171, in order. -/
def Issue.loopTrap (c : Issue) (s : State) (win : Option Nat) : Option Trap :=
  let loopFault (sub : Nat) : Option Trap := some { cause := 0x0B, sub }
  if 4 ≤ c.sp.frame.loops.length then loopFault 0x01
  else if c.sp.frame.pipe.isSome then loopFault 0x02
  else if (match win with | some w => decide (c.warp.vregs < 192 + w) | none => false) then loopFault 0x07
  else if c.loopEnd.toNat < (c.next s).toNat then loopFault 0x06
  else if 32 ≤ c.warp.stack.length then some { cause := 0x0C, sub := 0x01 }
  else none

/-- A loop level as its declaration makes it (R171); pipe holds STAGES and WIN. -/
def Issue.newLoop (c : Issue) (s : State) (n : Word) (pipe : Option (Nat × Nat)) : Loop :=
  { pipelined := pipe.isSome, start := c.next s, stop := c.loopEnd, count := n, started := 1, exitmask := 0,
    depth := c.sp.frame.depth, stages := (pipe.map (·.1)).getD 0, stagemask := if pipe.isSome then 1 else 0,
    win := (pipe.map (·.2)).getD 0, rb := 0 }

/-- The declaration of a loop (R171). For a zero count END's fetch block is fetched to find the successor. -/
def Issue.declare (c : Issue) (s : State) (n : Word) (pipe : Option (Nat × Nat)) : State :=
  match c.loopTrap s (pipe.map (·.2)) with
  | some t => c.trap s t
  | none =>
    if n = 0 then
      match s.fetchLine (fetcherOf c.w c.k c.warp c.sp) c.loopEnd with
      | (s, .stall y) => c.stall s y
      | (s, .trap cause sub) =>
        c.trap s { cause, sub, fetch := true, va := (lanesOf c.sp.mask).map fun i => (i, c.loopEnd) }
      | (s, .line _) => (c.splitDo s fun sp => { sp with pc := c.succ s c.loopEnd, seq := true }).settleWarp c.w (c.succ s)
    else
      let l := c.newLoop s n pipe
      (c.warpDo s fun w =>
        match w.split? c.k with
        | some sp =>
          { w with stack := .join l.stop sp.mask 0 sp.frame sp.handler (some sp.frame.depth) :: w.stack }.setSplit c.k
            { sp with pc := l.start, seq := true, frame := { sp.frame with loops := sp.frame.loops ++ [l] } }
        | none => w).settleWarp c.w (c.succ s)

/-- LOOP (R170, R171). -/
def execLoop (e : Enc) (s : State) : Host.Outcome State Fault Refusal :=
  runIsa formLoop e (fun c s =>
    c.declare s (if e.fb 18 1 = 1 then BitVec.ofNat 32 (e.fb 0 18) else c.rd e.a 0) none) s

/-- LOOPP (R170, R171). -/
def execLoopp (e : Enc) (s : State) : Host.Outcome State Fault Refusal :=
  runIsa formLoopp e (fun c s =>
    c.declare s (if e.fb 18 1 = 1 then e.k else c.rd e.a 0) (some (e.fb 0 3 + 1, 8 * (e.fb 3 3 + 1)))) s

/-- Lanes leave the innermost level of a frame at its depth. -/
def Frame.breakLanes (f : Frame) (n : Nat) (lanes : Word) : Frame :=
  match f.loops[n]? with
  | some l => f.setLoop n { l with exitmask := l.exitmask ||| lanes }
  | none => f

/-- The issuing split leaves an instruction that may have taken its live lanes: R162 in place of the end step where none is left. -/
def Issue.leaveLive (c : Issue) (s : State) : State :=
  match (s.warp? c.w).bind fun w => w.split? c.k with
  | some sp =>
    if sp.live = 0 then (c.splitDo s fun sp => { sp with pc := c.next s, seq := true }).settleWarp c.w (c.succ s) else c.leave s
  | none => c.leave s

/-- BREAK (R172). -/
def execBreak (e : Enc) (s : State) : Host.Outcome State Fault Refusal :=
  runIsa formBreak e (fun c s =>
    match c.sp.frame.inner with
    | none => c.trap s { cause := 0x0B, sub := 0x05 }
    | some (n, _) => c.leaveLive (c.splitDo s fun sp => { sp with frame := sp.frame.breakLanes n c.em })) s

/-! ### Loop-control fields -/

/-- The ctrl word of a level (R174). -/
def Loop.ctrl (l : Loop) : Word :=
  BitVec.ofNat 32 (2 ^ 31 + l.depth +
    if l.pipelined then 2 ^ 30 + (l.stages - 1) * 2 ^ 27 + (l.win / 8 - 1) * 2 ^ 24 + l.stagemask.toNat * 2 ^ 16 + l.rb * 2 ^ 10 else 0)

/-- The status word of loop levels (R174). -/
def loopStatus (ls : List Loop) (pend : Bool) : Word :=
  let p := ls.findIdx? (·.pipelined)
  BitVec.ofNat 32 ((if pend then 256 else 0) + (match p with | some n => 32 + 8 * n | none => 0) + ls.length)

/-- A field of a level (R173); an inactive level reads zero. -/
def loopField (ls : List Loop) (pend : Bool) (level field : Nat) : Word :=
  if field = 8 then loopStatus ls pend
  else
    match ls[level]? with
    | none => 0
    | some l =>
      match field with
      | 0 => l.start.extractLsb' 0 32
      | 1 => l.start.extractLsb' 32 32
      | 2 => l.stop.extractLsb' 0 32
      | 3 => l.stop.extractLsb' 32 32
      | 4 => l.count
      | 5 => l.started
      | 6 => l.exitmask
      | _ => l.ctrl

/-- A level with a field written (R174): START, END and DEPTH ignore writes. -/
def Loop.setField (l : Loop) (field : Nat) (mask x : Word) : Loop :=
  match field with
  | 4 => { l with count := x }
  | 5 => { l with started := x }
  | 6 => { l with exitmask := l.exitmask ||| (x &&& mask) }
  | 7 =>
    if l.pipelined then
      { l with stagemask := BitVec.ofNat 8 (x.toNat / 2 ^ 16 % 2 ^ l.stages % 256), rb := x.toNat / 2 ^ 10 % 64 % l.win }
    else l
  | _ => l

/-- The frame saved at the entry to the current handler level (R175); none at LEVEL 0 and in a walker. -/
def Issue.savedFrame (c : Issue) : Option Saved :=
  if c.sp.level = 1 then c.sp.user.saved else if c.sp.level = 2 then c.sp.sup.saved else none

/-- The saved frame of the current handler level changed. -/
def Issue.setSaved (c : Issue) (s : State) (f : Saved → Saved) : State :=
  c.splitDo s fun sp =>
    if c.sp.level = 1 then { sp with user := { sp.user with saved := sp.user.saved.map f } }
    else { sp with sup := { sp.sup with saved := sp.sup.saved.map f } }

/-- SAV, LEVEL and FIELD of R173. -/
def lcSav (e : Enc) : Bool := e.fb 6 1 = 1
def lcLevel (e : Enc) : Nat := e.fb 4 2
def lcField (e : Enc) : Nat := e.fb 0 4

/-- LCGET (R175). -/
def execLcget (e : Enc) (s : State) : Host.Outcome State Fault Refusal :=
  runIsa formLcget e (fun c s =>
    let src : Option (List Loop × Bool) :=
      if lcSav e then c.savedFrame.map fun x => (x.loops, x.pend) else some (c.sp.frame.loops, false)
    match src with
    | none => c.trap s { cause := 0x0B, sub := 0x09 }
    | some (ls, pend) =>
      let v := loopField ls pend (lcLevel e) (lcField e)
      c.leave (c.warpDo s fun w => c.lanes.foldl (fun w i => c.putWords w e.d.toNat i [v]) w)) s

/-- LCSET (R175). -/
def execLcset (e : Enc) (s : State) : Host.Outcome State Fault Refusal :=
  runIsa formLcset e (fun c s =>
    let ls : Option (List Loop) := if lcSav e then c.savedFrame.map (·.loops) else some c.sp.frame.loops
    match ls with
    | none => c.trap s { cause := 0x0B, sub := 0x09 }
    | some ls =>
      if lcField e ≠ 8 ∧ (ls[lcLevel e]?).isNone then c.trap s { cause := 0x0B, sub := 0x09 }
      else
        match c.lanes.head? with
        | none => c.leave s
        | some i =>
          let x := c.rd e.a i
          let upd (ls : List Loop) : List Loop :=
            match ls[lcLevel e]? with
            | some l => if lcField e = 8 then ls else ls.set (lcLevel e) (l.setField (lcField e) c.sp.mask x)
            | none => ls
          if lcSav e then
            c.leave (c.setSaved s fun y =>
              { y with loops := upd y.loops, pend := if lcField e = 8 then x.getLsbD 8 else y.pend })
          else c.leaveLive (c.splitDo s fun sp => { sp with frame := { sp.frame with loops := upd sp.frame.loops } })) s

/-- A hint of IPREF for the line of an address (R176): dropped where it cannot be translated, executed or placed. DESIGN CHOICE: it is
dropped too where a demand fill would meet the owner, REACH or handover checks of 19 R418, which the spec gives to demand fills only
(assumption 114). -/
def State.prefetchLine (s : State) (core ctx : Nat) (user : Bool) (req : Requester) (a : DWord) : State :=
  let fill (pk key : Nat) (leaf : BitVec 64) (pa : Nat) (s : State) : State :=
    let x := s.core core
    if (Tab.get? x.icache pk).isSome || x.fills.any (·.line = key) || 8 ≤ x.fills.length || !x.fillWait.isEmpty
       || (s.fillCheck (dieOf core) leaf pa).isSome then s
    else s.modCore core fun x => { x with fills := x.fills ++ [{ line := key, hint := true, stale := false, before := s.nextId }] }
  if ctx = physCtx then (if physCode a.toNat then fill (a.toNat / 128) (a.toNat / 128) 0x400 a.toNat s else s)
  else if !canonical a then s
  else
    let r := s.lookFetch core ctx a.toNat
    match r.2 with
    | none => r.1.requestMiss (dieOf core) ctx (a.toNat / 4096) true false true user (some { req with line := a.toNat / 128 })
    | some e =>
      let s := r.1
      if !pteBit e.leaf 3 then s
      else
        match s.fetchKey e a.toNat with
        | none => s
        | some pk => fill pk (aliasName ctx a (128 * pk) / 128) e.leaf (e.pa a.toNat) s

/-- IPREF (R176). -/
def execIpref (e : Enc) (s : State) : Host.Outcome State Fault Refusal :=
  runIsa formIpref e (fun c s =>
    if c.em = 0 then c.leave s
    else
      let t := c.offset e.x &&& ~~~(127 : DWord)
      c.leave ((List.range (e.fb 0 3 + 1)).foldl (fun s n =>
        s.prefetchLine c.warp.core c.warp.codeCtx (c.sp.level < 2) { core := c.warp.core, warp := c.w, entry := c.k } (t + BitVec.ofNat 64 (128 * n))) s)) s

end Sys2Proof.Machine
end

