-- ==== Sys2Proof/Machine/Pick.lean ====
section
/-!
DEFINITION. What a partition issues (03 R89 to R92): the unit of an instruction, the first and the second pick of a ck, and the
preparation of a split's issue: the fetch, interlocks, merges at the pick (06 R140).
-/
namespace Sys2Proof.Machine

/-! ### Units and sources -/

/-- The units that an instruction of an opcode may take, as sets of units it holds together, the preferred set first (03 R91). A reserved
opcode takes none. -/
def unitsOf (op : Nat) (uni direct : Bool) : List (List IssueUnit) :=
  if direct && uni then [[.scalar]]
  else if op < 0x060 then [[.pipeB]]
  else if op < 0x068 || (0x078 ≤ op && op < 0x07F) then [[.pipeA], [.pipeB]]
  else if op < 0x070 || op = 0x096 || op = 0x097 then [[.transcendental]]
  else if 0x090 ≤ op && op < 0x09A then [[.fp64, .pipeA]]
  else if 0x0C0 ≤ op && op < 0x0C6 then [[.pipeA]]
  else if 0x0E0 ≤ op && op < 0x0F1 then [[.scalar]]
  else if (0x110 ≤ op && op < 0x11C) || (0x144 ≤ op && op < 0x147) || (0x160 ≤ op && op < 0x16A) then [[.memory]]
  else if (0x140 ≤ op && op < 0x144) || (0x180 ≤ op && op < 0x189) || (0x1A0 ≤ op && op < 0x1AC) then [[.engine]]
  else if op = 0x1C8 || op = 0x1C9 || op = 0x1CA || op = 0x1D1 then [[.memory]]
  else if 0x1C0 ≤ op && op < 0x1D2 then [[.scalar]]
  else [[]]

/-- The units an instruction may take. -/
def formUnits (form : Option (Form × Enc)) : List (List IssueUnit) :=
  match form with
  | some (f, e) => unitsOf f.op e.uni f.direct
  | none => [[]]

/-- The register words an instruction reads, each once (03 R81). -/
def issueReads (w k : Nat) (x : Warp) (sp : Split) (form : Option (Form × Enc)) : List RegName :=
  match form with
  | some (f, e) => (({ w, k, warp := x, sp, e, f, em := sp.live } : Issue).readRegs).eraseDups
  | none => []

/-- Reads of two instructions from one source, by a choice of register words: a word that both name is read once where one warp issues both
(03 R81; assumption 118). -/
def sourceReads (same : Bool) (a b : List RegName) (f : RegName → Bool) : Nat :=
  let x := a.filter f
  let y := b.filter f
  if same then (x ++ y).eraseDups.length else x.length + y.length

/-- The reads of two instructions keep within the limits of one ck: two of each register bank, four of the operand file and of the
group-wide file (03 R80, R81). -/
def readsFit (same : Bool) (a b : List RegName) : Bool :=
  ((List.range 4).all fun n => sourceReads same a b (fun r => match r with | .v k => k % 4 = n | _ => false) ≤ 2) &&
    sourceReads same a b (fun r => match r with | .o _ => true | _ => false) ≤ 4 &&
    sourceReads same a b (fun r => match r with | .g _ => true | _ => false) ≤ 4

/-! ### Picks -/

/-- A split that may be picked: it has a live lane and waits for nothing but what a retry meets (03 R90, R92). -/
def Split.pickable (sp : Split) : Bool :=
  sp.live ≠ 0 && (match sp.wait with | .ready => true | .stall _ => true | _ => false)

/-- Time passes in a step, and never goes back (14 R333; assumption 3). -/
def State.tick (s : State) : State :=
  { s with timer := min (s.timer + Config.stepTime s.free) (2 ^ 64 - 1), free := s.free + 1, cur := none }

/-- The register layer of a warp's quadrant, or its core, has still to wake (24 R488). -/
def State.layerAsleep (s : State) (x : Warp) : Bool := s.asleep (192 + 4 * x.core + x.part / 4) || s.asleep (336 + x.core)

/-- A ready split of a partition is older than an age (03 R90). -/
def State.olderReady (s : State) (core part age : Nat) : Bool :=
  s.warps.any fun y => y.2.core = core && y.2.part = part && y.2.runs && !s.layerAsleep y.2 && y.2.splits.any fun q =>
    q.2.live ≠ 0 && q.2.wait = .ready && q.2.age < age

/-- A split may be the first pick of its partition now: its warp runs, its register layer is awake, and no ready split of its
partition is older (03 R90). -/
def State.mayPick (s : State) (x : Warp) (sp : Split) : Bool :=
  x.runs && sp.pickable && !s.layerAsleep x && !s.olderReady x.core x.part sp.age

/-- The bits of the instruction that a split would issue next, where it has been fetched (03 R89). -/
def State.fetched (s : State) (w k : Nat) (x : Warp) (sp : Split) : Option Bits128 :=
  match (s.fetchAt (fetcherOf w k x sp) sp.pc sp.seq 4096).2 with
  | .instr _ bits => some bits
  | _ => none

/-- A ready split pairs with the first pick (03 R89, R90): another split of the partition, its instruction fetched, no source waiting for
a result that was pending before the ck, the reads of both within the limits of R81, and a unit left for it. -/
def State.pairs (s : State) (u : Picked) (w : Nat) (x : Warp) (k : Nat) (sp : Split) : Bool :=
  x.runs && sp.live ≠ 0 && sp.wait = .ready && !s.layerAsleep x && x.core = u.core && x.part = u.part && !(u.warp = w && u.entry = k) &&
    match s.fetched w k x sp with
    | none => false
    | some bits =>
      let form := s.formOf x (decodeRaw bits)
      let reads := issueReads w k x sp form
      ((formUnits form).any fun us => us.all fun n => !u.units.contains n) && readsFit (u.warp = w) u.reads reads &&
        !x.pend.any fun p => p.id < u.before && p.path.isNone && !p.done && x.feeds s.free p reads sp.live

/-- The second pick of the ck in which the last step's split issued: the oldest split that pairs with it (03 R90). -/
def State.secondPick (s : State) : Option (Nat × Nat) :=
  s.picked.bind fun u =>
    let fit := s.warps.flatMap fun p => (p.2.splits.filter fun q => s.pairs u p.1 p.2 q.1 q.2).map fun q => (q.2.age, p.1, q.1)
    (fit.foldl (fun (m : Option (Nat × Nat × Nat)) q => match m with
      | some b => if q.1 < b.1 then some q else m
      | none => some q) none).map (·.2)

/-- The splits that may be picked, as acts, warp by warp: the oldest ready one of each partition, those that try again what they
stall at; and the second pick of the ck. -/
def State.pickable (s : State) : List Act :=
  (s.warps.flatMap fun p => (p.2.splits.filter fun q => s.mayPick p.2 q.2).map fun q => .issue p.1 q.1)
    ++ (s.secondPick.map fun q => Act.second q.1 q.2).toList

/-! ### The preparation of an issue -/

/-- The interlocked results that an instruction's sources wait for are in their registers (03 R94). -/
def Warp.interlockFor (w : Warp) (free : Nat) (reads : List RegName) (lanes : Word) : Warp :=
  w.interlock fun p => w.feeds free p reads lanes

/-- The issue of a split made ready: its instruction is fetched, and results its sources wait for are applied, which the second pick of a
ck never has. The instruction that then executes, if any, and what the second pick of the ck goes by; g as a second pick reads it. -/
def State.prepare (s : State) (w k : Nat) (g : Option (Store 32)) : State × Option (Instr × Picked) :=
  match s.warp? w with
  | none => (s, none)
  | some x =>
    match x.split? k with
    | none => (s, none)
    | some sp =>
      match s.fetchAt (fetcherOf w k x sp) sp.pc sp.seq 4096 with
      | (s, .trap cause sub pc) => (s.fetchTrap w k sp cause sub pc, none)
      | (s, .stall y pc) => (s.fetchStall w k y pc, none)
      | (s, .instr pc bits) =>
        let i := decodeRaw bits
        let form := s.formOf x i
        let reads := issueReads w k x sp form
        let y := x.modSplit k fun sp => { sp with pc }
        let y := if g.isSome then y else y.interlockFor s.free reads sp.live
        ({ s.modWarp w fun _ => y with cur := some { warp := w, entry := k, g } },
          some (i, { warp := w, entry := k, core := x.core, part := x.part, units := (formUnits form).headD [], reads, g := y.g,
                     before := s.nextId }))

/-- The picked split of a state absorbs the splits it may merge with (06 R140). -/
def State.mergePick (s : State) (w k : Nat) : State :=
  match s.warp? w with
  | none => s
  | some x => (s.modWarp w fun x => x.mergeAtPick k).settleWarp w (s.succAt x.core x.codeCtx)

/-- The split of entry k of a warp stalls at its instruction, which has not issued (03 R89): for anything but a translation (09 R208). -/
def State.heldBack (s : State) (w k : Nat) : Bool :=
  match (s.warp? w).bind fun x => x.split? k with
  | some sp => (match sp.wait with | .stall .xlat => false | .stall _ => true | .ordered _ => true | _ => false)
  | none => false

end Sys2Proof.Machine
end

