-- ==== Sys2Proof/Machine/Agenda.lean ====
section
/-!
DEFINITION. A warp at its start, and a program placed from outside (assumption 21).
-/
namespace Sys2Proof.Machine

/-- The address at which a placed program stands: page 1 of context 0, backed by page 1 of stack 0. -/
def placedAt : Nat := 0x1000

/-- The translation of a placed program: V, X, W, U, ANY-DIE. -/
def placedEntry : TlbEntry :=
  { ctx := 0, vpn := 1, size := 0, leaf := 0x141D, ptepa := 0, a := false, d := false, used := 0 }

/-- A split at kernel entry (06 R133). -/
def Split.start (pc : DWord) (age level : Nat) : Split :=
  { Split.fresh pc 0xFFFFFFFF { depth := 0, rstack := [], loops := [] } { Handler.none with level } age with seq := false }

/-- A warp at its start (06 R133): lane numbers in v0, the g registers given. -/
def Warp.start (wg gang ctx core part slot index vregs accs : Nat) (gidx pc : DWord) (g : Store 32) (age : Nat) (stage : Stage)
    (task : Option Nat) (level : Nat) (callspill : Word) (utvec : DWord) : Warp :=
  { wg, gang, ctx, core, part, slot, index, gangIndex := gidx, vregs, accs, walker := false, halted := false, stopping := false,
    stage, task, recDepth := 0,
    v := ((List.range 32).map fun i => (i, BitVec.ofNat 32 (32 * index + i))).filter fun p => p.2 ≠ 0,
    g, o := [], pv := [], pg := [], po := [], fpstat := 0, fptrap := 0, utvec, usave := 0, ssave := 0, callspill,
    splits := [(0, .start pc age level)], stack := [], pend := [], tbs := [], maps := [], kinds := [], acc := [], bseq := 0,
    openOps := [], closed := [], abandoned := [], frags := [], vout := [], voutDone := false,
    bypass := none }

/-- The part with one warp on core 0 whose only split issues the instruction of given bits next: its page translated, its line in
the instruction cache, its issue at the head of the agenda, and no split of its partition older. -/
def State.placeProgram (s : State) (bits : BitVec 128) : State :=
  let id := s.nextId
  let key := placedAt / 128
  let kernel : Kernel :=
    { entry := BitVec.ofNat 64 placedAt, args := 0, grid := 1, vregs := 256, warps := 1, gang := 1, scratch := 0x200000, accs := 4,
      qcount := 16, grotto := 0, coop := false, die := 0, callspill := 0, handler := 0 }
  let gang : Gang :=
    { source := .launch id, ctx := 0, cls := 0, index := 0, kernel, die := 0, wgs := [id], slot := 0, seq := 0, started := s.timer,
      pages := [], victim := false, victimOf := (0, 0), victimAt := 0, saved := none, copied := false, chunk := none,
      blocking := false, promoted := false }
  let wg : Workgroup :=
    { gang := id, index := 0, core := 0, alloc := 0x200000, firstGranule := 0, sp := [], engine := [], qcount := 16, queues := [],
      warps := [id], placedAt := s.timer }
  let warp := Warp.start id id 0 0 0 0 0 256 4 0 (BitVec.ofNat 64 placedAt) [] 0 .compute none 0 0 0
  { s with
    warps := Tab.set s.warps id warp, wgs := Tab.set s.wgs id wg, gangs := Tab.set s.gangs id gang,
    cores := Tab.set s.cores 0 { s.core 0 with
      itlb := placedEntry :: (s.core 0).itlb,
      icache := Tab.set (s.core 0).icache key ((bits.setWidth 1024) ||| ((Tab.get? (s.core 0).icache key).getD 0 &&& ~~~((BitVec.allOnes 128).setWidth 1024))) },
    agenda := .issue id 0 :: s.agenda, nextId := id + 1 }

end Sys2Proof.Machine
end

