-- ==== Sys2Proof/Machine/Walker.lean ====
section
/-!
DEFINITION. The walker warp and the miss queue (19 R419, R431, R432), the placing of column-class pages (20 R447), the removal and the
harvest of translations (19 R425, R426, R433).
-/
namespace Sys2Proof.Machine

/-! ### Walkers -/

/-- The oldest unclaimed entry of a miss queue that satisfies p. -/
def Die.oldestMiss (d : Die) (p : Miss → Bool) : Option (Nat × Miss) :=
  (d.miss.filter fun m => m.2.claim.isNone && p m.2).foldl (fun b m => match b with
    | some x => if m.2.order < x.2.order then some m else b
    | none => some m) none

/-- The walker slot of a core is free (R419). -/
def State.walkerFree (s : State) (core : Nat) : Bool := !(s.warps.any fun w => w.2.walker && w.2.core = core)

/-- WALKER_START (R419): a walker of a die starts for the oldest unclaimed entry of its miss queue. -/
def execWalkerStart (die : Nat) (s : State) : Host.Outcome State Fault Refusal :=
  .next (
    let free := (List.range 12).filterMap fun k => if s.walkerFree (12 * die + k) then some (12 * die + k) else none
    match (if die < 2 then (s.die die).oldestMiss fun _ => true else none), free with
    | some (_, m), first :: _ =>
      let want := match m.reqs with | r :: _ => r.core | [] => first
      let core := if free.contains want then want else first
      let id := s.nextId
      let wg : Workgroup :=
        { gang := id, index := 0, core, alloc := 0, firstGranule := 0, sp := [], engine := [], qcount := 0, queues := [], warps := [id],
          placedAt := s.timer }
      let warp := { Warp.start id id m.ctx core 15 31 0 8 0 0 (s.ctx m.ctx).walkentry [] id .compute none 2 0 0 with walker := true }
      { s with warps := Tab.set s.warps id warp, wgs := Tab.set s.wgs id wg, nextId := id + 1 }
    | _, _ => s)

/-- WALKPOP (R431). -/
def execWalkpop (e : Enc) (s : State) : Host.Outcome State Fault Refusal :=
  runIsa formWalkpop e (fun c s =>
    if c.em = 0 then c.leave s
    else if !c.warp.walker then c.trap s walkerTrap
    else
      let die := dieOf c.warp.core
      match (s.die die).oldestMiss fun m => m.ctx = c.warp.ctx with
      | none => c.leave (s.endLanes c.w c.warp.lanes false none)
      | some (i, m) =>
        let s : State := s.modDie die fun d => { d with miss := Tab.modify d.miss i fun m => { m with claim := some c.w } }
        let b (x : Bool) (k : Nat) : Nat := if x then 2 ^ k else 0
        let va : DWord := (BitVec.ofNat 64 (m.page * 4096))
        let w0 := half64 va 0 ||| BitVec.ofNat 32 (i + b m.fetch 6 + b m.write 7 + b m.hint 8 + b m.user 9)
        let core := match m.reqs with | r :: _ => r.core | [] => c.warp.core
        c.leave (c.warpDo s fun w => c.putWords w e.d.toNat 0 [w0, half64 va 1, BitVec.ofNat 32 core, 0])) s

/-! ### Resolving a miss -/

/-- An entry resolved by a fill (R418): every requester's core receives the translation, and the lines that hints asked for are fetched now
(07 R176). -/
def State.resolveFill (s : State) (die i : Nat) (t : TlbEntry) : State :=
  match Tab.get? (s.die die).miss i with
  | none => s
  | some m =>
    let s : State := (m.reqs.map (·.core)).eraseDups.foldl (fun s c => if m.fetch then s.fillItlb c t else s.fillL1 c t) s
    let s : State := s.modDie die fun d => { d with miss := Tab.erase d.miss i }
    if m.hint then m.reqs.foldl (fun s r => s.prefetchLine r.core m.ctx m.user r (BitVec.ofNat 64 (128 * r.line))) s else s

/-- An entry resolved as a failure (R418): every requester meets it; hints are dropped without trace. -/
def State.resolveFail (s : State) (die i sub : Nat) : State :=
  match Tab.get? (s.die die).miss i with
  | none => s
  | some m =>
    let f : XFail := { page := m.page, fetch := m.fetch, sub }
    let s : State := (if m.hint then [] else m.reqs).foldl (fun s r => s.modWarp r.warp fun x =>
      if r.entry < 4 then x.modSplit r.entry fun sp => { sp with xfails := sp.xfails ++ [f] }
      else x.modOp (r.entry - 4) fun p => { p with xfails := p.xfails ++ [f] }) s
    s.modDie die fun d => { d with miss := Tab.erase d.miss i }

/-! ### Leaves (R415) -/

/-- A whole page lies in a range of R412 other than the ATS window, outside the holes. -/
def pageOk (frame size : Nat) : Bool :=
  frame % size = 0 &&
    (match placeOf frame, placeOf (frame + size - 1) with
     | .stack n, .stack m => n = m
     | .grotto _, .grotto _ => true
     | .host, .host => true
     | _, _ => false)

/-- A leaf value keeps R415 for a page size code. DESIGN CHOICE (assumption 126): a leaf whose bit [1], which R414 says must be zero, is set is
refused with the rest, though R415's list does not name it and a walk of a unit ignores it. -/
def leafOk (leaf : BitVec 64) (size : Nat) : Bool :=
  let frame := pteFrame leaf
  !pteBit leaf 1 && (size < 2 || pteBit leaf 7) && (2 ≤ size || pteBit leaf 8 == (size == 1)) &&
    (if pteBit leaf 9 then
       size = 0 && !pteBit leaf 56 && (frame = 0 || (match placeOf frame with | .grotto _ => true | _ => false))
     else pageOk frame (sizeBytes size))

/-! ### Column-class pages (R432, 20 R447) -/

/-- Frames that admitted accesses have still to touch: a freed page is not used again before they are performed (23 R486). -/
def State.framesBusy (s : State) : List Nat :=
  s.warps.flatMap fun w => w.2.pend.flatMap fun p => if p.done then [] else p.body.names.map fun r => physOf r.1 / 4096 * 4096

/-- Grotto frames of a core in use: gangs' pages, graphs' tile slots, and pages that accesses have still to touch. -/
def State.grottoUsed (s : State) (core : Nat) : List Nat :=
  let mine (f : Nat) : Bool := placeOf f = .grotto core
  s.framesBusy.filter mine ++ (s.gangs.flatMap fun g => (g.2.pages.map (·.1)).filter mine) ++
    (s.graphs.flatMap fun g => g.2.freeing.flatMap fun f => ((List.range (f.size / 4096)).map fun k => f.frame + 4096 * k).filter mine) ++
    s.graphs.flatMap fun g => g.2.slots.flatMap fun q =>
      match g.2.ress[q.1 / 2 ^ 26]? with
      | some r => ((List.range (r.slot / 4096)).map fun k => q.2.1 + 4096 * k).filter mine
      | none => []

/-- The Grotto reservations of a context on a core, by gangs and by RASTER tasks, less the tasks' tile memory, and the pages placed
in them: in pages. -/
def State.grottoQuota (s : State) (core ctx : Nat) : Nat × Nat :=
  let reserved := (s.core core).grotto.foldl (fun n g =>
    match Tab.get? s.gangs g.1, (Tab.get? s.tasks g.1).bind fun t => (Tab.get? s.graphs t.graph).map fun x => (t, x) with
    | some x, _ => if x.ctx = ctx then n + 128 * g.2 else n
    | none, some (t, x) => if x.ctx = ctx then n + 128 * g.2 - (((t.tm.getLast?.map (·.1 + 1)).getD 0) + 4095) / 4096 else n
    | none, none => n) 0
  let placed := s.gangs.foldl (fun n g =>
    if g.2.ctx = ctx then n + (g.2.pages.filter fun p => placeOf p.1 = .grotto core).length else n) 0
  (reserved, placed)

/-- A free page of a context's reservation on a core. -/
def State.freeGrotto (s : State) (core ctx : Nat) : Option Nat :=
  let q := s.grottoQuota core ctx
  let used := s.grottoUsed core
  let all := ((List.range 2048).map fun k => 0x4000000000000 + core * 2 ^ 23 + 4096 * k).filter fun f => !used.contains f
  if q.1 ≤ q.2 ∨ all.isEmpty then none else all[Config.freePage s.free % all.length]?

/-- The gang that a page placed for a requester belongs to (R432): the requester's own, or where that is no more, as after a hint, one whose
reservation of the context on the core the page lies in. -/
def State.reserver (s : State) (core ctx gang : Nat) : Option Nat :=
  if (Tab.get? s.gangs gang).isSome then some gang
  else (s.gangs.find? fun g => g.2.ctx = ctx && (Tab.get? (s.core core).grotto g.1).isSome).map (·.1)

/-- What TLBFILL comes to: a stall, or a status. -/
inductive FillRes where
  | stall (why : Stall)
  | status (n : Nat)

/-- A translation installed: in the L2 TLB, and by resolving an entry (R432). -/
def State.install (s : State) (die ctx : Nat) (va : DWord) (size : Nat) (leaf : BitVec 64) (ptepa : Nat) (entry : Option Nat) : State :=
  let t : TlbEntry :=
    { ctx, vpn := va.toNat / sizeBytes size * (sizeBytes size / 4096), size, leaf, ptepa, a := false, d := false, used := s.nextId }
  let s : State := (s.fillL2 die t).bump
  match entry with
  | some i => s.resolveFill die i t
  | none => s

/-- An entry unclaimed: it is walked again. -/
def State.unclaim (s : State) (die : Nat) (entry : Option Nat) : State :=
  match entry with
  | some i => s.modDie die fun d => { d with miss := Tab.modify d.miss i fun m => { m with claim := none, stale := false } }
  | none => s

/-- A leaf's placing at its first touch (R432): the gang that the page belongs to, the core it lies on. -/
def State.placePage (s : State) (die ctx core : Nat) (gang : Option Nat) (va : DWord) (leaf : BitVec 64) (ptepa : Nat) (entry : Option Nat) :
    State × FillRes :=
  let failFull (s : State) : State := match entry with | some i => s.resolveFail die i 0x03 | none => s
  match gang, s.freeGrotto core ctx with
  | some g, some frame =>
    let held := s.homeHeld (cellsOf ptepa 8 0)
    if !held.isEmpty then (s.sendSnoops held, .stall .snoop)
    else
      let r := s.readHome ptepa 8 die
      let found := BitVec.ofNat 64 r.2.1
      if found = leaf then
        let new := leaf ||| BitVec.ofNat 64 frame
        let s : State := (r.1.writeHome (cellsOf ptepa 8 new.toNat) die).modGang g fun x => { x with pages := x.pages ++ [(frame, ptepa)] }
        (s.install die ctx va 0 new ptepa entry, .status 0)
      else if pteBit found 0 && pteBit found 9 && pteFrame found ≠ 0 then
        (r.1.install die ctx va 0 found ptepa entry, .status 4)
      else (r.1.unclaim die entry, .status 4)
  | _, _ => (failFull s, .status 2)

/-- TLBFILL's steps (R432). -/
def Issue.fillGo (c : Issue) (s : State) : State × FillRes :=
  let e := c.e
  let die := dieOf c.warp.core
  let act := e.fb 9 2
  let res := e.fb 8 1 = 1
  let i := e.fb 2 6
  let size := e.fb 0 2
  let word (k : Nat) : DWord := c.warp.gPair (e.a.toNat + 2 * k)
  let va := word 0
  let leaf := word 1
  let ptepa := (word 2).toNat
  let m := Tab.get? (s.die die).miss i
  let mine := match m with | some m => m.claim = some c.w | none => false
  let entry : Option Nat := if res then some i else none
  let fail (sub : Nat) : State := if res then s.resolveFail die i sub else s
  if res ∧ !mine then (s, .status 3)
  else if act = 1 ∨ !pteBit leaf 0 then (fail 0x01, .status 1)
  else if act = 2 ∨ !leafOk leaf size then (fail 0x05, .status 1)
  else if res && (match m with | some m => m.stale | none => false) then (s.unclaim die entry, .status 4)
  else if !pteBit leaf 9 && (match placeOf (pteFrame leaf) with | .stack n => s.handoverAt n 3 | _ => false) then (s, .stall .handover)
  else if pteBit leaf 9 && pteFrame leaf = 0 then
    let req := if res then m.bind fun m => m.reqs.head? else none
    let core := match req with | some r => r.core | none => c.warp.core
    let gang : Option Nat :=
      if res then req.bind fun r => s.reserver core c.warp.ctx r.gang
      else if c.warp.walker then none else some c.warp.gang
    s.placePage die c.warp.ctx core gang va leaf ptepa entry
  else (s.install die c.warp.ctx va size leaf ptepa entry, .status 0)

/-- TLBFILL (R432). -/
def execTlbfill (e : Enc) (s : State) : Host.Outcome State Fault Refusal :=
  runIsa formTlbfill e (fun c s =>
    if c.em = 0 then c.leave s
    else match c.fillGo s with
      | (s, .stall y) => c.stall s y
      | (s, .status n) => c.leave (c.warpDo s fun w => c.putWords w e.d.toNat 0 [BitVec.ofNat 32 n])) s

/-! ### Removal and harvest -/

/-- The pages within the scope of TLBINV and DHARV (R433), as a first address and a length. -/
def Issue.invScope (c : Issue) : Option (Nat × Nat) :=
  let va := (c.rd64 c.e.a 0).toNat
  match c.e.fb 0 2 with
  | 0 => some (va, 1)
  | 1 => some (va, 4096 * (c.rd c.e.b 0).toNat)
  | _ => none

/-- An entry lies within a scope. -/
def TlbEntry.inScope (t : TlbEntry) (ctx : Nat) (x : Option (Nat × Nat)) : Bool :=
  t.ctx = ctx && (match x with
    | some (a, n) => 4096 * t.vpn < a + n && a < 4096 * t.vpn + sizeBytes t.size
    | none => true)

/-- A 4 KiB page lies within a scope. -/
def pageInScope (page : Nat) (x : Option (Nat × Nat)) : Bool :=
  match x with
  | some (a, n) => 4096 * page < a + n && a < 4096 * page + 4096
  | none => true

/-- Entries of every TLB harvested where p holds, their own bits cleared (R425). -/
def State.harvestAll (s : State) (p : TlbEntry → Bool) : State :=
  ((s.tlbEntries p).foldl (fun s e => s.harvest e.1 e.2) s).mapTlbs fun l =>
    l.map fun e => if p e then { e with a := false, d := false } else e

/-- TLBINV (R433). -/
def execTlbinv (e : Enc) (s : State) : Host.Outcome State Fault Refusal :=
  runIsa formTlbinv e (fun c s =>
    if c.em = 0 then c.leave s
    else
      let ctx := c.warp.ctx
      match c.sp.wait with
      | .stall (.tlb n) => c.afterRemoval s n
      | _ =>
        let sc := c.invScope
        let s : State := s.removeTlb fun t => t.inScope ctx sc
        let s : State := s.staleMisses fun m => m.ctx = ctx && pageInScope m.page sc
        c.afterRemoval (s.dropFetches ctx) s.nextId) s

/-- DHARV (R433). -/
def execDharv (e : Enc) (s : State) : Host.Outcome State Fault Refusal :=
  runIsa formDharv e (fun c s =>
    if c.em = 0 then c.leave s
    else match c.sp.wait with
      | .stall (.tlb n) => if s.harvesting then c.stall s (.tlb n) else c.leave s
      | _ =>
        let s : State := s.harvestAll fun t => t.inScope c.warp.ctx c.invScope
        if s.harvesting then c.stall s (.tlb s.nextId) else c.leave s) s

/-- HARVEST_INTERVAL (R426, R427): once the interval of a context has passed. -/
def execHarvestInterval (ctx : Nat) (s : State) : Host.Outcome State Fault Refusal :=
  .next (
    let x := s.ctx ctx
    if 32 ≤ ctx ∨ s.timer < x.harvestLast + 100000 * (x.harvest.toNat % 1024) then s
    else (s.harvestAll fun t => t.ctx = ctx).modCtx ctx fun x => { x with harvestLast := s.timer })

end Sys2Proof.Machine
end

