-- ==== Sys2Proof/Machine/Stacks.lean ====
section
/-!
DEFINITION. Ownership of stacks: HANDOVER and its drain (20 R438 to R446), and the definition of token regions (20 R449, R451).
-/
namespace Sys2Proof.Machine

/-- The owner record of a stack (R438). -/
def Owner.word (o : Owner) : Nat := o.owner + (if o.pend then 8 + 16 * o.target else 0) + 2 ^ 32 * o.hseq.toNat

/-- An owner record changed. -/
def State.modOwner (s : State) (n : Nat) (f : Owner → Owner) : State := s.modHome n fun h => { h with owner := f h.owner }

/-- The name of a line or byte lies in a stack. -/
def inStack (n name : Nat) : Bool := placeOf name = .stack n

/-- An access to a stack, admitted by a warp of a die before an operation number, is still to be performed. -/
def State.stackBusy (s : State) (n die before : Nat) : Bool :=
  s.warps.any fun w => dieOf w.2.core = die && w.2.pend.any fun p =>
    !p.done && p.id < before && p.body.names.any fun r => s.stackOf (r.1 / 128) = some n

/-- What the home slice of a stack has in flight (R442 step 5): back-invalidations, atomics between their read and their write, and requests
of units that no handover holds. -/
def State.homeBusy (s : State) (n : Nat) : Bool :=
  (s.snoops.any fun p => s.stackOf p.line = some n && !p.answered) ||
    (s.warps.any fun w => w.2.pend.any fun p => !p.done && (match p.body with
      | .atomic _ _ _ _ _ _ _ taken => taken.any fun t => s.stackOf t.1 = some n
      | _ => false)) ||
    s.homeQ.any fun r => !r.admitted && s.stackOf r.line = some n

/-- A drain begins (R442 step 1; a Flowstone record marks it). -/
def State.startHandover (s : State) (n dst : Nat) (word : Option Nat) (pass : Option (Nat × Nat)) : State :=
  let src := (s.home n).owner.owner
  let s : State := s.logFields (s.stackDie n) 0x190 (0x20 + n) 0xFF [n, dst, (s.home n).owner.hseq.toNat]
  s.modHome n fun h => { h with owner := { h.owner with pend := true, target := dst }, handover := some { step := 1, src, dst, word, pass, before := s.nextId } }

/-- The lines of a die's cores and cluster units homed in a stack written back and dropped (R442 step 2); false while host halves stand
in the way. -/
def State.emptyDie (s : State) (n die : Nat) : State × Bool :=
  let mine (key : Nat) : Bool := match s.stackOf key with | some m => m == n | none => false
  let cores := (List.range 12).map (· + 12 * die)
  let r := cores.foldl (fun (r : State × Bool) c => if r.2 then r.1.cleanColumn c mine else r) (s, true)
  let r := if r.2 then r.1.flushUnits fun cl key => cl / 3 = die && mine key else r
  if r.2 then
    let s : State := r.1
    (cores.foldl (fun s c => s.dropColLines c fun key _ => mine key) s, true)
  else (r.1, false)

/-- Translations of a stack removed everywhere, and every walk under way made stale (R442 step 3). -/
def State.unmapStack (s : State) (n : Nat) : State :=
  let s : State := s.removeTlb fun e => inStack n (pteFrame e.leaf)
  let off (t : Nat × TBase) : Nat × TBase := if inStack n t.2.pbase then (t.1, { t.2 with bound := false }) else t
  let s : State := { s with warps := s.warps.map fun w => (w.1, { w.2 with tbs := w.2.tbs.map off }) }
  s.staleMisses fun m => m.claim.isSome

/-- Tokens whose home is in a stack return home (R442 step 4); false while one is held back. -/
def State.recallStack (s : State) (n : Nat) : State × Bool :=
  (s.regions.filter fun r => inStack n r.2.pbase && r.2.holder.isSome).foldl (fun r g =>
    if r.2 then r.1.passToken g.1 none else r) (s, true)

/-- The lines of a stack in the columns of a die cleaned to their homes; false while host halves stand in the way. -/
def State.cleanDie (s : State) (n die : Nat) : State × Bool :=
  ((List.range 12).map (· + 12 * die)).foldl (fun (r : State × Bool) c =>
    if r.2 then r.1.cleanColumn c fun key => s.stackOf key = some n else r) (s, true)

/-- The word of a completed handover (R442 step 7): a device-scope release (R443), so what the other die has written in the stack goes home
first; false while something stands in its way. -/
def State.handoverWord (s : State) (n : Nat) (h : Handover) : State × Bool :=
  match h.word with
  | none => (s, true)
  | some pa =>
    match s.cleanDie n h.dst with
    | (s, false) => (s, false)
    | (s, true) =>
      let bs := cellsOf pa 8 (s.home n).owner.word
      let held := s.homeHeld bs
      if held.isEmpty then (s.writeHome bs (dieOf h.dst), true) else (s.sendSnoops held, false)

/-- The consumers of a completed handover's pass released (R446). -/
def State.completeHandover (s : State) (h : Handover) : State :=
  match h.pass with
  | some (g, p) => { s with graphs := Tab.modify s.graphs g fun g =>
      { g with passes := g.passes.mapIdx fun i x => if i = p then { x with crossed := true } else x } }
  | none => s

/-- Galena hands the stack of a HANDOVER-after pass to a die (R446, 16 R370): at once where that owns it, or nobody does; behind a handover
of the stack that is under way. -/
def State.passHandover (s : State) (n dst gid k : Nat) : State :=
  let h := s.home n
  if h.handover.isSome then s.modHome n fun h => { h with next := h.next ++ [(dst, gid, k)] }
  else if h.owner.owner = dst ∨ h.owner.owner = 2 ∨ h.failed then
    { s with graphs := Tab.modify s.graphs gid fun g => { g with passes := g.passes.modify k fun p => { p with crossed := true } } }
  else s.startHandover n dst none (some (gid, k))

/-- A handover is over: those of Galena that waited for its end are issued. -/
def State.endHandover (s : State) (n : Nat) : State :=
  let q := (s.home n).next
  q.foldl (fun (s : State) x => s.passHandover n x.1 x.2.1 x.2.2) (s.modHome n fun x => { x with handover := none, next := [] })

/-- HANDOVER_DRAIN (R442): the step in progress ends, where it can, and the next begins. -/
def execHandoverDrain (stack : Nat) (s : State) : Host.Outcome State Fault Refusal :=
  .next (
    match (s.home stack).handover with
    | none => s
    | some h =>
      let step (s : State) (k : Nat) : State := s.modHome stack fun x => { x with handover := some { h with step := k } }
      match h.step with
      | 1 => if s.stackBusy stack h.src h.before then s else step s 2
      | 2 => if h.src = 2 then step s 3 else (match s.emptyDie stack h.src with | (s, true) => step s 3 | (s, false) => s)
      | 3 => step (s.unmapStack stack) 4
      | 4 => (match s.recallStack stack with | (s, true) => step s 5 | (s, false) => s)
      | 5 => if s.homeBusy stack then s else step s 6
      | 6 =>
        step (s.modOwner stack fun o => { hseq := o.hseq + 1, target := 0, pend := false, owner := h.dst }) 7
      | 7 =>
        if (List.range 2).any fun d => s.stackBusy stack d h.before then s
        else
          match s.handoverWord stack h with
          | (s, false) => s
          | (s, true) =>
            let s : State := s.logFields (s.stackDie stack) 0x191 (0x20 + stack) 0xFF [stack, h.dst, (s.home stack).owner.hseq.toNat]
            step (s.completeHandover h) 8
      | _ => s.endHandover stack)

/-- A page of a stack is mapped in an L2 TLB. -/
def State.stackMapped (s : State) (n : Nat) : Bool := s.dies.any fun d => d.2.l2.any fun e => inStack n (pteFrame e.leaf)

/-- HANDOVER's steps once its word is checked (R445). -/
def Issue.handoverGo (c : Issue) (s : State) (n t : Nat) (word : Option Nat) : State :=
  let put (s : State) (v : Nat) : State := c.leave (c.warpDo s fun w => c.putWords w c.e.d.toNat 0 [BitVec.ofNat 32 v])
  let o := (s.home n).owner.owner
  if s.inHandover n then c.stall s .handover
  else if t = o then
    put (match word with | some pa => s.unitWrite (cellsOf pa 8 (s.home n).owner.word) (dieOf c.warp.core) | none => s) 0
  else if o ≠ 2 ∧ o ≠ dieOf c.warp.core then put s 1
  else if t = 2 ∧ s.stackMapped n then put s 2
  else put (s.startHandover n t word none) 0

/-- HANDOVER (R445); of a failed stack it returns status 3 (26 R504). -/
def execHandover (e : Enc) (s : State) : Host.Outcome State Fault Refusal :=
  runIsa formHandover e (fun c s =>
    let put (s : State) (v : Nat) : State := c.leave (c.warpDo s fun w => c.putWords w e.d.toNat 0 [BitVec.ofNat 32 v])
    let a := (c.rd e.a 0).toNat
    let n := a % 8
    let t := a / 16 % 4
    if c.em = 0 then c.leave s
    else if a / 64 ≠ 0 ∨ a / 8 % 2 = 1 ∨ t = 3 ∨ (s.home n).failed then put s 3
    else if e.b = 0x10F then c.handoverGo s n t none
    else
      match s.admission c { size := 8, write := true, store := true, noView := true } (flatReqs [(0, c.rd64 e.b 0)]) with
      | (s, .trap tr) => c.trap s tr
      | (s, .stall y) => c.stall s y
      | (s, .ok lanes _) => c.handoverGo s n t (lanes.head?.map fun l => physOf l.pa)) s

/-! ### Token regions -/

/-- The page that TOKDEF names, through the TLBs, a miss asked for as by an access (R451): leaf and physical address, none without a valid
translation, or nothing yet. -/
def Issue.tokPage (c : Issue) (s : State) (va : DWord) : State × Option (Option (BitVec 64 × Nat)) :=
  if !canonical va then (s, some none)
  else
    match s.lookData c.warp.core c.warp.ctx va.toNat with
    | (s, some e) => (s, some (some (e.leaf, e.pa va.toNat)))
    | (s, none) =>
      if c.sp.xfails.any fun f => !f.fetch && f.page = va.toNat / 4096 then (s, some none)
      else (s.requestMiss (dieOf c.warp.core) c.warp.ctx (va.toNat / 4096) false false false (c.sp.level < 2)
              (some { core := c.warp.core, warp := c.w, entry := c.k }), none)

/-- TOKDEF of a base and k (R451): its status, none while the translation is waited for. -/
def Issue.tokdefGo (c : Issue) (s : State) (va : DWord) (k : Nat) : State × Option Nat :=
  if k < 12 ∨ 30 < k ∨ va.toNat % 2 ^ k ≠ 0 then (s, some 4)
  else
    match c.tokPage s va with
    | (s, none) => (s, none)
    | (s, some none) => (s, some 4)
    | (s, some (some (leaf, pa))) =>
      if pteBit leaf 9 || pteBit leaf 56 || (match placeOf pa with | .stack _ => false | _ => true) then (s, some 4)
      else if s.regions.any fun r => va.toNat < r.2.base.toNat + 2 ^ r.2.k && r.2.base.toNat < va.toNat + 2 ^ k then (s, some 2)
      else
        match (List.range 512).find? fun i => (Tab.get? s.regions i).isNone with
        | none => (s, some 1)
        | some i =>
          let r : Region := { ctx := c.warp.ctx, base := va, pbase := pa, k, holder := none, waiting := [], lastWrite := s.timer }
          ({ s with regions := Tab.set s.regions i r }, some 0)

/-- TOKDEF (R451). -/
def execTokdef (e : Enc) (s : State) : Host.Outcome State Fault Refusal :=
  runIsa formTokdef e (fun c s =>
    if c.em = 0 then c.leave s
    else
      match c.tokdefGo s (c.rd64 e.a 0) (c.rd e.b 0).toNat with
      | (s, none) => c.stall s .xlat
      | (s, some v) => c.leave (c.warpDo s fun w => c.putWords w e.d.toNat 0 [BitVec.ofNat 32 v])) s

/-- A region removed: writes that waited for its token are ordinary from now on. -/
def State.dropRegion (s : State) (r : Nat) : State :=
  { s with regions := Tab.erase s.regions r,
           warps := s.warps.map fun w => (w.1, { w.2 with pend := w.2.pend.map fun p => { p with toks := setDel p.toks [r] } }) }

/-- TOKDEF.del (R451): the token comes home as by a pass, and the split waits for that. -/
def execTokdefDel (e : Enc) (s : State) : Host.Outcome State Fault Refusal :=
  runIsa formTokdefDel e (fun c s =>
    let put (s : State) (v : Nat) : State := c.leave (c.warpDo s fun w => c.putWords w e.d.toNat 0 [BitVec.ofNat 32 v])
    if c.em = 0 then c.leave s
    else
      match s.regions.find? fun r => r.2.base = c.rd64 e.a 0 with
      | none => put s 3
      | some (n, r) =>
        if (match placeOf r.pbase with | .stack k => s.inHandover k | _ => false) then c.stall s .handover
        else match s.passToken n none with
          | (s, false) => c.stall s .drain
          | (s, true) => put (s.dropRegion n) 0) s

end Sys2Proof.Machine
end

