-- ==== Sys2Proof/Machine/Electrum.lean ====
section
/-!
DEFINITION. Electrum regions: their definition, deletion and counters (21 R452, R465 to R467).
-/
namespace Sys2Proof.Machine

/-- The counters' values at definition and after clearing (R465). -/
def ElRegion.cleared (r : ElRegion) : ElRegion := { r with encodes := 0, drift := 0, errmax := 0xFFFFFC01 }

/-- The region that the eight words of a descriptor define (R452). -/
def regionOf (x : List Word) : ElRegion :=
  let q (k : Nat) : Nat := (x.getD k 0).toNat
  let r : ElRegion :=
    { vbase := BitVec.ofNat 64 (q 0 + 2 ^ 32 * q 1), size := q 2 + 2 ^ 32 * q 3, rpa := q 4 + 2 ^ 32 * q 5, bud := q 6 / 16 % 4,
      twoD := q 6 / 64 % 2 = 1, pitch := q 7 % 2 ^ 25, deleting := false, encodes := 0, drift := 0, errmax := 0 }
  r.cleared

/-- Bytes of a region's raw range. -/
def ElRegion.rawSize (r : ElRegion) : Nat := r.size * r.bits / 64

/-- The rules of R452 but for overlap, reserved fields being zero. -/
def regionOk (x : List Word) : Bool :=
  let r := regionOf x
  (x.getD 6 0).toNat / 128 = 0 && (x.getD 7 0).toNat / 2 ^ 25 = 0 &&
    canonical r.vbase && r.vbase.toNat % 4096 = 0 && r.size ≠ 0 && r.size % 4096 = 0 && r.bud ≠ 3 && r.rpa % 64 = 0 &&
    (if r.twoD then r.pitch % 4 = 0 && 4 ≤ r.pitch && r.pitch ≤ 2 ^ 24 && r.size % (32 * r.pitch) = 0 else r.pitch = 0) &&
    (match placeOf r.rpa, placeOf (r.rpa + r.rawSize - 1) with
     | .stack n, .stack m => n = m
     | _, _ => false)

/-- Two runs overlap. -/
def runsMeet (a n b m : Nat) : Bool := a < b + m && b < a + n

/-- The status of a definition (R467). -/
def State.crStatus (s : State) (x : List Word) : Nat :=
  let r := regionOf x
  let id := (x.getD 6 0).toNat % 16
  if (Tab.get? s.electrum id).isSome then 1
  else if !regionOk x then 3
  else if s.electrum.any fun g => runsMeet r.vbase.toNat r.size g.2.vbase.toNat g.2.size || runsMeet r.rpa r.rawSize g.2.rpa g.2.rawSize then 2
  else 0

/-- A status written, and the instruction left. -/
def Issue.crPut (c : Issue) (s : State) (vs : List Nat) : State :=
  c.leave (c.warpDo s fun w => c.putWords w c.e.d.toNat 0 (vs.map (BitVec.ofNat 32)))

/-- CRDEF (R467). -/
def execCrdef (e : Enc) (s : State) : Host.Outcome State Fault Refusal :=
  runIsa formCrdef e (fun c s =>
    if c.em = 0 then c.leave s
    else
      let x := (List.range 8).map fun k => c.warp.gReg (e.a.toNat + k)
      let st := s.crStatus x
      let s : State := if st = 0 then { s with electrum := Tab.set s.electrum ((x.getD 6 0).toNat % 16) (regionOf x) } else s
      c.crPut s [st]) s

/-- The forms that name a region, over it; 3 and 1 without one. -/
def Issue.crForm (c : Issue) (s : State) (k : Nat → ElRegion → State) : State :=
  let id := (c.rd c.e.b 0).toNat
  if c.em = 0 then c.leave s
  else if 15 < id then c.crPut s [3]
  else match Tab.get? s.electrum id with
    | none => c.crPut s [1]
    | some r => k id r

/-- A key of a region's decoded view. -/
def inView (id key : Nat) : Bool := match viewOf key with | some v => v.1 = id | none => false

/-- CRDEF.del (R467): refused while a TLB entry maps the region; else its lines are written back and dropped and the region goes, the
split waiting for acts in flight. -/
def execCrdefDel (e : Enc) (s : State) : Host.Outcome State Fault Refusal :=
  runIsa formCrdefDel e (fun c s =>
    c.crForm s fun id r =>
      let mapped := !(s.tlbEntries fun t => pteBit t.leaf 56 && (t.leaf.toNat >>> 52) % 16 = id).isEmpty
      if !r.deleting && mapped then c.crPut s [4]
      else
        let s : State := { s with electrum := Tab.set s.electrum id { r with deleting := true } }
        let q := (List.range Config.cores).foldl (fun (q : State × Bool) k => if q.2 then q.1.cleanColumn k (inView id) else q) (s, true)
        let q := if q.2 then q.1.flushUnits fun _ key => inView id key else q
        if !q.2 then c.stall q.1 .snoop
        else
          let s : State := (List.range Config.cores).foldl (fun (s : State) k => s.dropColLines k fun key _ => inView id key) q.1
          c.crPut { s with electrum := Tab.erase s.electrum id } [0]) s

/-- ENCODES, DRIFT and ERRMAX as CRDEF.rd returns them. -/
def ElRegion.counters (r : ElRegion) : List Nat :=
  [0, r.encodes.toNat % 2 ^ 32, r.encodes.toNat / 2 ^ 32, r.drift.toNat, r.errmax.toNat]

/-- CRDEF.rd (R467). -/
def execCrdefRd (e : Enc) (s : State) : Host.Outcome State Fault Refusal :=
  runIsa formCrdefRd e (fun c s => c.crForm s fun _ r => c.crPut s r.counters) s

/-- CRDEF.rdclr (R467). -/
def execCrdefRdclr (e : Enc) (s : State) : Host.Outcome State Fault Refusal :=
  runIsa formCrdefRdclr e (fun c s =>
    c.crForm s fun id r => c.crPut { s with electrum := Tab.set s.electrum id r.cleared } r.counters) s

end Sys2Proof.Machine
end

