-- ==== Sys2Proof/Machine/Lane.lean ====
section
/-!
DEFINITION. The lane-movement instructions (04 R106 to R114). Each reads every source before any lane is written.
-/
namespace Sys2Proof.Machine

/-- The lane SHFL reads for lane i, if it lies in the segment (R109). -/
def shflLane (mode w i k : Nat) : Option Nat :=
  let base := i - i % w
  match mode with
  | 0 => some (base + k % w)
  | 1 => if k ≤ i - base then some (i - k) else none
  | 2 => if i + k < base + w then some (i + k) else none
  | _ => some (base + (i - base) ^^^ (k % w))

/-- SHFL (R109). -/
def execShfl (e : Enc) (s : State) : Host.Outcome State Fault Refusal :=
  runIsa formShfl e (fun c s => c.direct s fun i =>
    out1 (match shflLane (e.fb 0 2) (32 >>> e.fb 2 3) i (c.rd e.b i).toNat with
      | some j => if c.em.getLsbD j then c.rd e.a j else c.rd e.a i
      | none => c.rd e.a i)) s

/-- VOTE's one value over the execution mask (R110). -/
def voteValue (mode : Nat) (p m : Word) : Word :=
  match mode with
  | 0 => bit32 (p = m)
  | 1 => bit32 (p ≠ 0)
  | 2 => p
  | _ => bit32 (p = m || p = 0)

/-- VOTE (R110). -/
def execVote (e : Enc) (s : State) : Host.Outcome State Fault Refusal :=
  runIsa formVote e (fun c s =>
    let p := maskOf ((lanesOf c.em).filter fun i => (c.rd e.a i).getLsbD 0)
    let r := voteValue (e.fb 0 2) p c.em
    c.laneResult s (fun _ => [r]) [r] []) s

/-- The lanes whose value equals lane i's (R111). -/
def matchMask (c : Issue) (e : Enc) (i : Nat) : Word :=
  let n := 1 + e.fb 0 1
  maskOf ((lanesOf c.em).filter fun j => c.rdWords e.a j n = c.rdWords e.a i n)

/-- MATCH (R111): with a uniform destination every lane's l0 receives its own mask. -/
def execMatch (e : Enc) (s : State) : Host.Outcome State Fault Refusal :=
  runIsa formMatch e (fun c s => c.laneResult s (fun i => [matchMask c e i]) [matchMask c e c.first] []) s

/-- The identity of a reduction (R112). -/
def redIdentity (op : Nat) (signed : Bool) : Word :=
  match op with
  | 1 => if signed then 0x7FFFFFFF else 0xFFFFFFFF
  | 2 => if signed then 0x80000000 else 0
  | 3 => 0xFFFFFFFF
  | _ => 0

/-- A reduction's operation (R112). -/
def redOp (op : Nat) (signed : Bool) (x y : Word) : Word :=
  match op with
  | 0 => x + y
  | 1 => if readInt signed y < readInt signed x then y else x
  | 2 => if readInt signed x < readInt signed y then y else x
  | 3 => x &&& y
  | 4 => x ||| y
  | _ => x ^^^ y

/-- The running values over lanes in ascending order: lane, exclusive, inclusive (R112). -/
def scanLanes (c : Issue) (e : Enc) : List (Nat × Word × Word) :=
  let f := redOp (e.fb 4 3) (signedType (e.fb 0 4))
  ((lanesOf c.em).foldl (fun (p : Word × List (Nat × Word × Word)) i =>
    let x := f p.1 (c.rd e.a i)
    (x, p.2 ++ [(i, p.1, x)])) (redIdentity (e.fb 4 3) (signedType (e.fb 0 4)), [])).2

/-- The total of a reduction. -/
def redTotal (c : Issue) (e : Enc) : Word :=
  match (scanLanes c e).getLast? with
  | some p => p.2.2
  | none => redIdentity (e.fb 4 3) (signedType (e.fb 0 4))

/-- REDW (R112). -/
def execRedw (e : Enc) (s : State) : Host.Outcome State Fault Refusal :=
  runIsa formRedw e (fun c s => let t := redTotal c e; c.laneResult s (fun _ => [t]) [t] []) s

/-- SCANW (R112). -/
def execScanw (e : Enc) (s : State) : Host.Outcome State Fault Refusal :=
  runIsa formScanw e (fun c s =>
    let l := scanLanes c e
    c.laneResult s
      (fun i => match l.find? (fun p => p.1 = i) with
        | some p => [if e.fb 7 1 = 1 then p.2.1 else p.2.2]
        | none => [0])
      [redTotal c e] []) s

/-- A pair put into a sorted list after every pair that does not follow it (R113: stable). -/
def sortInsert (before : Word → Word → Bool) (l : List (Word × Word)) (x : Word × Word) : List (Word × Word) :=
  match l with
  | [] => [x]
  | y :: t => if before x.1 y.1 then x :: y :: t else y :: sortInsert before t x

/-- The sorted pairs of KSORT (R113). -/
def ksortPairs (c : Issue) (e : Enc) : List (Word × Word) :=
  let signed := signedType (e.fb 0 4)
  let before (x y : Word) : Bool :=
    if e.fb 4 1 = 1 then readInt signed y < readInt signed x else readInt signed x < readInt signed y
  (lanesOf c.em).foldl (fun l i => sortInsert before l (c.rd e.a i, c.rd e.b i)) []

/-- KSORT (R113). -/
def execKsort (e : Enc) (s : State) : Host.Outcome State Fault Refusal :=
  runIsa formKsort e (fun c s =>
    let l := ksortPairs c e
    c.direct s fun i =>
      let p := l.getD ((lanesOf c.em).findIdx (· = i)) (0, 0)
      { words := [p.1, p.2] }) s

/-- VTOG (R114). -/
def execVtog (e : Enc) (s : State) : Host.Outcome State Fault Refusal :=
  runIsa formVtog e (fun c s =>
    let n := 1 + e.fb 1 1
    let lane := if e.fb 0 1 = 1 then (c.rd e.b c.first).toNat % 32 else c.first
    let r := if c.em.getLsbD lane then c.rdWords e.a lane n else List.replicate n 0
    c.laneResult s (fun _ => r) r []) s

end Sys2Proof.Machine
end

