-- ==== Sys2Proof/Machine/Place.lean ====
section
/-!
DEFINITION. Placing gangs (18 R391 to R393): the room that cores have, the choice of cores, partitions and granules, and the state of
a gang's warps as they start (06 R133, R144).
-/
namespace Sys2Proof.Machine

/-! ### Kernels -/

/-- Granules of a workgroup of a kernel (08 R177). -/
def Kernel.granules (k : Kernel) : Nat := (k.scratch + 2047) / 2048 + (k.warps * k.callspill + 2047) / 2048

/-- CALLSPILL of warp w at its start (06 R144). -/
def Kernel.spillWord (k : Kernel) (w : Nat) : Word :=
  let levels := min 256 (k.callspill / 256)
  let area := (k.scratch + 2047) / 2048 * 2048 + 256 * levels * w
  BitVec.ofNat 32 (levels * 2 ^ 23 + area / 256 % 2 ^ 13 * 256)

/-! ### Room -/

/-- What is free on a core: workgroup slots, runs of granules taken, queue entries, Grotto units, warp slots and slices of each
partition, accumulator tiles of each quadrant (R391). -/
structure Room where
  wgs : Nat
  runs : List (Nat × Nat)
  queues : Nat
  grotto : Nat
  parts : List (Nat × Nat)
  accs : List Nat
deriving DecidableEq, Repr

/-- An empty core; the walker keeps a slot and 4 slices of partition 15 (03 R78). -/
def Room.empty : Room :=
  { wgs := 32, runs := [], queues := 16, grotto := 16, parts := List.replicate 15 (32, 2048) ++ [(31, 2044)], accs := [16, 16, 16, 16] }

/-- The lowest start of a free run of n granules. -/
def Room.run? (r : Room) (n : Nat) : Option Nat :=
  if n = 0 then some 0
  else
    let starts := (0 :: r.runs.map fun x => x.1 + x.2).filter fun a =>
      a + n ≤ 1024 && r.runs.all fun x => x.1 + x.2 ≤ a || a + n ≤ x.1
    starts.foldl (fun b a => match b with | some x => some (min x a) | none => some a) none

/-- The partition for one warp: of those it fits the one with the most free slices, the lowest on a tie (R392). -/
def Room.part? (r : Room) (vregs accs : Nat) : Option Nat :=
  ((List.range 16).filter fun p =>
      match r.parts[p]?, r.accs[p / 4]? with
      | some (slots, slices), some a => 0 < slots && vregs / 2 ≤ slices && accs ≤ a
      | _, _ => false).foldl (fun b p =>
    match b with
    | none => some p
    | some q => if ((r.parts[q]?.map (·.2)).getD 0) < ((r.parts[p]?.map (·.2)).getD 0) then some p else some q) none

/-- A warp put on a partition. -/
def Room.put (r : Room) (p vregs accs : Nat) : Room :=
  { r with parts := r.parts.modify p fun x => (x.1 - 1, x.2 - vregs / 2), accs := r.accs.modify (p / 4) (· - accs) }

/-- n warps placed in ascending order: their partitions. -/
def Room.warps (r : Room) (vregs accs n : Nat) : Option (List Nat × Room) :=
  match n with
  | 0 => some ([], r)
  | n + 1 =>
    match r.part? vregs accs with
    | none => none
    | some p => ((r.put p vregs accs).warps vregs accs n).map fun x => (p :: x.1, x.2)

/-- A workgroup put on a core (R391): granules, queue entries, n warps, Grotto units; its first granule, its warps' partitions. -/
def Room.placeWith (r : Room) (grans queues vregs accs n units : Nat) : Option ((Nat × List Nat) × Room) :=
  if r.wgs = 0 ∨ r.queues < queues ∨ r.grotto < units then none
  else
    match r.run? grans, r.warps vregs accs n with
    | some a, some (ps, r') =>
      some ((a, ps), { r' with wgs := r.wgs - 1, queues := r.queues - queues, grotto := r.grotto - units,
                               runs := if grans = 0 then r.runs else (a, grans) :: r.runs })
    | _, _ => none

/-- A workgroup of a kernel placed on a core with `units` of its Grotto (R391). -/
def Room.place (r : Room) (k : Kernel) (units : Nat) : Option ((Nat × List Nat) × Room) :=
  r.placeWith k.granules k.qcount k.vregs k.accs k.warps units

/-- Bytes of a warp's record (R400). -/
def Warp.saveBytes (w : Warp) : Nat :=
  9728 + 128 * w.vregs + (4 * (w.vregs + 8) + 8 + 127) / 128 * 128
    + (if 0 < w.accs ∨ !w.maps.isEmpty then 8576 + 16384 * w.accs else 0)

/-- The warps of a workgroup that have not ended. -/
def State.wgWarps (s : State) (g : Nat) : List (Nat × Warp) := s.warps.filter fun w => w.2.wg = g

/-- Bytes of a workgroup's part of its gang's record (R400). -/
def State.wgBytes (s : State) (g : Nat) : Nat :=
  match Tab.get? s.wgs g with
  | some x => 128 + 2048 + x.alloc + (s.wgWarps g).foldl (fun n w => n + w.2.saveBytes) 0
  | none => 0

/-- Bytes of a gang's record (R400). -/
def State.gangBytes (s : State) (g : Nat) : Nat :=
  match Tab.get? s.gangs g with
  | some x => 128 + x.wgs.foldl (fun n k => n + s.wgBytes k) 0
  | none => 0

/-- A gang occupies its cores: it is not saved, or the cores have not been released yet (R396 step 6). -/
def State.seated (s : State) (g : Nat) : Bool := match Tab.get? s.gangs g with | some x => x.saved.isNone || x.victim | none => false

/-- Slices that a warp holds: those of lane groups with a live lane (03 R78). -/
def Warp.slices (w : Warp) : Nat :=
  ((List.range 4).filter fun q => w.lanes.extractLsb' (8 * q) 8 ≠ 0).length * (w.vregs / 8)

/-- What is free on a core now. -/
def State.room (s : State) (c : Nat) : Room :=
  let wgs := s.wgs.filter fun g => g.2.core = c && s.seated g.2.gang
  let ws := s.warps.filter fun w => w.2.core = c && !w.2.walker && s.seated w.2.gang
  let saved := (s.wgs.filter fun g => g.2.core = c && (match Tab.get? s.gangs g.2.gang with
    | some x => x.saved.isSome && !x.copied | none => false)).foldl (fun n g => n + s.wgBytes g.1) 0
  { wgs := 32 - wgs.length,
    runs := (wgs.filter fun g => 0 < g.2.alloc).map fun g => (g.2.firstGranule, g.2.alloc / 2048),
    queues := wgs.foldl (fun n g => n - g.2.qcount) 16,
    grotto := (s.core c).grotto.foldl (fun n g => n - g.2) (16 - (saved + 0x7FFFF) / 0x80000),
    parts := (List.range 16).map fun p =>
      (ws.filter fun w => w.2.part = p).foldl (fun x w => (x.1 - 1, x.2 - w.2.slices)) (if p = 15 then (31, 2044) else (32, 2048)),
    accs := (List.range 4).map fun q => (ws.filter fun w => w.2.part / 4 = q).foldl (fun n w => n - w.2.accs) 16 }

/-! ### The choice of cores -/

/-- One workgroup's place: core, first granule, partitions of its warps. -/
structure Seat where
  core : Nat
  first : Nat
  parts : List Nat
deriving DecidableEq, Repr

/-- The seats of a gang on some cores in order, each fitting one workgroup: the first `gang` that fit, with the rooms left. -/
def seatsOn (rooms : Tab Room) (cores : List Nat) (k : Kernel) (units : Nat) : Option (List Seat × Tab Room) :=
  let fits := cores.filterMap fun c => (Tab.get? rooms c).bind fun r => (r.place k units).map fun x => (c, x)
  if fits.length < k.gang then none
  else
    let used := fits.take k.gang
    some (used.map fun x => { core := x.1, first := x.2.1.1, parts := x.2.1.2 }, used.foldl (fun m x => Tab.set m x.1 x.2.2) rooms)

/-- A gang placed on a die (R392): the clusters in rotation after the last one, the first with enough fitting cores. -/
def seatsOnDie (rooms : Tab Room) (die : Nat) (last : Option Nat) (k : Kernel) (units : Nat) (ok : Nat → Bool) :
    Option (Nat × List Seat × Tab Room) :=
  let from_ := match last with | some c => c % 3 + 1 | none => 0
  ((List.range 3).map fun i => 3 * die + (from_ + i) % 3).findSome? fun cl =>
    (seatsOn rooms (((List.range 4).map (· + 4 * cl)).filter ok) k units).map fun x => (cl, x.1, x.2)

/-- The rooms of every core of the part. -/
def State.rooms (s : State) : Tab Room := (List.range Config.cores).map fun c => (c, s.room c)

/-- The rooms of an empty part. -/
def emptyRooms : Tab Room := (List.range Config.cores).map fun c => (c, Room.empty)

/-- A workgroup of a kernel cannot be placed on an empty core (16 R346 code 2). -/
def Kernel.unplaceable (k : Kernel) : Bool := (Room.empty.place k k.grotto).isNone

/-- Gangs of a cooperative launch placed in ascending order (R393): each on the die of its DIE field, or on the die with fewer resident
gangs, else the other: for each gang its die and seats. -/
def coopSeats (k : Kernel) (rooms : Tab Room) (l0 l1 : Option Nat) (r0 r1 n : Nat) :
    Option (List (Nat × Nat × List Seat)) :=
  match n with
  | 0 => some []
  | n + 1 =>
    let first := if k.die = 1 then 0 else if k.die = 2 then 1 else if r0 ≤ r1 then 0 else 1
    let dies := if k.die = 0 then [first, 1 - first] else [first]
    match dies.findSome? fun d => (seatsOnDie rooms d (if d = 0 then l0 else l1) k k.grotto fun _ => true).map fun x => (d, x) with
    | none => none
    | some (d, cl, seats, rooms) =>
      (coopSeats k rooms (if d = 0 then some cl else l0) (if d = 1 then some cl else l1)
        (if d = 0 then r0 + 1 else r0) (if d = 1 then r1 + 1 else r1) n).map fun xs => (d, cl, seats) :: xs

/-- The gangs of a cooperative launch cannot all be co-resident on an empty part (R393). -/
def Kernel.coopUnplaceable (k : Kernel) : Bool :=
  768 < k.grid || (coopSeats k emptyRooms none none 0 0 k.grid).isNone

/-- Gangs resident on a die. -/
def State.resident (s : State) (d : Nat) : Nat := (s.gangs.filter fun g => g.2.die = d && g.2.saved.isNone).length

/-- The die with fewer resident gangs, die 0 on a tie (R389). -/
def State.lighterDie (s : State) : Nat := if s.resident 0 ≤ s.resident 1 then 0 else 1

/-! ### Starting a gang -/

/-- What a gang starts with. -/
structure Start where
  kernel : Kernel
  source : GangSource
  ctx : Nat
  cls : Nat
  slot : Nat
  seq : Nat
  die : Nat
  index : DWord
  stage : Stage
  task : Option Nat
  tx : Nat := 0
  ty : Nat := 0
  args : DWord
  g8 : Nat := 0
  g9 : Nat := 0
  recDepth : Nat := 0
  /-- Grotto units reserved on each core. -/
  units : Nat

/-- The lowest free warp slot of a partition. -/
def State.freeSlot (s : State) (core part : Nat) : Nat :=
  ((List.range 32).find? fun n => !(s.warps.any fun w => w.2.core = core && w.2.part = part && w.2.slot = n && s.seated w.2.gang)).getD 0

/-- The g registers of a warp at its start (06 R133). -/
def Start.regs (x : Start) (wg warp : Nat) : Store 32 :=
  let lo (n : Nat) : Word := BitVec.ofNat 32 n
  ([(0, lo warp), (1, lo wg), (2, lo x.index.toNat), (3, lo (x.index.toNat / 2 ^ 32)), (4, lo x.tx), (5, lo x.ty),
    (6, lo x.args.toNat), (7, lo (x.args.toNat / 2 ^ 32)), (8, lo x.g8), (9, lo x.g9)] : Store 32).filter fun p => p.2 ≠ 0

/-- A matrix engine that is off wakes for a warp that takes tiles in its quadrant: one with tiles is never off (24 R487). -/
def State.wakeEngine (s : State) (core part tiles : Nat) : State :=
  let e := 4 * core + part / 4
  if tiles = 0 || Tab.get? s.power e ≠ some 2 then s else { s with power := Tab.erase s.power e }

/-- One workgroup of a gang put in its seat, its scratchpad zero (08 R177), its warps at their start. -/
def State.seatWg (s : State) (x : Start) (gang j : Nat) (seat : Seat) (sp : Memory) : State :=
  let id := s.nextId
  let wg : Workgroup :=
    { gang, index := j, core := seat.core, alloc := 2048 * x.kernel.granules, firstGranule := seat.first, sp, engine := [],
      qcount := x.kernel.qcount, queues := [], warps := (List.range x.kernel.warps).map (· + id + 1), placedAt := s.timer }
  let s : State :=
    ({ s with wgs := Tab.set s.wgs id wg, nextId := id + 1 } : State).reserveGrotto seat.core gang x.units
  let s : State := s.modGang gang fun g => { g with wgs := g.wgs ++ [id] }
  (seat.parts.zip (List.range seat.parts.length)).foldl (fun (s : State) (p : Nat × Nat) =>
    let w := { Warp.start id gang x.ctx seat.core p.1 (s.freeSlot seat.core p.1) p.2 x.kernel.vregs x.kernel.accs x.index x.kernel.entry
                 (x.regs j p.2) s.nextId x.stage x.task 0 (x.kernel.spillWord p.2) x.kernel.handler with recDepth := x.recDepth }
    ({ s with warps := Tab.set s.warps s.nextId w, nextId := s.nextId + 1 } : State).wakeEngine seat.core p.1 x.kernel.accs) s

/-- A device-scope acquire of some cores; false while host halves stand in the way of one. -/
def State.acquireCores (s : State) (cores : List Nat) : State × Bool :=
  cores.foldl (fun r c => if r.2 then r.1.acquireColumn c else r) (s, true)

/-- A gang placed as one act (R392): each core performs a device-scope acquire first; the new gang's number, none while host halves
stand in the way. `sp` is what its scratchpads hold at first. -/
def State.seat (s : State) (x : Start) (seats : List Seat) (sp : Memory := []) : State × Option Nat :=
  match s.acquireCores (seats.map (·.core)) with
  | (s, false) => (s, none)
  | (s, true) =>
    let id := s.nextId
    let gang : Gang :=
      { source := x.source, ctx := x.ctx, cls := x.cls, index := x.index, kernel := x.kernel, die := x.die, wgs := [], slot := x.slot,
        seq := x.seq, started := s.timer, pages := [], victim := false, victimOf := (0, 0), victimAt := 0, saved := none, copied := false, chunk := none,
        blocking := false, promoted := false }
    let s : State := { s with gangs := Tab.set s.gangs id gang, nextId := id + 1 }
    ((seats.zip (List.range seats.length)).foldl (fun (s : State) (p : Seat × Nat) => s.seatWg x id p.2 p.1 sp) s, some id)

/-- A cluster of a die has received a gang. -/
def State.noteCluster (s : State) (die cl : Nat) : State := s.modDie die fun d => { d with lastCluster := some cl }

end Sys2Proof.Machine
end

