-- ==== Sys2Proof/Machine/Stream.lean ====
section
/-!
DEFINITION. Stream slots and their records (16 R340 to R352), and LAUNCH (16 R371).
-/
namespace Sys2Proof.Machine

/-! ### Accesses of the front end and of Galena -/

/-- What an access of a unit that has no warp comes to. -/
inductive UnitAns (α : Type) where
  | wait
  | fault
  /-- An uncorrectable error. -/
  | err
  | ok (v : α)

/-- The words that such a unit's walk for a virtual address reads (assumption 16): none where an L2 TLB maps it. -/
def State.unitWalk (s : State) (ctx : Nat) (va : DWord) : List Nat :=
  if !canonical va || (tlbFind (s.die 0).l2 ctx va.toNat).isSome || (tlbFind (s.die 1).l2 ctx va.toNat).isSome then []
  else s.walkPath va.toNat 4 (s.ctx ctx).ptroot.toNat

/-- The name of a virtual address of a context as such a unit reaches it: its walk reads the tables at their homes (22 R474, 19 R428); no
valid translation, no permission, an unowned or failed stack and unreachable host memory fault; a stack in handover, or asleep, waits (20
R441, 24 R488); one that admits the access records the context (26 R504). -/
def State.frontName (s : State) (ctx : Nat) (va : DWord) (write : Bool) : State × UnitAns Nat :=
  let path := s.unitWalk ctx va
  let way := path.flatMap fun a => s.readHeld a 8
  if !way.isEmpty then (s.sendSnoops way, .wait)
  else
    let s : State := path.foldl (fun (s : State) a => s.sample 0 (a / 128) false) s
    match s.unitPa ctx va with
    | none => (s, .fault)
    | some (leaf, pa) =>
      match (if pteBit leaf 56 then s.viewName leaf va.toNat else some pa) with
      | none => (s, .fault)
      | some name =>
        if write && !pteBit leaf 2 then (s, .fault)
        else
          match s.accessStack leaf pa with
          | some n =>
            if s.inHandover n then (s, .wait)
            else if (s.home n).owner.owner = 2 || (s.home n).failed then (s, .fault)
            else if s.asleep (362 + n) || (s.stackDie n ≠ 0 && s.asleep 370) then (s, .wait)
            else (s.noteAdmitted ctx [n], .ok name)
          | none => (s, if placeOf pa = .host && !s.linkFull then .fault else .ok name)

/-- n bytes within one line read at their home. -/
def State.frontReadAt (s : State) (name n : Nat) : State × UnitAns Nat :=
  if s.isPeer name then (s, .ok (s.peerNat name n))
  else
    let held := s.readHeld name n
    if !held.isEmpty then (s.sendSnoops held, .wait)
    else let r := s.readHome name n; (r.1, if r.2.2 = 0 then .ok r.2.1 else .err)

/-- n bytes within one line at a virtual address of a context. -/
def State.frontRead (s : State) (ctx : Nat) (va : DWord) (n : Nat) : State × UnitAns Nat :=
  match s.frontName ctx va false with
  | (s, .wait) => (s, .wait)
  | (s, .fault) => (s, .fault)
  | (s, .err) => (s, .err)
  | (s, .ok name) => s.frontReadAt name n

/-- Bytes of one line written at their home, or sent to the peer whose they are (22 R480); false while host halves stand in the way. -/
def State.frontPut (s : State) (bs : List (Nat × Byte)) : State × Bool :=
  let mine := bs.filter fun b => !s.isPeer b.1
  let held := s.homeHeld mine
  if held.isEmpty then ((s.toPeers bs).writeHome mine, true) else (s.sendSnoops held, false)

/-- Bytes of a value at an address of a context written, where it has a translation that allows it; false while the write waits. -/
def State.frontStore (s : State) (ctx : Nat) (va : DWord) (n v : Nat) : State × Bool :=
  match s.frontName ctx va true with
  | (s, .wait) => (s, false)
  | (s, .ok name) => s.frontPut (cellsOf name n v)
  | (s, _) => (s, true)

/-! ### Descriptors (R340) -/

/-- n bytes of a 64-byte record at an offset. -/
def recNat (b : BitVec 512) (off n : Nat) : Nat := (b.toNat >>> (8 * off)) % 2 ^ (8 * n)

/-- A descriptor keeps the fields' limits. -/
def descriptorOk (d : BitVec 512) : Bool :=
  recNat d 0 8 % 64 = 0 && (List.range 16).any (fun k => recNat d 8 4 = 2 ^ (k + 1)) && recNat d 12 1 < 32
    && recNat d 13 1 / 8 % 16 = 0 && recNat d 14 1 ≠ 0 && recNat d 15 1 = 0 && recNat d 16 8 % 64 = 0 && recNat d 24 8 % 64 = 0
    && recNat d 32 32 = 0

/-- A context's blocks read at the binding of one of its streams (18 R388, 19 R416); a new PTROOT removes the context's translations. -/
def State.loadContext (s : State) (n : Nat) : State :=
  let o := 0xA00 + 32 * n
  (if (s.ctx n).ptroot = BitVec.ofNat 64 (s.winNat o 8) then s else s.removeCtx n).modCtx n fun x => { x with
    ptroot := BitVec.ofNat 64 (s.winNat o 8), stvec := BitVec.ofNat 64 (s.winNat (o + 8) 8), walkentry := BitVec.ofNat 64 (s.winNat (o + 16) 8),
    harvest := harvestOf (BitVec.ofNat 32 (s.winNat (o + 28) 4)), killed := false }

/-- ENABLE of a slot's descriptor reads 0. -/
def State.clearEnable (s : State) (n : Nat) : State :=
  { s with win := s.win.write (64 * n + 13) (BitVec.ofNat 8 (s.winNat (64 * n + 13) 1 % 128)) }

/-- A slot bound from its descriptor (R340), whose ENABLE stands at 1; it stays as it is while a stack of its addresses is in
handover. -/
def State.bindSlot (s : State) (n : Nat) : State :=
  let d := BitVec.ofNat 512 (s.winNat (64 * n) 64)
  if !descriptorOk d then s.clearEnable n
  else
    let c := recNat d 12 1
    let s : State := s.loadContext c
    if !s.accessesDone c s.nextId then s
    else
    let q := s.frontName c (BitVec.ofNat 64 (recNat d 0 8)) false
    let t := q.1.frontName c (BitVec.ofNat 64 (recNat d 16 8)) false
    let a := t.1.frontName c (BitVec.ofNat 64 (recNat d 24 8)) true
    let s : State := a.1
    match q.2, t.2, a.2 with
    | .ok _, .ok _, .ok area =>
      (match s.frontReadAt area 36 with
       | (s, .ok v) =>
         let done := v % 2 ^ 64
         let slot : Slot :=
           { enabled := true, qbase := BitVec.ofNat 64 (recNat d 0 8), qcap := recNat d 8 4, ctx := c, cls := recNat d 13 1 % 4,
             devappend := recNat d 13 1 / 4 % 2 = 1, weight := recNat d 14 1, tailaddr := BitVec.ofNat 64 (recNat d 16 8),
             doneaddr := BitVec.ofNat 64 (recNat d 24 8), done, fetched := done, tail := done, errseq := v / 2 ^ 128 % 2 ^ 64,
             errtag := BitVec.ofNat 32 (v / 2 ^ 192), errcode := BitVec.ofNat 32 (v / 2 ^ 224), errcount := 0, recs := [] }
         { s with slots := Tab.set s.slots n slot }
       | (s, .wait) => s
       | (s, _) => s.clearEnable n)
    | .fault, _, _ => s.clearEnable n
    | _, .fault, _ => s.clearEnable n
    | _, _, .fault => s.clearEnable n
    | _, _, _ => s

/-- A slot whose ENABLE has risen is bound once its earlier records have completed (R340). -/
def State.tryBind (s : State) (n : Nat) : State :=
  let on := 128 ≤ s.winNat (64 * n + 13) 1 && s.started
  match Tab.get? s.slots n with
  | none => if on && n < 32 then s.bindSlot n else s
  | some x => if on && !x.enabled && x.recs.isEmpty then s.bindSlot n else s

/-- A write of a descriptor (R340): while ENABLE is 1 it has an effect only on ENABLE. -/
def State.writeDescriptor (s : State) (n : Nat) (d : BitVec 512) : State :=
  if 128 ≤ s.winNat (64 * n + 13) 1 then
    if d.getLsbD 111 then s else if (Tab.get? s.slots n).isSome then s.disableSlot n else s.clearEnable n
  else ({ s with win := s.win.writeNat (64 * n) 64 d.toNat } : State).tryBind n

/-- STREAM_DESCRIPTOR_WRITE (R340). -/
def execStreamDescriptorWrite (slot : Nat) (data : BitVec 512) (s : State) : Host.Outcome State Fault Refusal :=
  .next (if slot < 32 then s.writeDescriptor slot data else s)

/-! ### Tail and fetch (R341, R342) -/

/-- A stream stops with an error of its ring (R341, R346 code 8): 0 for no translation, 0x11 for an uncorrectable error. -/
def State.stopStream (s : State) (n seq detail : Nat) : State := ((s.disableSlot n).slotError n seq 0 8 detail 0).writeArea n

/-- Records fetched up to a limit; the second part is false where the stream has stopped or has to wait. -/
def State.fetchRecs (s : State) (n count : Nat) : State × Bool :=
  match count with
  | 0 => (s, true)
  | k + 1 =>
    match Tab.get? s.slots n with
    | none => (s, false)
    | some x =>
      match s.frontRead x.ctx (x.qbase + BitVec.ofNat 64 (64 * (x.fetched % x.qcap))) 64 with
      | (s, .ok v) =>
        (s.modSlot n fun x => { x with fetched := (x.fetched + 1) % 2 ^ 64,
                                       recs := x.recs ++ [{ seq := x.fetched, bytes := BitVec.ofNat 512 v, st := .fetched }] }).fetchRecs n k
      | (s, .wait) => (s, false)
      | (s, .fault) => (s.stopStream n x.fetched 0, false)
      | (s, .err) => (s.stopStream n x.fetched 0x11, false)

/-- The front end fetches what its tail count allows; a tail more than QCAP ahead of DONE is an overrun (R341, code 6). -/
def State.fetchAll (s : State) (n : Nat) : State :=
  match Tab.get? s.slots n with
  | none => s
  | some x =>
    let ahead := (x.tail + 2 ^ 64 - x.done) % 2 ^ 64
    let had := (x.fetched + 2 ^ 64 - x.done) % 2 ^ 64
    let r := s.fetchRecs n (min ahead x.qcap - had)
    let s : State := r.1
    if x.qcap < ahead ∧ r.2 then ((s.disableSlot n).slotError n ((x.done + x.qcap) % 2 ^ 64) 0 6 0 0).writeArea n
    else if min ahead x.qcap = had then s
    else s.writeArea n

/-- TAIL_ADVANCE (R341, R342): the front end sees its tail word, or its own count of a DEVAPPEND stream; a slot whose enabling waited
is bound. -/
def execTailAdvance (slot : Nat) (s : State) : Host.Outcome State Fault Refusal :=
  .next (
    match Tab.get? (s.tryBind slot).slots slot with
    | none => s.tryBind slot
    | some x =>
      let s : State := s.tryBind slot
      if !x.enabled || !s.started then s
      else if x.devappend then s.fetchAll slot
      else
        match s.frontRead x.ctx x.tailaddr 8 with
        | (s, .wait) => s
        | (s, .fault) => s.stopStream slot x.done 0
        | (s, .err) => s.stopStream slot x.done 0x11
        | (s, .ok v) =>
          let d := (v + 2 ^ 64 - x.tail) % 2 ^ 64
          (if d < 2 ^ 63 then s.modSlot slot fun x => { x with tail := v } else s).fetchAll slot)

/-! ### Kernels in records (R347) -/

/-- The values of bytes 8 to 55 of a LAUNCH record or kernel descriptor. -/
def kernelOf (b : BitVec 512) : Kernel :=
  { entry := BitVec.ofNat 64 (recNat b 8 8), args := BitVec.ofNat 64 (recNat b 16 8), grid := recNat b 24 8, vregs := recNat b 32 2,
    warps := recNat b 34 1, gang := recNat b 35 1, scratch := recNat b 36 4, accs := recNat b 40 1, qcount := recNat b 41 1,
    grotto := recNat b 42 1, coop := recNat b 43 1 % 2 = 1, die := recNat b 43 1 / 2 % 4, callspill := recNat b 44 4,
    handler := BitVec.ofNat 64 (recNat b 48 8) }

/-- The limits that a LAUNCH record and a kernel descriptor share. -/
def kernelOk (b : BitVec 512) : Bool :=
  let k := kernelOf b
  k.entry.toNat % 32 = 0 && 8 ≤ k.vregs && k.vregs ≤ 256 && k.vregs % 8 = 0 && 1 ≤ k.warps && k.warps ≤ 32 && 1 ≤ k.gang && k.gang ≤ 4
    && k.scratch ≤ 0x200000 && k.accs ≤ 16 && k.qcount ≤ 16 && k.grotto ≤ 16 && recNat b 43 1 < 8 && k.die ≠ 3 && k.callspill ≤ 65536
    && recNat b 56 8 = 0

/-! ### Starting records (R344 to R352) -/

/-- TYPE, FLAGS and the reserved bytes that every record shares (R345). -/
def recHeadOk (b : BitVec 512) : Bool := 1 ≤ recNat b 0 1 && recNat b 0 1 ≤ 5 && recNat b 1 1 < 4 && recNat b 2 2 = 0

/-- A record's own fields are in range and its reserved bytes zero (R347 to R352). -/
def recBodyOk (b : BitVec 512) : Bool :=
  match recNat b 0 1 with
  | 1 => recNat b 8 8 % 64 = 0 && recNat b 24 40 = 0
  | 2 => kernelOk b && 1 ≤ recNat b 24 8 && recNat b 24 8 ≤ 2 ^ 40
  | 3 => recNat b 8 8 % 8 = 0 && (recNat b 24 1 = 3 || recNat b 24 1 = 4) && recNat b 25 1 ≤ 1 && recNat b 26 38 = 0
  | 4 => recNat b 8 8 % 8 = 0 && (recNat b 32 1 = 3 || recNat b 32 1 = 4) && recNat b 33 1 ≤ 3 && recNat b 36 28 = 0
  | _ => recNat b 8 1 ≤ 3 && [0x03, 0x04, 0x07, 0x13].contains (recNat b 9 1) && recNat b 10 2 = 0 && recNat b 12 4 % 128 = 0
           && recNat b 16 8 % 4096 = 0 && recNat b 24 40 = 0

/-- ADDR of a SIGNAL or WAIT (R349, R350): stack or host memory that the context may write. -/
def State.signalPlace (s : State) (ctx : Nat) (va : DWord) : State × UnitAns Nat :=
  match s.frontName ctx va true with
  | (s, .ok pa) => (s, if s.isPeer pa then .fault else match placeOf pa with | .stack _ => .ok pa | .host => .ok pa | _ => .fault)
  | x => x

/-- A record changed. -/
def State.setRec (s : State) (n seq : Nat) (st : RecState) : State :=
  s.modSlot n fun x => { x with recs := x.recs.map fun r => if r.seq = seq then { r with st } else r }

/-- The write of a SIGNAL (R349): one atomic at its scope, after the release at that scope; it waits for the host and for a stack in
handover. What a device-scope release covers is at its home already, for a record's completion is one; at system scope what the cluster
units hold of host memory goes there too (10 R233). -/
def State.signalDo (s : State) (n ctx : Nat) (r : StreamRec) : State :=
  match s.signalPlace ctx (BitVec.ofNat 64 (recNat r.bytes 8 8)) with
  | (s, .ok pa) =>
    let held := s.homeHeld (cellsOf pa 8 0)
    if !held.isEmpty then (s.sendSnoops held).setRec n r.seq .pendingLoad
    else
      let s : State := if recNat r.bytes 24 1 = 4 then s.flushHosts else s
      let x := (s.holdPort pa).readHome pa 8
      let v := recNat r.bytes 16 8 + (if recNat r.bytes 25 1 = 1 then x.2.1 else 0)
      (x.1.writeHome (cellsOf pa 8 (v % 2 ^ 64))).finishRec n r.seq 0 0 0
  | (s, .wait) => s.setRec n r.seq .pendingLoad
  | (s, _) => s.finishRec n r.seq 1 0 0

/-- A WAIT begins (R350). -/
def State.waitDo (s : State) (n ctx : Nat) (r : StreamRec) : State :=
  match s.signalPlace ctx (BitVec.ofNat 64 (recNat r.bytes 8 8)) with
  | (s, .ok pa) =>
    let t := recNat r.bytes 34 2
    s.setRec n r.seq (.waiting (if t = 0 then none else some (s.timer + 1000 * t)) pa)
  | (s, .wait) => s
  | (s, _) => s.finishRec n r.seq 1 0 0

/-- The head gang of a launch becomes ready (18 R389): it takes a die, but for a cooperative launch with DIE = 0. -/
def State.readyHead (s : State) (id : Nat) : State :=
  let d := s.lighterDie
  { s with launches := Tab.modify s.launches id fun l =>
      { l with headDie := if l.kernel.die = 1 then some 0 else if l.kernel.die = 2 then some 1 else if l.kernel.coop then none else some d,
               since := s.timer, blocking := false, promoted := false } }

/-- A LAUNCH begins (R348), or fails as unplaceable (R346 code 2, 18 R393). -/
def State.launchDo (s : State) (n : Nat) (x : Slot) (r : StreamRec) : State :=
  let k := kernelOf r.bytes
  if k.unplaceable || (k.coop && k.coopUnplaceable) then s.finishRec n r.seq 2 0 0
  else
    let l : Launch :=
      { kernel := k, ctx := x.ctx, cls := x.cls, slot := n, seq := r.seq, next := 0, live := 0, headDie := none,
        since := s.timer, blocking := false, promoted := false, failed := none }
    let s' : State := s.setRec n r.seq .running
    ({ s' with launches := Tab.set s'.launches s'.nextId l, nextId := s'.nextId + 1 } : State).readyHead s.nextId

/-- A FLIP begins (R351, 22 R483): on a head whose ENABLE is 0 it fails. -/
def State.flipDo (s : State) (n ctx : Nat) (r : StreamRec) : State :=
  let h := recNat r.bytes 8 1
  match Tab.get? s.heads h with
  | some x =>
    if x.enabled then
      { s.setRec n r.seq .running with heads := Tab.set s.heads h { x with flips := x.flips ++
          [(n, r.seq, BitVec.ofNat 64 (recNat r.bytes 16 8), recNat r.bytes 12 4, recNat r.bytes 9 1, ctx)] } }
    else s.finishRec n r.seq 1 0 0
  | none => s.finishRec n r.seq 1 0 0

/-- A GRAPH begins (R352): it is loaded next. -/
def State.graphDo (s : State) (n : Nat) (x : Slot) (r : StreamRec) : State :=
  let g : Graph :=
    { slot := n, seq := r.seq, ctx := x.ctx, cls := x.cls, args := BitVec.ofNat 64 (recNat r.bytes 16 8),
      header := BitVec.ofNat 64 (recNat r.bytes 8 8), loaded := false, passes := [], ress := [], edges := [], score := [], slots := [],
      rings := [], spilled := [], failed := none, waits := [], blocking := [], promoted := [] }
  { s.setRec n r.seq .running with graphs := Tab.set s.graphs s.nextId g, nextId := s.nextId + 1 }

/-- The record that may start next (R344): the first that is only fetched; CONC clear asks that it be the oldest. -/
def Slot.startable (x : Slot) : Option StreamRec :=
  match x.recs.find? fun r => r.st = .fetched with
  | some r => if recNat r.bytes 1 1 % 2 = 1 || x.recs.head? = some r then some r else none
  | none => none

/-- A record starts (R344, R345): a bad one fails with code 1; ICINV empties every instruction cache first. -/
def State.startRec (s : State) (n : Nat) (x : Slot) (r : StreamRec) : State :=
  if !(recHeadOk r.bytes && recBodyOk r.bytes) then s.finishRec n r.seq 1 0 0
  else
    let s : State := if recNat r.bytes 1 1 / 2 % 2 = 1 then s.dropCode fun _ => true else s
    match recNat r.bytes 0 1 with
    | 1 => s.graphDo n x r
    | 2 => s.launchDo n x r
    | 3 => s.signalDo n x.ctx r
    | 4 => s.waitDo n x.ctx r
    | _ => s.flipDo n x.ctx r

/-- RECORD_START (R344 to R352); a SIGNAL whose write waits tries again. -/
def execRecordStart (slot : Nat) (s : State) : Host.Outcome State Fault Refusal :=
  .next (match Tab.get? s.slots slot with
    | none => s
    | some x =>
      match (if s.started then x.recs.find? fun r => r.st = .pendingLoad else none) with
      | some r => s.signalDo slot x.ctx r
      | none => match (if s.started then x.startable else none) with | some r => s.startRec slot x r | none => s)

/-! ### Completion -/

/-- Every dirty line of the part cleaned to its home: a device-scope release of what a record's warps wrote (R348, R352); false while
host halves stand in the way. -/
def State.cleanPart (s : State) : State × Bool :=
  (List.range Config.cores).foldl (fun r c => if r.2 then r.1.cleanColumn c fun _ => true else r) (s, true)

/-- LAUNCH_COMPLETE (R348): every gang has retired; A and D bits are harvested (19 R426) and the completion releases. -/
def execLaunchComplete (launch : Nat) (s : State) : Host.Outcome State Fault Refusal :=
  .next (match Tab.get? s.launches launch with
    | none => s
    | some l =>
      if l.next < l.kernel.grid ∨ l.live ≠ 0 then s
      else
        match (s.harvestAll fun t => t.ctx = l.ctx).cleanPart with
        | (s, false) => s
        | (s, true) =>
          let s : State := { s with launches := Tab.erase s.launches launch }
          match l.failed with
          | some d => s.finishRec l.slot l.seq 5 d 0
          | none => s.finishRec l.slot l.seq 0 0 0)

/-- The condition of a WAIT (R350). -/
def waitHolds (b : BitVec 512) (x : Nat) : Bool :=
  let m := x &&& recNat b 24 8
  let v := recNat b 16 8
  match recNat b 33 1 with
  | 0 => m = v
  | 1 => m ≠ v
  | 2 => v ≤ m
  | _ => m < v

/-- The waiting record of a slot. -/
def State.waitingRec (s : State) (n seq : Nat) : Option (StreamRec × Option Nat × Nat) :=
  (Tab.get? s.slots n).bind fun x => x.recs.findSome? fun r =>
    match r.st with | .waiting d pa => if r.seq = seq then some (r, d, pa) else none | _ => none

/-- WAIT_CONDITION_MET (R350): the acquire needs no action of the front end, which caches nothing. A value that cannot be read for an
uncorrectable error fails the record as a faulting ADDR does (assumption 33), and so does one of host memory that the link has ceased to
reach (22 R470; assumption 119). -/
def execWaitConditionMet (slot seq : Nat) (s : State) : Host.Outcome State Fault Refusal :=
  .next (match s.waitingRec slot seq with
    | none => s
    | some (r, d, pa) =>
      let late := match d with | some t => t ≤ s.timer | none => false
      let busy := match placeOf pa with | .stack n => s.inHandover n | _ => false
      if late || busy then s
      else if placeOf pa = .host && !s.linkFull then s.finishRec slot seq 1 0 0
      else match (s.holdPort pa).frontReadAt pa 8 with
        | (s, .ok v) => if waitHolds r.bytes v then s.finishRec slot seq 0 0 0 else s
        | (s, .err) => s.finishRec slot seq 1 0 0
        | (s, _) => s)

/-- WAIT_TIMEOUT (R350): code 7, without an acquire. -/
def execWaitTimeout (slot seq : Nat) (s : State) : Host.Outcome State Fault Refusal :=
  .next (match s.waitingRec slot seq with
    | some (_, some t, _) => if t ≤ s.timer then s.finishRec slot seq 7 0 0 else s
    | _ => s)

/-! ### LAUNCH (R371) -/

/-- The append of a record to a DEVAPPEND stream as one act: a status; none while it waits. -/
def State.appendRecord (s : State) (n : Nat) (x : Slot) (v : Nat) : State × Option Nat :=
  if (x.tail + 2 ^ 64 - x.done) % 2 ^ 64 = x.qcap then (s, some 1)
  else
    match s.frontStore x.ctx (x.qbase + BitVec.ofNat 64 (64 * (x.tail % x.qcap))) 64 v with
    | (s, false) => (s, none)
    | (s, true) =>
      let tail := (x.tail + 1) % 2 ^ 64
      match s.frontStore x.ctx x.tailaddr 8 tail with
      | (s, false) => (s, none)
      | (s, true) => (s.modSlot n fun x => { x with tail }, some 0)

/-- LAUNCH (R371). -/
def execLaunch (e : Enc) (s : State) : Host.Outcome State Fault Refusal :=
  runIsa formLaunch e (fun c s =>
    let put (s : State) (v : Nat) : State := c.leave (c.warpDo s fun w => c.putWords w e.d.toNat 0 [BitVec.ofNat 32 v])
    if c.em = 0 then c.leave s
    else
      match s.admission c { size := 64, write := false } (flatReqs [(0, c.rd64 e.a 0)]) with
      | (s, .trap t) => c.trap s t
      | (s, .stall y) => c.stall s y
      | (s, .ok lanes _) =>
        c.pinning s fun s =>
          c.releasing s 3 fun s =>
            let n := (c.rd e.b 0).toNat
            match (if n < 32 then Tab.get? s.slots n else none) with
            | none => put s 2
            | some x =>
              if !x.enabled || !x.devappend || x.ctx ≠ c.warp.ctx then put s 2
              else
                match s.frontReadAt ((lanes.head?.map (·.pa)).getD 0) 64 with
                | (s, .wait) => c.stall s .snoop
                | (s, .ok v) =>
                  if v % 256 < 2 ∨ 4 < v % 256 then put s 3
                  else (match s.appendRecord n x v with
                    | (s, some st) => put s st
                    | (s, none) => c.stall s .unit)
                | (s, _) => put s 4) s

end Sys2Proof.Machine
end

