-- ==== Sys2Proof/Machine/Graph.lean ====
section
/-!
DEFINITION. Frame graphs (16 R353 to R370): loading and its checks, the scoreboard, tile slots, the readiness of tasks, retirement,
failure and completion.
-/
namespace Sys2Proof.Machine

/-! ### Reading the records of a graph -/

/-- What reading some records comes to; `bad` gives the index of the first that cannot be read. -/
inductive ReadAns (α : Type) where
  | wait
  | bad (index : Nat)
  | ok (v : α)

/-- The value of n chunks of `size` bytes from an address, low first; none where one cannot be read. -/
def State.readChunks (s : State) (ctx : Nat) (va : DWord) (size n : Nat) : State × UnitAns Nat :=
  match n with
  | 0 => (s, .ok 0)
  | n + 1 =>
    match s.frontRead ctx va size with
    | (s, .ok v) =>
      (match s.readChunks ctx (va + BitVec.ofNat 64 size) size n with
       | (s, .ok r) => (s, .ok (v + 2 ^ (8 * size) * r))
       | x => x)
    | x => x

/-- n records of `size` bytes from an address. -/
def State.readArray (s : State) (ctx : Nat) (va : DWord) (size n k : Nat) : State × ReadAns (List Nat) :=
  match n with
  | 0 => (s, .ok [])
  | n + 1 =>
    match s.frontRead ctx va size with
    | (s, .ok v) =>
      (match s.readArray ctx (va + BitVec.ofNat 64 size) size n (k + 1) with
       | (s, .ok r) => (s, .ok (v :: r))
       | x => x)
    | (s, .wait) => (s, .wait)
    | (s, _) => (s, .bad k)

/-! ### The records (R353 to R356, 17 R373 to R375) -/

/-- The header keeps its limits (R353). -/
def headerOk (h : Nat) : Bool :=
  let f := byteField h
  1 ≤ f 0 2 && f 0 2 ≤ 256 && 1 ≤ f 2 2 && f 2 2 ≤ 1024 && f 4 2 ≤ 2048 && f 6 2 = 0 && f 8 8 % 128 = 0 && f 16 8 % 64 = 0
    && f 24 8 % 16 = 0 && (List.range 8).all (fun k => f (32 + k) 1 ≤ 2) && f 40 24 = 0

/-- A pass record keeps its limits (R354); the kinds of its ring and outputs are checked with the resources. -/
def passOk (b nres nedge : Nat) : Bool :=
  let f := byteField b
  let k := f 0 1
  1 ≤ k && k ≤ 5 && f 1 1 ≤ 7 && f 2 1 < 4 && (if k = 4 then 1 ≤ f 3 1 && f 3 1 ≤ 31 else f 3 1 = 0) && f 4 4 = 0
    && f 8 8 % 64 = 0 && (k = 1 || f 8 8 ≠ 0)
    && (if k = 4 then f 16 4 = 0 else 1 ≤ f 16 2 && f 16 2 ≤ 4096 && 1 ≤ f 18 2 && f 18 2 ≤ 4096)
    && 1 ≤ f 20 1 && f 20 1 ≤ 4 && f 21 1 ≤ 8 && f 22 1 ≤ 8 && f 23 1 ≤ 7
    && (List.range (f 21 1)).all (fun i => f (24 + 2 * i) 2 < nedge) && (List.range (f 22 1)).all (fun i => f (40 + 2 * i) 2 < nres)
    && (if k = 1 then f 56 8 % 64 = 0 && f 56 8 ≠ 0 else f 56 8 = 0)
    && (if k = 4 then f 72 2 < nres else f 72 2 = 0) && f 74 54 = 0

/-- The pass of a record, without its kernels and raster state. -/
def passOf (b : Nat) (dies : List Nat) : Pass :=
  let f := byteField b
  { kind := f 0 1, part := f 1 1, handover := f 2 1 % 2 = 1, spill := f 2 1 / 2 % 2 = 1, maxdepth := f 3 1, kernel := none, gx := f 16 2,
    gy := f 18 2, tgangs := f 20 1, ins := (List.range (f 21 1)).map fun i => f (24 + 2 * i) 2,
    outs := (List.range (f 22 1)).map fun i => f (40 + 2 * i) 2, hostack := f 23 1, rstate := f 56 8, args := BitVec.ofNat 64 (f 64 8),
    ring := f 72 2, die := dies.getD (f 1 1) 0, rbytes := [], vkernels := [], fkernels := [], taken := [], retired := [],
    finished := false, crossed := false }

/-- A resource record keeps its limits (R355). -/
def resourceOk (b : Nat) : Bool :=
  let f := byteField b
  let fmt := f 0 1
  (fmt = 0 || (formatOk fmt && !astcFormat fmt)) && f 1 1 < 4
    && (if fmt = 0 then f 2 1 = 0 else f 2 1 = 16 || f 2 1 = 32 || f 2 1 = 64)
    && f 3 1 = 0 && f 4 2 < 16384 && f 6 2 < 16384 && 1 ≤ f 8 4 && f 8 4 ≤ 65536 && f 12 4 = 0 && f 16 8 % 4096 = 0
    && (f 1 1 = 0 || f 16 8 ≠ 0) && f 24 8 % 4096 = 0 && f 32 32 = 0

/-- The resource of a record; its producer is filled in from the passes. -/
def resourceOf (b : Nat) : Resource :=
  let f := byteField b
  { format := f 0 1, stack := f 1 1 % 2 = 1, overflow := f 1 1 / 2 = 1, ts := f 2 1, width := f 4 2 + 1, height := f 6 2 + 1,
    ringcap := f 8 4, backing := BitVec.ofNat 64 (f 16 8), rva := BitVec.ofNat 64 (f 24 8), producer := none }

/-- An edge record keeps its limits (R356). -/
def edgeOk (b nres : Nat) : Bool :=
  let f := byteField b
  f 0 2 < nres && f 2 1 / 16 ≠ 0 && f 2 1 % 16 ≠ 0 && f 3 1 / 16 ≠ 0 && f 3 1 % 16 ≠ 0 && f 8 1 ≤ 1 && f 9 7 = 0

/-- The edge of a record. -/
def edgeOf (b : Nat) : EdgeRec :=
  let f := byteField b
  let i (k : Nat) : Int := (BitVec.ofNat 8 (f k 1)).toInt
  { res := f 0 2, nx := f 2 1 / 16, dx := f 2 1 % 16, ny := f 3 1 / 16, dy := f 3 1 % 16, dx0 := i 4, dx1 := i 5, dy0 := i 6, dy1 := i 7,
    skip := f 8 1 = 1 }

/-- A kernel descriptor keeps its limits (R347): ARGS, GRID and bytes 0 to 7 are zero. -/
def kdescOk (b : Nat) : Bool := kernelOk (BitVec.ofNat 512 b) && byteField b 0 8 = 0 && byteField b 16 16 = 0

/-- An f32 of a finite value at most 16,384 in magnitude, as a rational. -/
def viewportOk (x w : Nat) : Bool :=
  let lim := Q.ofInt 16384
  finite32 x && finite32 w && (val32 x).toQ.abs.le lim && ((val32 x).toQ.add (val32 w).toQ).abs.le lim

/-- Attachment a of a raster state record keeps its limits (17 R374, R386). -/
def attachmentOk (b a : Nat) : Bool :=
  let f (off n : Nat) : Nat := byteField b (128 + 64 * a + off) n
  formatOk (f 0 1) && !astcFormat (f 0 1) && f 1 1 % 4 ≤ 2 && f 1 1 / 4 ≤ 2 && f 2 1 < 32 && f 3 1 = 0
    && f 4 1 % 16 ≤ 9 && f 4 1 / 16 ≤ 9 && f 5 1 % 16 ≤ 9 && f 5 1 / 16 ≤ 9 && f 6 1 % 8 ≤ 4 && f 6 1 / 8 ≤ 4 && f 7 1 = 0 && f 32 32 = 0
    && !(f 2 1 % 2 = 1 && [0x0C, 0x0D, 0x10, 0x11].contains (f 0 1))

/-- A raster state record keeps its limits (17 R373 to R375). -/
def rasterOk (b : Nat) : Bool :=
  let f := byteField b
  let natt := f 2 1
  let ds := f 3 1
  1 ≤ f 0 1 && f 0 1 ≤ 8 && f 1 1 ≤ 3 && natt ≤ 8
    && (ds = 0xFF || (ds < natt && (f (128 + 64 * ds) 1 = 0x10 || f (128 + 64 * ds) 1 = 0x11)))
    && f 4 1 / 2 < 3 && f 5 1 ≤ 31 && f 6 2 = 0 && f 12 4 = 0 && viewportOk (f 16 4) (f 24 4) && viewportOk (f 20 4) (f 28 4)
    && f 40 8 % 4096 = 0 && f 48 4 % 4096 = 0 && 65536 ≤ f 48 4 && f 52 12 = 0 && f 64 1 < 64
    && f 68 1 ≤ 7 && f 69 1 ≤ 7 && f 70 1 ≤ 7 && f 71 1 = 0 && f 77 51 = 0
    && (List.range 8).all (fun a => if a < natt then attachmentOk b a else f (128 + 64 * a) 64 = 0)
    && (List.range 8).all (fun k =>
      let o := 640 + 32 * k
      if k < f 0 1 then
        f o 8 % 64 = 0 && f (o + 8) 8 % 64 = 0 && 1 ≤ f (o + 16) 4 && f (o + 16) 4 ≤ 2 ^ 24 && f (o + 20) 1 < 4 && f (o + 21) 11 = 0
      else f o 32 = 0)

/-! ### Footprints (R356) -/

/-- lo and hi of an axis for a consumer index. -/
def axisRange (n d : Nat) (d0 d1 : Int) (x : Nat) : Int × Int :=
  ((x * n / d : Nat) + d0, (((x + 1) * n - 1) / d : Nat) + d1)

/-- The indices of an axis within p producer tiles. -/
def axisSet (n d : Nat) (d0 d1 : Int) (skip : Bool) (p x : Nat) : List Nat :=
  let r := axisRange n d d0 d1 x
  let all : List Int := (List.range (r.2 - r.1 + 1).toNat).map fun (k : Nat) => r.1 + (k : Int)
  if skip then (all.filter fun i => decide (0 ≤ i ∧ i < (p : Int))).map Int.toNat
  else (all.map fun i => (max 0 (min i ((p : Int) - 1))).toNat).foldl setAdd []

/-- The producer tiles that consumer tile (x, y) reads through an edge. -/
def Graph.footprint (g : Graph) (e : EdgeRec) (x y : Nat) : List Nat :=
  match g.ress[e.res]? with
  | none => []
  | some r =>
    let cols := axisSet e.nx e.dx e.dx0 e.dx1 e.skip r.tx x
    let rows := axisSet e.ny e.dy e.dy0 e.dy1 e.skip r.ty y
    rows.flatMap fun j => cols.map fun i => j * r.tx + i

/-- Tiles of a resource. -/
def Resource.tiles (r : Resource) : Nat := r.tx * r.ty

/-- Consumer tiles of a pass. -/
def Pass.tiles (p : Pass) : Nat := p.gx * p.gy

/-- The footprint of consumer tile c of a pass through an edge index. -/
def Graph.reads (g : Graph) (p : Pass) (edge c : Nat) : List Nat :=
  match g.edges[edge]? with
  | some e => g.footprint e (c % p.gx) (c / p.gx)
  | none => []

/-- The edges of a pass as indices with their resource. -/
def Graph.inputs (g : Graph) (p : Pass) : List (Nat × Nat) := p.ins.filterMap fun e => g.edges[e]?.map fun x => (e, x.res)

/-- The resources that a pass reads: those of its edges, and a RECORD pass's ring. -/
def Graph.sources (g : Graph) (p : Pass) : List Nat := (g.inputs p).map (·.2) ++ (if p.kind = 4 then [p.ring] else [])

/-- Readers of a tile of a resource (R359): pairs of consumer tile and input edge. -/
def Graph.readers (g : Graph) (r t : Nat) : Nat :=
  g.passes.foldl (fun n p =>
    (g.inputs p).foldl (fun n e =>
      if e.2 = r then (List.range p.tiles).foldl (fun n c => if (g.reads p e.1 c).contains t then n + 1 else n) n else n) n) 0

/-- The window of a consuming edge (R361). -/
def Graph.window (g : Graph) (p : Pass) (edge : Nat) : Nat :=
  let fps := (List.range p.tiles).map fun c => g.reads p edge c
  let r := fps.foldl (fun (b : Nat × Nat × List (List Nat)) fp =>
    let tops := fp.foldl max 0
    let h := if fp.isEmpty then b.1 else max b.1 (tops + 1)
    let rest := b.2.2
    let live := (List.range h).filter fun q => rest.any fun f => f.contains q
    (h, max b.2.1 live.length, rest.drop 1)) (0, 0, fps)
  r.2.1

/-- A resource whose tiles take slots: it has a producer and is neither in a stack nor a record ring (R355). -/
def Resource.transient (r : Resource) : Bool := r.producer.isSome && !r.stack && r.format ≠ 0

/-! ### The checks of a load (R357) -/

/-- Detail 1 for what ties records together: rings, and the attachments that a RASTER pass stores into resources (17 R375). -/
def Graph.linkOk (g : Graph) (p : Pass) : Bool :=
  (p.kind ≠ 4 || (match g.ress[p.ring]? with | some r => r.format == 0 | none => false))
    && (p.kind ≠ 1 ||
      ((p.outs.length ≤ p.natt) && (p.outs.zip (List.range p.outs.length)).all fun o =>
        match g.ress[o.1]?, p.outs.head?.bind fun o => g.ress[o]? with
        | some r, some r0 => r.format == p.attFormat o.2 && r.ts == r0.ts && r.tx == p.gx && r.ty == p.gy
        | _, _ => false))

/-- The first index of a list with a property. -/
def firstIdx {β : Type} (l : List β) (p : Nat → β → Bool) : Option Nat := (l.zip (List.range l.length)).findSome? fun x => if p x.2 x.1 then some x.2 else none

/-- Entries of a graph in a die's scoreboard (R359). -/
def Graph.entries (g : Graph) (die : Nat) : Nat :=
  (g.ress.zip (List.range g.ress.length)).foldl (fun n x =>
    let home := match x.1.producer with
      | some p => (g.passes[p]?.map (·.die)).getD 0
      | none => ((g.passes.find? fun p => (g.inputs p).any fun e => e.2 = x.2).map (·.die)).getD 0
    if home = die then n + x.1.tiles else n) 0

/-- Tile memory of a RASTER pass (17 R374). -/
def Graph.tileBytes (g : Graph) (p : Pass) : Nat := abase p (passTs g p) p.natt

/-- The kernels of a pass. -/
def Pass.kernels (p : Pass) : List Kernel := p.kernel.toList ++ p.vkernels ++ p.fkernels

/-- A pass cannot use a kernel of its (R357 detail 8, R367, 17 R375). -/
def Graph.kernelBad (g : Graph) (p : Pass) : Bool :=
  p.kernels.any (·.unplaceable)
    || (p.kind = 4 && p.kernel.any fun k => k.scratch < 2048)
    || (p.kind = 1 &&
      (p.fkernels.any (fun k => k.warps ≠ 1 || k.gang ≠ 1 || k.scratch < 0x200 + 512 * p.rb 5 1)
        || p.kernels.all fun k => k.grotto * 0x80000 < g.tileBytes p))

/-- The checks of R357 from detail 2 on, in order: detail and index of the first failure. -/
def Graph.check (g : Graph) : Option (Nat × Nat) :=
  let producers (r : Nat) : List Nat := (List.range g.passes.length).filter fun q => (g.passes[q]?.map fun p => p.outs.contains r).getD false
  match firstIdx g.passes fun i p => (g.inputs p).any fun e => !(p.kind = 4 && e.2 = p.ring) && (producers e.2).any fun q => i ≤ q with
  | some i => some (2, i)
  | none =>
  match firstIdx g.ress fun r _ => 2 ≤ (producers r).length with
  | some r => some (3, r)
  | none =>
  let cap := firstIdx g.ress fun r x => x.transient && !x.overflow &&
    x.ringcap < g.passes.foldl (fun n p => (g.inputs p).foldl (fun n e => if e.2 = r then n + g.window p e.1 else n) n) 0
  match cap with
  | some r => some (4, r)
  | none =>
  match firstIdx g.passes fun _ p => p.spill && p.outs.any fun o => match g.ress[o]? with | some r => !r.overflow | none => true with
  | some i => some (4, i)
  | none =>
  match firstIdx g.passes fun _ p => (g.sources p).any fun r =>
      match g.ress[r]? with
      | some r => !r.stack && r.producer.any fun q => (g.passes[q]?.map (·.die)).getD 0 ≠ p.die
      | none => false with
  | some i => some (5, i)
  | none =>
  match firstIdx g.edges fun i e => g.passes.any fun p => p.ins.contains i &&
      ((List.range p.gx).any (fun x => let r := axisRange e.nx e.dx e.dx0 e.dx1 x; decide (r.2 < r.1))
        || (List.range p.gy).any fun y => let r := axisRange e.ny e.dy e.dy0 e.dy1 y; decide (r.2 < r.1)) with
  | some i => some (6, i)
  | none =>
  match firstIdx g.ress fun r x => x.producer.isSome && (List.range x.tiles).any fun t => 65535 < g.readers r t with
  | some r => some (7, r)
  | none =>
  if 2 ^ 20 < g.entries 0 ∨ 2 ^ 20 < g.entries 1 then some (7, 0)
  else
  match firstIdx g.passes fun _ p => g.kernelBad p with
  | some i => some (8, i)
  | none => none

/-! ### Loading (R357 to R359) -/

/-- The kernel descriptors at some addresses: none where one cannot be read or breaks its limits. -/
def State.readKernels (s : State) (ctx : Nat) (vas : List Nat) : State × UnitAns (List Kernel) :=
  match vas with
  | [] => (s, .ok [])
  | a :: t =>
    match s.frontRead ctx (BitVec.ofNat 64 a) 64 with
    | (s, .ok v) =>
      if kdescOk v then
        (match s.readKernels ctx t with
         | (s, .ok ks) => (s, .ok (kernelOf (BitVec.ofNat 512 v) :: ks))
         | x => x)
      else (s, .fault)
    | (s, .wait) => (s, .wait)
    | (s, _) => (s, .fault)

/-- The kernels and the raster state of a pass. -/
def State.fillPass (s : State) (ctx b : Nat) (p : Pass) : State × UnitAns Pass :=
  let kd := byteField b 8 8
  match s.readKernels ctx (if kd = 0 then [] else [kd]) with
  | (s, .ok ks) =>
    let p : Pass := { p with kernel := ks.head? }
    if p.kind ≠ 1 then (s, .ok p)
    else
      (match s.readChunks ctx (BitVec.ofNat 64 p.rstate) 64 14 with
       | (s, .ok v) =>
         if !rasterOk v then (s, .fault)
         else
           let n := byteField v 0 1
           let p : Pass := { p with rbytes := Memory.writeNat [] 0 896 v }
           (match s.readKernels ctx ((List.range n).map fun k => byteField v (640 + 32 * k) 8) with
            | (s, .ok vs) =>
              (match s.readKernels ctx ((List.range n).map fun k => byteField v (648 + 32 * k) 8) with
               | (s, .ok fs) => (s, .ok { p with vkernels := vs, fkernels := fs })
               | (s, .wait) => (s, .wait)
               | (s, _) => (s, .fault))
            | (s, .wait) => (s, .wait)
            | (s, _) => (s, .fault))
       | (s, .wait) => (s, .wait)
       | (s, _) => (s, .fault))
  | (s, .wait) => (s, .wait)
  | (s, _) => (s, .fault)

/-- Every pass of an array with its limits kept; `bad` gives the first that fails. -/
def State.readPasses (s : State) (ctx nres nedge : Nat) (dies : List Nat) (bs : List Nat) (k : Nat) : State × ReadAns (List Pass) :=
  match bs with
  | [] => (s, .ok [])
  | b :: t =>
    if !passOk b nres nedge then (s, .bad k)
    else
      match s.fillPass ctx b (passOf b dies) with
      | (s, .ok p) =>
        (match s.readPasses ctx nres nedge dies t (k + 1) with
         | (s, .ok ps) => (s, .ok (p :: ps))
         | x => x)
      | (s, .wait) => (s, .wait)
      | (s, _) => (s, .bad k)

/-- Producers filled in. -/
def Graph.withProducers (g : Graph) : Graph :=
  { g with ress := (g.ress.zip (List.range g.ress.length)).map fun x => { x.1 with producer := firstIdx g.passes fun _ p => p.outs.contains x.2 } }

/-- The key of a tile of a resource. -/
def boardKey (r t : Nat) : Nat := r * 2 ^ 26 + t

/-- The scoreboard of a graph at its load (R359): tiles of an external resource are produced and count no reader. -/
def Graph.board (g : Graph) : Tab Score :=
  (g.ress.zip (List.range g.ress.length)).flatMap fun x => (List.range x.1.tiles).map fun t =>
    (boardKey x.2 t, { produced := x.1.producer.isNone, aborts := 0, remaining := if x.1.producer.isNone then 0 else g.readers x.2 t })

/-- What the load of a graph comes to. -/
inductive LoadAns where
  | wait
  | fail (detail index : Nat)
  | ok (g : Graph)

/-- A graph's records read and checked (R357), its partitions bound to dies (R358). -/
def State.readGraph (s : State) (g : Graph) : State × LoadAns :=
  match s.frontRead g.ctx g.header 64 with
  | (s, .wait) => (s, .wait)
  | (s, .ok h) =>
    let f := byteField h
    let at_ (k : Nat) : DWord := BitVec.ofNat 64 (f k 8)
    let dies := (List.range 8).map fun k => let d := f (32 + k) 1; if d = 0 then s.lighterDie else d - 1
    if !headerOk h then (s, .fail 1 0)
    else
      match s.readArray g.ctx (at_ 8) 128 (f 0 2) 0 with
      | (s, .wait) => (s, .wait)
      | (s, .bad i) => (s, .fail 1 i)
      | (s, .ok pb) =>
      match s.readArray g.ctx (at_ 16) 64 (f 2 2) 0 with
      | (s, .wait) => (s, .wait)
      | (s, .bad i) => (s, .fail 1 i)
      | (s, .ok rb) =>
      match s.readArray g.ctx (at_ 24) 16 (f 4 2) 0 with
      | (s, .wait) => (s, .wait)
      | (s, .bad i) => (s, .fail 1 i)
      | (s, .ok eb) =>
      match s.readPasses g.ctx (f 2 2) (f 4 2) dies pb 0 with
      | (s, .wait) => (s, .wait)
      | (s, .bad i) => (s, .fail 1 i)
      | (s, .ok ps) =>
        match firstIdx rb fun _ b => !resourceOk b, firstIdx eb fun _ b => !edgeOk b (f 2 2) with
        | some i, _ => (s, .fail 1 i)
        | none, some i => (s, .fail 1 i)
        | none, none =>
          let g : Graph := ({ g with passes := ps, ress := rb.map resourceOf, edges := eb.map edgeOf } : Graph).withProducers
          match firstIdx g.passes fun _ p => !g.linkOk p with
          | some i => (s, .fail 1 i)
          | none => match g.check with
            | some x => (s, .fail x.1 x.2)
            | none => (s, .ok g)
  | (s, _) => (s, .fail 1 0)

/-- Scoreboard entries that loaded graphs hold on a die. -/
def State.boardUsed (s : State) (die : Nat) : Nat := s.graphs.foldl (fun n g => if g.2.loaded then n + g.2.entries die else n) 0

/-! ### Tile slots (R355, R361, 23 R486) -/

/-- A tile's pages mapped to a slot from a Grotto frame: valid, writable, user, column class. -/
def State.mapTile (s : State) (ctx : Nat) (r : Resource) (t frame : Nat) : State :=
  (List.range (r.slot / 4096)).foldl (fun s k =>
    s.putPte ctx (r.tileVa t + BitVec.ofNat 64 (4096 * k)) (BitVec.ofNat 64 (0x215 + frame + 4096 * k))) s

/-- A tile's pages mapped to its place in BACKING (R361), with the attributes of the backing's own leaves. -/
def State.mapBacking (s : State) (ctx : Nat) (r : Resource) (t : Nat) : State :=
  (List.range (r.slot / 4096)).foldl (fun s k =>
    let off := BitVec.ofNat 64 (t * r.slot + 4096 * k)
    match s.unitPa ctx (r.backing + off) with
    | some (leaf, pa) => s.putPte ctx (r.rva + off) ((leaf &&& 0xC1D) ||| BitVec.ofNat 64 (pa - pa % 4096))
    | none => s) s

/-- Slots of a resource in use, those still being freed among them. -/
def Graph.slotsUsed (g : Graph) (r : Nat) : Nat :=
  (g.slots.filter fun x => x.1 / 2 ^ 26 = r).length + (g.freeing.filter fun f => f.key / 2 ^ 26 = r).length

/-- The free runs of n pages in the Grotto of a core, as frames. -/
def State.grottoRuns (s : State) (core n : Nat) : List Nat :=
  let used := s.grottoUsed core
  ((List.range (2049 - n)).map fun k => 0x4000000000000 + core * 2 ^ 23 + 4096 * k).filter fun f =>
    (List.range n).all fun j => !used.contains (f + 4096 * j)

/-- The tiles that consumer tile c of a pass writes of a resource: its own, or all of them for a FULL pass. -/
def Graph.outTiles (g : Graph) (p : Pass) (c r : Nat) : List Nat :=
  match g.ress[r]? with
  | none => []
  | some x =>
    if p.kind = 5 then List.range x.tiles
    else
      let tx := c % p.gx
      let ty := c / p.gx
      if tx < x.tx ∧ ty < x.ty then [ty * x.tx + tx] else []

/-- A slot assigned to a tile at its producer's dispatch on a core (R361): from the ring, or from BACKING where the pass spills and
the ring is full. The second part is false where the core's Grotto has no pages for it: the task is not dispatched there (assumption
112). -/
def State.assignSlot (s : State) (gid r t core : Nat) : State × Bool :=
  match (Tab.get? s.graphs gid).bind fun g => g.ress[r]?.map fun x => (g, x) with
  | none => (s, true)
  | some (g, x) =>
    if !x.transient || (Tab.get? g.slots (boardKey r t)).isSome then (s, true)
    else if x.ringcap ≤ g.slotsUsed r then (s.mapBacking g.ctx x t, true)
    else
      let fs := s.grottoRuns core (x.slot / 4096)
      match fs[Config.freePage s.free % fs.length]? with
      | none => (s, false)
      | some f =>
        let s : State := { s with graphs := Tab.modify s.graphs gid fun g => { g with slots := Tab.set g.slots (boardKey r t) (f, core) } }
        (s.mapTile g.ctx x t f, true)

/-- A tile's pages unmapped and their translations removed, as TLBINV.page does it (23 R486, 19 R433). -/
def State.unmapTile (s : State) (ctx : Nat) (r : Resource) (t : Nat) : State :=
  let inside (va : Nat) : Bool := (r.tileVa t).toNat ≤ va && va < (r.tileVa t).toNat + r.slot
  (((s.clearTile ctx r t).removeTlb fun e => e.ctx = ctx && inside (4096 * e.vpn)).staleMisses fun m => m.ctx = ctx && inside (4096 * m.page)).dropFetches ctx

/-- A tile whose readers are all done gives its slot back (R361), once what was admitted to it is performed (23 R486). -/
def State.freeSlotOf (s : State) (gid r t : Nat) : State :=
  match (Tab.get? s.graphs gid).bind fun g => g.ress[r]?.map fun x => (g, x) with
  | none => s
  | some (g, x) =>
    match Tab.get? g.slots (boardKey r t) with
    | none => s
    | some (f, core) =>
      let s : State := s.unmapTile g.ctx x t
      { s with graphs := Tab.modify s.graphs gid fun g =>
          { g with slots := Tab.erase g.slots (boardKey r t),
                   freeing := g.freeing ++ [{ key := boardKey r t, frame := f, size := x.slot, core, before := s.nextId }] } }

/-- A slot's freeing is done: its entries are written, and the harvest and what was admitted under its translations are performed. -/
def State.freed (s : State) (g : Graph) (f : Freeing) : Bool :=
  s.accessesDone g.ctx f.before && (match g.ress[f.key / 2 ^ 26]? with
    | some r => (s.tilePtes g.ctx r (f.key % 2 ^ 26)).all fun a => !s.unitWaits (a / 128)
    | none => true)

/-- The slots of a graph whose freeing is done may be given to other tiles. -/
def State.drainTiles (s : State) (gid : Nat) : State :=
  match Tab.get? s.graphs gid with
  | none => s
  | some g =>
    let t := (g.freeing.filter (s.freed g)).foldl (fun (s : State) f => s.dropBytes f.frame f.size) s
    { t with graphs := Tab.modify s.graphs gid fun g => { g with freeing := g.freeing.filter fun f => !s.freed g f } }

/-! ### Readiness (R360, R370) -/

/-- A tile of a resource is produced. -/
def Graph.produced (g : Graph) (r t : Nat) : Bool := match Tab.get? g.score (boardKey r t) with | some x => x.produced | none => false

/-- The producer of a resource lies on the consumer's die, or its HANDOVER-after has completed (R370). -/
def Graph.reachable (g : Graph) (p : Pass) (r : Nat) : Bool :=
  match g.ress[r]?.bind fun x => x.producer.bind fun q => g.passes[q]? with
  | some q => !(q.handover && q.die ≠ p.die) || q.crossed
  | none => true

/-- What consumer tile c reads is produced. -/
def Graph.inputsReady (g : Graph) (p : Pass) (c : Nat) : Bool :=
  (g.inputs p).all fun e =>
    g.reachable p e.2 &&
      (if p.kind = 5 then (match g.ress[e.2]? with | some x => (List.range x.tiles).all (g.produced e.2) | none => true)
       else (g.reads p e.1 c).all (g.produced e.2))

/-- A slot is free in every ring that the tile's task writes, or the pass spills. -/
def Graph.slotsFree (g : Graph) (p : Pass) (c : Nat) : Bool :=
  p.spill || p.outs.all fun r => match g.ress[r]? with
    | some x => !x.transient || g.slotsUsed r + (g.outTiles p c r).length ≤ x.ringcap
    | none => true

/-- Tasks that a pass has over its grid: one for a FULL pass, none of its own for a RECORD pass. -/
def Pass.taskCount (p : Pass) : Nat := if p.kind = 5 then 1 else if p.kind = 4 then 0 else p.tiles

/-- The task of a tile of a pass is ready and not taken (R360). -/
def Graph.tileReady (g : Graph) (p : Pass) (c : Nat) : Bool := !p.taken.contains c && g.inputsReady p c && g.slotsFree p c

/-- The records that a RECORD pass's next gang takes (R367): up to 32 of equal depth from the head of its ring. -/
def Graph.nextRecs (g : Graph) (p : Pass) : List RingRec :=
  match (Tab.get? g.rings p.ring).getD [] with
  | [] => []
  | r :: t => (r :: t.takeWhile fun x => x.depth = r.depth).take 32

/-! ### Retirement (R363, R366, R369, R370) -/

/-- A pass of a graph changed. -/
def State.modPass (s : State) (gid k : Nat) (f : Pass → Pass) : State :=
  { s with graphs := Tab.modify s.graphs gid fun g => { g with passes := g.passes.modify k f } }

/-- A RECORD pass whose producers have all retired, whose ring is empty and of which no gang runs (R369). -/
def State.recordDone (s : State) (gid : Nat) (g : Graph) (k : Nat) (p : Pass) : Bool :=
  let producers := (g.passes.zip (List.range g.passes.length)).filter fun q => q.2 ≠ k && q.1.outs.contains p.ring
  producers.all (·.1.finished) && ((Tab.get? g.rings p.ring).getD []).isEmpty && !(s.tasks.any fun t => t.2.graph = gid && t.2.pass = k)

/-- Passes that have retired are marked, and hand their stack over. -/
def State.finishPasses (s : State) (gid : Nat) : State :=
  match Tab.get? s.graphs gid with
  | none => s
  | some g =>
    (List.range g.passes.length).foldl (fun (s : State) (k : Nat) =>
      match (Tab.get? s.graphs gid).bind fun g => g.passes[k]?.map fun p => (g, p) with
      | none => s
      | some (g, p) =>
        let done := p.finished || (if p.kind = 4 then s.recordDone gid g k p else p.retired.length = p.taskCount)
        if !done || p.finished then s
        else
          let s : State := s.modPass gid k fun p => { p with finished := true }
          if p.handover then s.passHandover p.hostack (1 - p.die) gid k else s) s

/-- The slots of a graph that is over are freed; the second part is true once that is done. -/
def State.freeSlots (s : State) (gid : Nat) : State × Bool :=
  match Tab.get? s.graphs gid with
  | none => (s, true)
  | some g =>
    let s : State := (g.slots.foldl (fun (s : State) (x : Nat × (Nat × Nat)) => s.freeSlotOf gid (x.1 / 2 ^ 26) (x.1 % 2 ^ 26)) s).drainTiles gid
    (s, match Tab.get? s.graphs gid with | some g => g.freeing.isEmpty | none => true)

/-- A graph leaves the part. -/
def State.dropGraph (s : State) (gid : Nat) : State :=
  { s with graphs := Tab.erase s.graphs gid, rasters := s.rasters.filter fun r => r.2.graph ≠ gid }

/-- Something of a graph runs: a task or a gang that the dispatcher has placed. -/
def State.graphRuns (s : State) (gid : Nat) : Bool := s.tasks.any fun t => t.2.graph = gid && t.2.st ≠ 0

/-- A graph completes when every pass has retired, or when it has failed and nothing of it runs (R352, R368): the part's dirty lines
are cleaned, which is the completion's release. -/
def State.settleGraph (s : State) (gid : Nat) : State :=
  match Tab.get? (s.finishPasses gid).graphs gid with
  | none => s
  | some g =>
    let s : State := s.finishPasses gid
    let over_ := g.loaded && (match g.failed with
      | some _ => !s.graphRuns gid
      | none => g.passes.all (·.finished))
    if !over_ then s
    else
      match s.freeSlots gid with
      | (s, false) => s
      | (s, true) =>
      match (s.harvestAll fun t => t.ctx = g.ctx).cleanPart with
      | (s, false) => s
      | (s, true) =>
        let ts := (s.tasks.filter fun t => t.2.graph = gid).map (·.1)
        let s : State := (ts.foldl State.dropTask s).dropGraph gid
        match g.failed with
        | some d => s.finishRec g.slot g.seq d.1 d.2 0
        | none => s.finishRec g.slot g.seq 0 0 0

/-- The raster states of a graph's RASTER passes as they begin. -/
def State.startRasters (s : State) (gid : Nat) (g : Graph) : State :=
  (List.range g.passes.length).foldl (fun (s : State) (k : Nat) =>
    match g.passes[k]? with
    | some p =>
      if p.kind = 1 then
        let r : RasterPass := { graph := gid, pass := k, sub := 0, batches := [], nextBatch := 0, accepted := 0, prims := [], binned := 0, flushing := false, flushed := 0,
                                vnext := 0 }
        { s with rasters := Tab.set s.rasters (gid * 256 + k) r }
      else s
    | none => s) s

/-- Tiles of a pass's outputs produced (R363 step 3). -/
def State.markProduced (s : State) (gid : Nat) (p : Pass) (c : Nat) : State :=
  { s with graphs := Tab.modify s.graphs gid fun g =>
      { g with score := p.outs.foldl (fun m r => (g.outTiles p c r).foldl (fun m t => Tab.modify m (boardKey r t) fun x => { x with produced := true }) m) g.score } }

/-- One reader of a tile is done (R363 step 4); with the last its slot is freed. -/
def State.dropReader (s : State) (gid r t : Nat) : State :=
  match (Tab.get? s.graphs gid).bind fun g => Tab.get? g.score (boardKey r t) with
  | none => s
  | some x =>
    let s : State := { s with graphs := Tab.modify s.graphs gid fun g => { g with score := Tab.set g.score (boardKey r t) { x with remaining := x.remaining - 1 } } }
    if x.remaining = 1 then s.freeSlotOf gid r t else s

/-- What the retirement of consumer tile c of a pass does to the scoreboard (R363 steps 3 and 4, R361). -/
def State.retireTile (s : State) (gid k : Nat) (p : Pass) (c : Nat) : State :=
  match Tab.get? s.graphs gid with
  | none => s
  | some g =>
    let s : State := s.markProduced gid p c
    let cs := if p.kind = 5 then List.range p.tiles else [c]
    let s : State := cs.foldl (fun (s : State) (c : Nat) => (g.inputs p).foldl (fun (s : State) (e : Nat × Nat) =>
      match g.ress[e.2]? with
      | some x => if x.producer.isSome then (g.reads p e.1 c).foldl (fun s t => s.dropReader gid e.2 t) s else s
      | none => s) s) s
    let s : State := p.outs.foldl (fun (s : State) (r : Nat) => (g.outTiles p c r).foldl (fun (s : State) (t : Nat) =>
      match (Tab.get? s.graphs gid).bind fun g => Tab.get? g.score (boardKey r t) with
      | some x => if x.remaining = 0 then s.freeSlotOf gid r t else s
      | none => s) s) s
    s.modPass gid k fun p => { p with retired := setAdd p.retired c }

/-- A task's commit, a device-scope release (R363 step 2, R366, 10 R233): the part's dirty lines are cleaned, and its uncommitted lines,
where it is not pinned, go to their homes; false while something stands in the way or lines are left. -/
def State.commitOf (s : State) (t : Nat) (x : Task) : State × Bool :=
  match s.cleanPart with
  | (s, false) => (s, false)
  | (s, true) => if x.pinned then (s, true) else s.commitTask t

end Sys2Proof.Machine
end

