-- ==== Sys2Proof/Machine/TileStore.lean ====
section
/-!
DEFINITION. What the raster back end does to tile memory at the start and the end of a tile's task: the load of attachments and their
store (17 R385 steps 1 and 4).
-/
namespace Sys2Proof.Machine

/-- Where an attachment of a tile is loaded from and stored to: its resource's tile, or an image at the tile's place. -/
inductive TilePlace where
  | tile (va : DWord)
  | image (i : Image) (x0 y0 : Nat)
deriving DecidableEq, Repr

/-- The place of attachment a for a tile (17 R374, R375): none outside the resource. -/
def State.tilePlace (s : State) (g : Graph) (p : Pass) (tile a : Nat) : State × UnitAns (Option TilePlace) :=
  let tx := tile % p.gx
  let ty := tile / p.gx
  match p.outs[a]? with
  | some o =>
    (s, .ok ((g.ress[o]?).bind fun r => if tx < r.tx ∧ ty < r.ty then some (.tile (r.tileVa (ty * r.tx + tx))) else none))
  | none =>
    match s.frontRead g.ctx (BitVec.ofNat 64 (p.att a 8 8)) 64 with
    | (s, .ok v) =>
      let i := imageOf v
      if i.bad || i.dim ≠ 0 || astcFormat i.format then (s, .fault)
      else (s, .ok (some (.image i (tx * passTs g p) (ty * passTs g p))))
    | (s, .wait) => (s, .wait)
    | (s, .fault) => (s, .fault)
    | (s, .err) => (s, .err)

/-- The address and the format of a tile's pixel; none outside the image. -/
def TilePlace.pixel (q : TilePlace) (ts format x y : Nat) : Option (DWord × Nat) :=
  match q with
  | .tile va => some (va + BitVec.ofNat 64 ((y * ts + x) * formatBytes format), format)
  | .image i x0 y0 => if x0 + x < i.w ∧ y0 + y < i.h then some (i.at 0 (x0 + x) (y0 + y) 0, i.format) else none

/-- An element of one format as one of another: its bits where they agree. -/
def recode (src dst raw : Nat) : Nat := if src = dst then raw else pixelEncode dst 0 (pixelDecode src raw) 15

/-- The pixels of a tile. -/
def tilePixels (ts : Nat) : List (Nat × Nat) := (List.range ts).flatMap fun y => (List.range ts).map fun x => (x, y)

/-- The element that LOADOP 0 clears an attachment to. -/
def Pass.clearRaw (p : Pass) (a : Nat) : Nat :=
  let f := p.attFormat a
  if p.dsatt = some a then
    (if f = 0x10 then p.rb 72 4 else unormEncode 24 (p.rb 72 4) + 2 ^ 24 * p.rb 76 1)
  else if intFormat f then p.att a 16 4
  else pixelEncode f 0 ((List.range 4).map fun k => p.att a (16 + 4 * k) 4) 15

/-- Every sample of a pixel set to an element. -/
def Pass.fillPixel (p : Pass) (ts a x y raw : Nat) (m : Memory) : Memory :=
  (List.range p.samples).foldl (fun m k => m.writeAll (cellsOf (sampleOff p ts a x y k) (p.esize a) raw)) m

/-- One attachment of a tile loaded (R385 step 1). -/
def State.loadAtt (s : State) (g : Graph) (p : Pass) (tile a : Nat) (m : Memory) : State × UnitAns Memory :=
  let ts := passTs g p
  let f := p.attFormat a
  match p.att a 1 1 % 4 with
  | 0 => (s, .ok ((tilePixels ts).foldl (fun m q => p.fillPixel ts a q.1 q.2 (p.clearRaw a) m) m))
  | 1 =>
    (match s.tilePlace g p tile a with
     | (s, .ok (some pl)) =>
       (tilePixels ts).foldl (fun (r : State × UnitAns Memory) q =>
         match r with
         | (s, .ok m) =>
           (match pl.pixel ts f q.1 q.2 with
            | none => (s, .ok (p.fillPixel ts a q.1 q.2 0 m))
            | some (va, src) =>
              (match s.frontRead g.ctx va (formatBytes src) with
               | (s, .ok v) => (s, .ok (p.fillPixel ts a q.1 q.2 (recode src f v) m))
               | (s, .wait) => (s, .wait)
               | (s, .fault) => (s, .fault)
               | (s, .err) => (s, .err)))
         | r => r) (s, .ok m)
     | (s, .ok none) => (s, .ok m)
     | (s, .wait) => (s, .wait)
     | (s, .fault) => (s, .fault)
     | (s, .err) => (s, .err))
  | _ => (s, .ok m)

/-- Every attachment of a tile loaded; what it holds otherwise reads zero. -/
def State.loadTile (s : State) (g : Graph) (p : Pass) (tile : Nat) : State × UnitAns Memory :=
  (List.range p.natt).foldl (fun (r : State × UnitAns Memory) a =>
    match r with
    | (s, .ok m) => s.loadAtt g p tile a m
    | r => r) (s, .ok [])

/-- The element that a pixel's samples are stored as (R385 step 4); `old` is the stored element, `free` picks one sample where each is
stored as it stands (assumption 36). -/
def Pass.storeRaw (p : Pass) (ts a x y dst old free : Nat) (m : Memory) : Nat :=
  let f := p.attFormat a
  let raws := (List.range p.samples).map fun k => m.readNat (sampleOff p ts a x y k) (p.esize a)
  if p.att a 1 1 / 4 = 2 then
    let vs := raws.map (pixelDecode f)
    let w : Q := { n := 1, d := p.samples }
    let chan (k : Nat) : Nat :=
      if intFormat f then
        let xs : List Int := vs.map fun v => if f = 0x0D then (BitVec.ofNat 32 (v.getD k 0)).toInt else (v.getD k 0 : Int)
        (BitVec.ofInt 32 ({ n := xs.foldl (· + ·) 0, d := p.samples } : Q).rne).toNat
      else weighted (vs.map fun v => (w, v.getD k 0))
    pixelEncode dst old ((List.range 4).map chan) 15
  else recode f dst (raws.getD (if p.samples = 1 then 0 else Config.storedSample free % p.samples) 0)

/-- One attachment of a tile stored; an answer that is not ok stops it. -/
def State.storeAtt (s : State) (g : Graph) (p : Pass) (tile a : Nat) (m : Memory) : State × UnitAns Unit :=
  let ts := passTs g p
  let f := p.attFormat a
  if p.att a 1 1 / 4 % 4 = 0 then (s, .ok ())
  else
    match s.tilePlace g p tile a with
    | (s, .ok (some pl)) =>
      (tilePixels ts).foldl (fun (r : State × UnitAns Unit) q =>
        match r with
        | (s, .ok _) =>
          (match pl.pixel ts f q.1 q.2 with
           | none => (s, .ok ())
           | some (va, dst) =>
             let n := formatBytes dst
             (match s.frontName g.ctx va true with
              | (s, .ok name) =>
                (match s.frontReadAt name n with
                 | (s, .ok old) =>
                   (match s.frontPut (cellsOf name n (p.storeRaw ts a q.1 q.2 dst old s.free m)) with
                    | (s, true) => (s, .ok ())
                    | (s, false) => (s, .wait))
                 | (s, .wait) => (s, .wait)
                 | (s, _) => (s, .err))
              | (s, .wait) => (s, .wait)
              | (s, _) => (s, .fault)))
        | r => r) (s, .ok ())
    | (s, .ok none) => (s, .ok ())
    | (s, .wait) => (s, .wait)
    | (s, .fault) => (s, .fault)
    | (s, .err) => (s, .err)

/-- Every attachment of a tile stored. -/
def State.storeTile (s : State) (g : Graph) (p : Pass) (tile : Nat) (m : Memory) : State × UnitAns Unit :=
  (List.range p.natt).foldl (fun (r : State × UnitAns Unit) a =>
    match r with
    | (s, .ok _) => s.storeAtt g p tile a m
    | r => r) (s, .ok ())

end Sys2Proof.Machine
end

