-- ==== Sys2Proof/Machine/Tasks.lean ====
section
/-!
DEFINITION. Tile tasks (16 R360 to R369): what of a graph a die may place next, its placing, aborts, the ends of warps and gangs (06 R146),
retirement, and the load of graphs.
-/
namespace Sys2Proof.Machine

/-! ### What may be placed next -/

/-- What an attempt to place comes to: it does not fit, it waits for the host or has come to nothing, it is placed. -/
inductive Placing where
  | no
  | wait (s : State)
  | done (s : State)

/-- Gangs of a task not yet placed. -/
def Task.unplaced (t : Task) : Nat := if t.st = 1 then t.left - t.gangs.length else 0

/-- Vertex gangs of a RASTER pass over its sub-passes. -/
def Pass.vgrid (p : Pass) (k : Nat) : Nat := p.rb (640 + 32 * k + 16) 4
/-- NSUB. -/
def Pass.nsub (p : Pass) : Nat := p.rb 0 1

/-- The sub-pass and linear index of the n-th vertex gang of a pass. -/
def Pass.vertexAt (p : Pass) (n : Nat) : Option (Nat × Nat) :=
  ((List.range p.nsub).foldl (fun (r : Option (Nat × Nat) × Nat) k =>
    match r.1 with
    | some _ => r
    | none => if r.2 < p.vgrid k then (some (k, r.2), 0) else (none, r.2 - p.vgrid k)) (none, n)).1

/-- The raster state of a pass. -/
def State.rasterOf (s : State) (gid k : Nat) : Option RasterPass := Tab.get? s.rasters (gid * 256 + k)

/-- Vertex gangs of a RASTER pass in all. -/
def Pass.vertices (p : Pass) : Nat := (List.range p.nsub).foldl (fun n k => n + p.vgrid k) 0

/-- The ready work of a pass of a graph in order (R360, R367, R370): a gang of records; vertex gangs before tiles; tiles in ascending
order. -/
def State.passWorks (s : State) (gid : Nat) (g : Graph) (k : Nat) (p : Pass) : List Work :=
  if p.kind = 4 then (if (g.nextRecs p).isEmpty || !g.reachable p p.ring then [] else [.recs k])
  else
    let vs : List Work := match (if p.kind = 1 then s.rasterOf gid k else none) with
      | some r => (List.range (p.vertices - r.vnext)).map fun i => .vertex k (r.vnext + i)
      | none => []
    vs ++ (List.range p.taskCount).filterMap fun c =>
      match s.tasks.find? fun t => t.2.graph = gid && t.2.pass = k && t.2.st = 0 && t.2.tile = c with
      | some t => some (.again t.1)
      | none => if g.tileReady p c then some (.tile k c) else none

/-- The ready work of a graph on a die: gangs of started tasks first, then that of its passes in order (R360). -/
def State.graphWorks (s : State) (gid : Nat) (g : Graph) (die : Nat) : List Work :=
  let onDie (k : Nat) : Bool := match g.passes[k]? with | some p => p.die = die | none => false
  (s.tasks.filter fun t => t.2.graph = gid && 0 < t.2.unplaced && onDie t.2.pass).map (fun t => .gang t.1)
    ++ (if g.failed.isSome || !g.loaded then []
        else (g.passes.zip (List.range g.passes.length)).flatMap fun x => if x.1.die = die then s.passWorks gid g x.2 x.1 else [])

/-- The next work of a graph on a die among that which satisfies p. -/
def State.graphWork (s : State) (gid : Nat) (g : Graph) (die : Nat) (p : Work → Bool := fun _ => true) : Option Work :=
  (s.graphWorks gid g die).find? p

/-- The waiting of a graph's ready work noted (18 R390): each from the time at which it became ready, a started task's next gangs from
`since`. -/
def State.noteSince (s : State) (gid since : Nat) : State :=
  match Tab.get? s.graphs gid with
  | none => s
  | some g =>
    let ws := s.graphWorks gid g 0 ++ s.graphWorks gid g 1
    let time (w : Work) : Nat := match g.waits.find? fun x => x.1 = w with
      | some x => x.2
      | none => match w with | .gang _ => since | _ => s.timer
    { s with graphs := Tab.set s.graphs gid { g with
        waits := ws.map fun w => (w, time w), blocking := g.blocking.filter ws.contains, promoted := g.promoted.filter ws.contains } }

/-- The waiting of a graph's ready work noted. -/
def State.noteWork (s : State) (gid : Nat) : State := s.noteSince gid s.timer

/-- Work of a graph has been placed: it waits no longer, and a task that it starts waits with its other gangs since it was ready. -/
def State.workPlaced (s : State) (gid : Nat) (w : Work) : State :=
  match Tab.get? s.graphs gid with
  | none => s
  | some g =>
    let since := match g.waits.find? fun x => x.1 = w with | some x => x.2 | none => s.timer
    let g : Graph := { g with waits := g.waits.filter fun x => x.1 ≠ w, blocking := g.blocking.filter (· ≠ w),
                              promoted := g.promoted.filter (· ≠ w) }
    ({ s with graphs := Tab.set s.graphs gid g } : State).noteSince gid since

/-- GRAPH_LOAD (R357 to R359): reads and checks a graph; it waits while other graphs hold the space of a scoreboard. A loaded graph
looks whether it is complete. -/
def execGraphLoad (graph : Nat) (s : State) : Host.Outcome State Fault Refusal :=
  .next (match Tab.get? s.graphs graph with
    | none => s
    | some g =>
      if g.loaded then s.settleGraph graph
      else
        match s.readGraph g with
        | (s, .wait) => s
        | (s, .fail d i) => ({ s with graphs := Tab.erase s.graphs graph } : State).finishRec g.slot g.seq 3 d i
        | (s, .ok g) =>
          if 2 ^ 20 < s.boardUsed 0 + g.entries 0 ∨ 2 ^ 20 < s.boardUsed 1 + g.entries 1 then s
          else
            let g : Graph := { g with loaded := true, score := g.board }
            ((({ s with graphs := Tab.set s.graphs graph g } : State).startRasters graph g).noteWork graph).settleGraph graph)

/-! ### Placing work -/

/-- A task before anything of it is placed. -/
def Task.fresh (graph pass tile now : Nat) : Task :=
  { graph, pass, tile, gangs := [], left := 0, pinned := false, pinning := false, st := 1, core := none, recs := [], sub := 0, tm := [], frags := [],
    nextSeq := 0, phase := 0, rastered := false, drawn := 0, since := now, aborts := 0 }

/-- What a gang of a task starts with (R362, R366, R367, 17 R376). -/
def taskStart (g : Graph) (p : Pass) (k : Kernel) (task : Nat) (index : Nat) (stage : Stage) (units : Nat) : Start :=
  { kernel := k, source := .task task, ctx := g.ctx, cls := g.cls, slot := g.slot, seq := g.seq, die := p.die, index := BitVec.ofNat 64 index,
    stage, task := some task, args := if p.args = 0 then g.args else p.args, units }

/-- The traversal unit of a core is off (24 R487): unit 288 + core in state 2. -/
def State.traversalOff (s : State) (core : Nat) : Bool := Tab.get? s.power (288 + core) = some 2

/-- What seating a gang comes to: it fits nowhere, it waits for the host, it has its number and its first core. -/
inductive Seated where
  | no
  | wait (s : State)
  | done (s : State) (id core : Nat)

/-- A gang seated on its die where it fits on cores that satisfy ok. -/
def State.seatGang (s : State) (x : Start) (ok : Nat → Bool) (sp : Memory := []) : Seated :=
  match seatsOnDie s.rooms x.die (s.die x.die).lastCluster x.kernel x.units ok with
  | none => .no
  | some (cl, seats, _) =>
    match s.seat x seats sp with
    | (s, some id) => .done (s.noteCluster x.die cl) id ((seats.head?.map (·.core)).getD 0)
    | (s, none) => .wait s

/-- Gangs that a task runs in all (R362, R366). -/
def Pass.gangs (p : Pass) : Nat := if p.kind = 5 then p.gx * p.gy else if p.kind = 4 then 1 else p.tgangs

/-- The Grotto units that a RASTER task reserves on its core: the largest reservation of its kernels. -/
def Pass.rasterUnits (p : Pass) : Nat := p.kernels.foldl (fun n k => max n k.grotto) 0

/-- Slots assigned to the tiles that a task writes, on the core that runs it (R361); the second part is false where one finds no room. -/
def State.assignOuts (s : State) (gid : Nat) (p : Pass) (c core : Nat) : State × Bool :=
  match Tab.get? s.graphs gid with
  | none => (s, true)
  | some g =>
    (p.outs.flatMap fun r => (g.outTiles p c r).map fun t => (r, t)).foldl (fun (x : State × Bool) y =>
      if x.2 then x.1.assignSlot gid y.1 y.2 core else x) (s, true)

/-- The start of a gang of a TILE, TRACE or FULL task, or of the tile kernel of a RASTER task. -/
def gangStart (g : Graph) (p : Pass) (k : Kernel) (task : Nat) (x : Task) (i : Nat) : Start :=
  let raster := p.kind = 1
  let y := taskStart g p k task (if p.kind = 5 then i else x.tile + 2 ^ 32 * i) (if raster then .rasterTile else .graph)
    (if raster then 0 else k.grotto)
  if p.kind = 5 then y else { y with tx := x.tile % p.gx, ty := x.tile / p.gx }

/-- Cores that a gang of a task may go to. -/
def State.taskCores (s : State) (p : Pass) (x : Task) (c : Nat) : Bool :=
  if p.kind = 1 then (match x.core with | some y => if (p.kernel.map (·.gang)) = some 1 then c = y else clusterOf c = clusterOf y | none => false)
  else !(p.kind = 3 && s.traversalOff c)

/-- The next gang of a task placed. -/
def State.placeGang (s : State) (t : Nat) : Placing :=
  match (Tab.get? s.tasks t).bind fun x => (s.taskPass x).bind fun y => y.2.kernel.map fun k => (x, y.1, y.2, k) with
  | none => .no
  | some (x, g, p, k) =>
    match s.seatGang (gangStart g p k t x (p.gangs - x.unplaced)) (s.taskCores p x) with
    | .no => .no
    | .wait s => .wait s
    | .done s id core =>
      .done { s with tasks := Tab.modify s.tasks t fun x => { x with gangs := x.gangs ++ [id], core := some (x.core.getD core) } }

/-- The core on which a RASTER task starts: one with the units unreserved, clusters in rotation. -/
def State.rasterCore (s : State) (die units : Nat) : Option Nat :=
  let from_ := match (s.die die).lastCluster with | some c => c % 3 + 1 | none => 0
  (((List.range 3).map fun i => 3 * die + (from_ + i) % 3).flatMap fun cl => (List.range 4).map (· + 4 * cl)).find? fun c =>
    units ≤ (s.room c).grotto

/-- A RASTER tile starts (17 R385): a core's Grotto is reserved for its tile memory, its slots are taken, the attachments are loaded. A
fault of the load fails the graph (assumption 37). -/
def State.startRasterTask (s : State) (t : Nat) (x : Task) (g : Graph) (p : Pass) : Placing :=
  match s.rasterCore p.die p.rasterUnits with
  | none => .no
  | some core =>
    match s.acquireCores [core] with
    | (s, false) => .wait s
    | (s0, true) =>
      match s0.assignOuts x.graph p x.tile core with
      | (_, false) => .no
      | (s, true) =>
        match s.loadTile g p x.tile with
        | (s, .wait) => .wait { s0 with snoops := s.snoops, refusals := s.refusals }
        | (s, .ok m) =>
          let s : State := s.reserveGrotto core t p.rasterUnits
          .done { s with tasks := Tab.set s.tasks t { x with st := 1, core := some core, tm := m, pinned := 2 ≤ x.aborts, since := s.timer } }
        | (s, _) => .wait (s.failGraph x.graph 3)

/-- The first gang of a TILE, TRACE or FULL task placed: it starts. -/
def State.startTask (s : State) (t : Nat) (x : Task) (g : Graph) (p : Pass) : Placing :=
  if p.kind = 1 then s.startRasterTask t x g p
  else
    match p.kernel with
    | none => .no
    | some k =>
      match s.seatGang (gangStart g p k t x 0) (s.taskCores p x) with
      | .no => .no
      | .wait s => .wait s
      | .done s id core =>
        let x : Task := { x with st := 1, gangs := [id], left := p.gangs, core := some core, pinned := p.kind = 5 || 2 ≤ x.aborts,
                                 since := s.timer }
        match ({ s with tasks := Tab.set s.tasks t x } : State).assignOuts x.graph p x.tile core with
        | (s, true) => .done s
        | (_, false) => .no

/-- A tile of a pass is taken. -/
def State.takeTile (s : State) (gid k c : Nat) : State := s.modPass gid k fun p => { p with taken := setAdd p.taken c }

/-- A gang of records placed (R367): staged into each of its workgroups' scratchpads, its number among the pass's gangs as its linear
index (assumption 38). -/
def State.startRecs (s : State) (gid k : Nat) (g : Graph) (p : Pass) : Placing :=
  match p.kernel with
  | none => .no
  | some kn =>
    let rs := g.nextRecs p
    let t := s.nextId
    let depth := (rs.head?.map (·.depth)).getD 0
    let sp : Memory := (rs.zip (List.range rs.length)).foldl (fun (m : Memory) r => m.writeNat (64 * r.2) 64 r.1.bytes.toNat) []
    let x := { taskStart g p kn t p.taken.length .graph kn.grotto with g8 := rs.length, g9 := depth, recDepth := depth }
    match ({ s with nextId := t + 1 } : State).seatGang x (fun _ => true) sp with
    | .no => .no
    | .wait s => .wait s
    | .done s id core =>
      let task : Task := { Task.fresh gid k 0 s.timer with
        gangs := [id], left := 1, core := some core, recs := rs, pinned := rs.any fun r => 2 ≤ r.aborts,
        aborts := rs.foldl (fun n r => max n r.aborts) 0 }
      let s : State := { s with tasks := Tab.set s.tasks t task,
                                graphs := Tab.modify s.graphs gid fun g =>
                                  { g with rings := Tab.modify g.rings p.ring fun q => q.drop rs.length } }
      .done (s.takeTile gid k p.taken.length)

/-- A vertex gang placed (17 R376). -/
def State.startVertex (s : State) (gid k : Nat) (g : Graph) (p : Pass) : Placing :=
  match (s.rasterOf gid k).bind fun r => (p.vertexAt r.vnext).bind fun v => p.vkernels[v.1]?.map fun kn => (v.1, v.2, kn) with
  | none => .no
  | some (sub, i, kn) =>
    let t := s.nextId
    match ({ s with nextId := t + 1 } : State).seatGang { taskStart g p kn t i .rasterVertex kn.grotto with g9 := sub } (fun _ => true) with
    | .no => .no
    | .wait s => .wait s
    | .done s id core =>
      let task : Task := { Task.fresh gid k 0 s.timer with gangs := [id], left := 1, core := some core, pinned := true, sub, phase := 3 }
      .done { s with tasks := Tab.set s.tasks t task,
                     rasters := Tab.modify s.rasters (gid * 256 + k) fun r => { r with vnext := r.vnext + 1 } }

/-- Work of a graph placed. -/
def State.placeWork (s : State) (gid : Nat) (g : Graph) (w : Work) : Placing :=
  let r : Placing :=
    match w with
    | .gang t => s.placeGang t
    | .again t =>
      (match (Tab.get? s.tasks t).bind fun x => g.passes[x.pass]?.map fun p => (x, p) with
       | some (x, p) => s.startTask t x g p
       | none => .no)
    | .tile k c =>
      (match g.passes[k]? with
       | some p =>
         (match ({ s with nextId := s.nextId + 1 } : State).startTask s.nextId (Task.fresh gid k c s.timer) g p with
          | .done s => .done (s.takeTile gid k c)
          | x => x)
       | none => .no)
    | .recs k => (match g.passes[k]? with | some p => s.startRecs gid k g p | none => .no)
    | .vertex k _ => (match g.passes[k]? with | some p => s.startVertex gid k g p | none => .no)
  match r with
  | .done s => .done (s.workPlaced gid w)
  | x => x

/-! ### Aborts (R365) -/

/-- An unpinned task aborted by a pre-emption: everything of it is discarded but its slots; its records go back to the head of their
ring (R367). -/
def State.abortTask (s : State) (t : Nat) : State :=
  match (Tab.get? s.tasks t).bind fun x => (s.taskPass x).map fun y => (x, y.1, y.2) with
  | none => s
  | some (x, g, p) =>
    let s : State := s.dropTaskGangs t x
    let s : State := { s with taskBuf := s.taskBuf.filter fun b => b.1 / 32 ≠ t }
    if p.kind = 4 then
      ({ s with tasks := Tab.erase s.tasks t,
                graphs := Tab.modify s.graphs x.graph fun g =>
                  let back := (x.recs.map fun r => { r with aborts := r.aborts + 1 }) ++ (Tab.get? g.rings p.ring).getD []
                  { g with rings := Tab.set g.rings p.ring back } } : State).noteWork x.graph
    else
      let score := p.outs.foldl (fun m r => (g.outTiles p x.tile r).foldl (fun m c =>
        Tab.modify m (boardKey r c) fun y => { y with aborts := x.aborts + 1 }) m) g.score
      ({ s with
        tasks := Tab.set s.tasks t { Task.fresh x.graph x.pass x.tile s.timer with st := 0, aborts := x.aborts + 1 },
        graphs := Tab.modify s.graphs x.graph fun g => { g with score } } : State).noteWork x.graph

/-! ### Ends of warps and gangs (06 R131, R146) -/

/-- A gang that has lost its last warp retires: its launch or its task counts it. -/
def State.gangEnd (s : State) (g : Nat) (stage : Stage) : State :=
  match Tab.get? s.gangs g with
  | none => s
  | some x =>
    let s : State := s.dropGang g
    match x.source with
    | .launch l => { s with launches := Tab.modify s.launches l fun y => { y with live := y.live - 1 } }
    | .task t =>
      { s with tasks := Tab.modify s.tasks t fun y =>
          let gangs := y.gangs.filter (· ≠ g)
          if stage = .rasterFragment then { y with gangs }
          else { y with gangs, left := y.left - 1, st := if y.left = 1 then 2 else y.st } }

/-- A warp that ends leaves the operations that its engine still holds, with its tiles as they read them (assumption 40); the bypass slot it
holds is free (12 R278). -/
def State.endWarp (s : State) (w : Nat) (x : Warp) : State :=
  let s : State := s.modEngine x.engineKey fun y => if y.queue.any fun o => o.warp = w then { y with ended := Tab.set y.ended w x } else y
  let kept := (s.engine x.engineKey).queue
  (s.dropWarps [w]).modEngine x.engineKey fun y => { y with queue := kept }

/-- WARP_END (R131, R146): no lane remains and the counters are zero. -/
def execWarpEnd (w : Nat) (s : State) : Host.Outcome State Fault Refusal :=
  .next (match s.warp? w with
    | none => s
    | some x =>
      if x.lanes ≠ 0 || x.pend.any fun p => p.path.isSome then s
      else
        let s : State := s.endWarp w x
        if x.walker then { s with wgs := Tab.erase s.wgs x.wg }
        else if s.warps.any fun y => y.2.gang = x.gang then s
        else s.gangEnd x.gang x.stage)

/-! ### Retirement (R363) -/

/-- A task gone from the part with what it reserved. -/
def State.endTask (s : State) (t : Nat) : State :=
  ({ s with cores := s.cores.map fun c => (c.1, { c.2 with grotto := Tab.erase c.2.grotto t }) } : State).dropTask t

/-- TILE_TASK_RETIRE (R363): a RASTER tile is stored first (17 R385), then the task commits, its tiles become produced and its readers are
done. err: a scoreboard entry meets an uncorrectable error, and the graph fails (26 R502). -/
def execTileTaskRetire (o : Found) (s : State) : Host.Outcome State Fault Refusal :=
  .next (match (Tab.get? s.tasks o.name).bind fun x => (s.taskPass x).map fun y => (x, y.1, y.2) with
    | none => s
    | some (x, g, p) =>
      if x.st ≠ 2 then s
      else
        let r : State × UnitAns Unit := if p.kind = 1 ∧ x.phase ≠ 3 then s.storeTile g p x.tile x.tm else (s, .ok ())
        match r with
        | (s, .wait) => s
        | (s, .ok _) =>
          (match s.commitOf o.name x with
           | (s, false) => s
           | (s, true) =>
             let s : State :=
               if p.kind = 4 ∨ x.phase = 3 then s
               else if o.err then s.noteError.failGraph x.graph 4
               else s.retireTile x.graph x.pass p x.tile
             ((s.endTask o.name).noteWork x.graph).settleGraph x.graph)
        | (s, _) => ((s.failGraph x.graph 3).endTask o.name).settleGraph x.graph)

end Sys2Proof.Machine
end

