-- ==== Sys2Proof/Machine/Preempt.lean ====
section
/-!
DEFINITION. Class-0 pre-emption, saves and restores (18 R395 to R402), and thermal migration (18 R408, R409, 24 R490).
-/
namespace Sys2Proof.Machine

/-! ### What asks for room -/

/-- A gang that asks for room: a launch's head gang, or the next work of a graph. -/
inductive Asker where
  | launch (l : Launch)
  | graph (gid : Nat) (g : Graph) (w : Work)

/-- The cores of a cluster. -/
def clusterCores (cl : Nat) : List Nat := (List.range 4).map (· + 4 * cl)

/-- The gangs of a cooperative launch all fit now. -/
def State.coopFits (s : State) (l : Launch) : Option (List (Nat × Nat × List Seat)) :=
  coopSeats l.kernel s.rooms (s.die 0).lastCluster (s.die 1).lastCluster (s.resident 0) (s.resident 1) l.kernel.grid

/-- The next work of a graph fits on some cores. -/
def State.workFits (s : State) (g : Graph) (w : Work) (cores : List Nat) : Bool :=
  let seats (k : Kernel) (units : Nat) (ok : Nat → Bool) : Bool := (seatsOn s.rooms (cores.filter ok) k units).isSome
  let start (p : Pass) (x : Task) : Bool :=
    if p.kind = 1 then cores.any fun c => p.rasterUnits ≤ (s.room c).grotto
    else match p.kernel with | some k => seats k k.grotto (s.taskCores p x) | none => false
  match w with
  | .gang t => (match (Tab.get? s.tasks t).bind fun x => g.passes[x.pass]?.map fun p => (x, p) with
    | some (x, p) => (match p.kernel with | some k => seats k (if p.kind = 1 then 0 else k.grotto) (s.taskCores p x) | none => false)
    | none => false)
  | .again t => (match (Tab.get? s.tasks t).bind fun x => g.passes[x.pass]?.map fun p => (x, p) with
    | some (x, p) => start p x
    | none => false)
  | .tile k c => (match g.passes[k]? with | some p => start p (Task.fresh 0 k c 0) | none => false)
  | .recs k => (match (g.passes[k]?).bind (·.kernel) with | some kn => seats kn kn.grotto fun _ => true | none => false)
  | .vertex k _ => (match (g.passes[k]?).bind fun p => p.vkernels.head? with | some kn => seats kn kn.grotto fun _ => true | none => false)

/-- An asker fits on a cluster; a cooperative launch on the part. -/
def State.askerFits (s : State) (a : Asker) (cl : Nat) : Bool :=
  match a with
  | .launch l => if l.kernel.coop then (s.coopFits l).isSome else (seatsOn s.rooms (clusterCores cl) l.kernel l.kernel.grotto).isSome
  | .graph _ g w => s.workFits g w (clusterCores cl)

/-! ### Victims (R395) -/

/-- A victim: a tile task, or gangs that are pre-empted as one. -/
structure Victim where
  task : Option Nat
  gangs : List Nat
  abort : Bool
  group : Nat
  started : Nat
deriving DecidableEq, Repr

/-- The group of a class among those that are saved: 3, then 2, then 1. -/
def saveGroup (cls : Nat) : Nat := if cls = 3 then 1 else if cls = 2 then 2 else 3

/-- Cores that a gang's workgroups are on. -/
def State.gangCores (s : State) (g : Nat) : List Nat :=
  match Tab.get? s.gangs g with
  | some x => x.wgs.filterMap fun k => (Tab.get? s.wgs k).map (·.core)
  | none => []

/-- The tasks that may be victims on a cluster. -/
def State.taskVictims (s : State) (cl : Nat) : List Victim :=
  s.tasks.filterMap fun t =>
    match Tab.get? s.graphs t.2.graph with
    | none => none
    | some g =>
      let gangs := t.2.gangs.filter fun k => match Tab.get? s.gangs k with | some x => x.saved.isNone | none => false
      let here := (gangs.any fun k => (s.gangCores k).any fun c => clusterOf c = cl)
        || (!t.2.fixed && (match t.2.core with | some c => clusterOf c = cl | none => false))
      if g.cls = 0 || t.2.st ≠ 1 || !here then none
      else some { task := some t.1, gangs, abort := !t.2.fixed, group := if t.2.fixed then saveGroup g.cls else 0, started := t.2.since }

/-- The gangs of a launch that are pre-empted with one of them: all of a cooperative launch. -/
def State.wholeLaunch (s : State) (g : Nat) (x : Gang) : List Nat :=
  if x.kernel.coop then (s.gangs.filter fun y => y.2.source = x.source && y.2.saved.isNone).map (·.1) else [g]

/-- The launches' gangs that may be victims on a cluster. -/
def State.gangVictims (s : State) (cl : Nat) : List Victim :=
  s.gangs.foldl (fun (vs : List Victim) g =>
    match g.2.source with
    | .task _ => vs
    | .launch _ =>
      if g.2.cls = 0 || g.2.saved.isSome || !((s.gangCores g.1).any fun c => clusterOf c = cl) || vs.any fun v => v.gangs.contains g.1 then vs
      else vs ++ [{ task := none, gangs := s.wholeLaunch g.1 g.2, abort := false, group := saveGroup g.2.cls, started := g.2.started }]) []

/-- A victim comes before another: by group, then the most recently started. -/
def Victim.before (a b : Victim) : Bool := a.group < b.group || (a.group = b.group && b.started < a.started)

/-- A victim put into an ordered list. -/
def insertVictim (v : Victim) (vs : List Victim) : List Victim :=
  match vs with
  | [] => [v]
  | x :: t => if v.before x then v :: x :: t else x :: insertVictim v t

/-- The candidates of a cluster in order. -/
def State.victims (s : State) (cl : Nat) : List Victim := (s.taskVictims cl ++ s.gangVictims cl).foldl (fun l v => insertVictim v l) []

/-- The part as it would be without a victim. -/
def State.without (s : State) (v : Victim) : State :=
  if v.abort then
    (match v.task.bind fun t => (Tab.get? s.tasks t).map fun x => (t, x) with
     | some (t, x) => s.dropTaskGangs t x
     | none => s)
  else { s with gangs := s.gangs.map fun g => if v.gangs.contains g.1 then (g.1, { g.2 with saved := some 0, victim := false }) else g }

/-- The victim set of a cluster: candidates taken one at a time until the asker fits. -/
def State.victimSet (s : State) (a : Asker) (cl : Nat) (vs : List Victim) : Option (List Victim) :=
  if s.askerFits a cl then some []
  else
    match vs with
    | [] => none
    | v :: t => ((s.without v).victimSet a cl t).map fun r => v :: r

/-- Bytes that the saves of a victim set write. -/
def State.saveCost (s : State) (vs : List Victim) : Nat :=
  vs.foldl (fun n v => if v.abort then n else v.gangs.foldl (fun n g => n + s.gangBytes g) n) 0

/-- The clusters on which a victim runs. -/
def State.victimClusters (s : State) (v : Victim) : List Nat :=
  let held := match v.task.bind fun t => (Tab.get? s.tasks t).bind (·.core) with | some c => if v.abort then [c] else [] | none => []
  (((v.gangs.flatMap s.gangCores) ++ held).map clusterOf).foldl setAdd []

/-- The cluster chosen on a die with its victims (R395). -/
def State.chooseCluster (s : State) (a : Asker) (die : Nat) : Option (List Victim) :=
  let cls := (List.range 3).map (· + 3 * die)
  let calm := cls.filter fun c => match Tab.get? s.clusterPre c with | some t => t + 1000000 ≤ s.timer | none => true
  let sets := (if calm.isEmpty then cls else calm).filterMap fun c => s.victimSet a c (s.victims c)
  sets.foldl (fun b x =>
    match b with
    | none => some x
    | some y =>
      let cx := s.saveCost x
      let cy := s.saveCost y
      let nx := (x.flatMap (·.gangs)).length
      let ny := (y.flatMap (·.gangs)).length
      if cx < cy ∨ (cx = cy ∧ nx < ny) then some x else some y) none

/-- The victims for a cooperative launch that no one cluster makes room for: those of every cluster of its dies (assumption 113). -/
def State.chooseDies (s : State) (a : Asker) (dies : List Nat) : Option (List Victim) :=
  match a with
  | .launch l =>
    if l.kernel.coop then
      let all := (dies.flatMap fun d => (List.range 3).flatMap fun k => s.taskVictims (3 * d + k) ++ s.gangVictims (3 * d + k)).eraseDups
      s.victimSet a 0 (all.foldl (fun l v => insertVictim v l) [])
    else none
  | .graph .. => none

/-- A gang begins to be stopped as a victim of a request (R396): warps that hold a section issue on. -/
def State.markVictim (s : State) (of : Nat × Nat) (g : Nat) : State :=
  let s : State := s.modGang g fun x => { x with victim := true, victimOf := of, victimAt := s.timer }
  (s.warps.filter fun w => w.2.gang = g).foldl (fun (s : State) w => if w.2.holdsSection then s else s.stopWarp w.1) s

/-- The log's record of a pre-emption (R398): context, class, launch sequence and gang index of a victim. -/
def State.logVictim (s : State) (die ctx cls slot seq index : Nat) : State := s.logFields die 0x180 0x30 ctx [cls, slot, seq, index]

/-- A victim logged: as its first gang, or as its tile where no gang of it runs (assumption 135). -/
def State.noteVictim (s : State) (v : Victim) : State :=
  match v.gangs.head?.bind (Tab.get? s.gangs) with
  | some g => s.logVictim g.die g.ctx g.cls g.slot g.seq g.index.toNat
  | none =>
    match v.task.bind fun t => (Tab.get? s.tasks t).bind fun x => (s.taskPass x).map fun y => (x, y.1, y.2) with
    | some (x, g, p) => s.logVictim p.die g.ctx g.cls g.slot g.seq x.tile
    | none => s

/-- A victim handled, number n of a request, and logged: an unpinned task is aborted, the gangs of another stop. -/
def State.takeVictim (s : State) (request n : Nat) (v : Victim) : State :=
  let s : State := ({ s with clusterPre := (s.victimClusters v).foldl (fun m c => Tab.set m c s.timer) s.clusterPre } : State).noteVictim v
  if v.abort then (match v.task with | some t => s.abortTask t | none => s)
  else v.gangs.foldl (fun (s : State) g => s.markVictim (request, n) g) s

/-- The class-0 gangs that a launch or a graph, named by its number, asks room for, each with its dies. -/
def State.askers0 (s : State) (id : Nat) : List (Asker × List Nat) :=
  match Tab.get? s.launches id, Tab.get? s.graphs id with
  | some l, _ =>
    if l.cls = 0 && l.next < l.kernel.grid then [(.launch l, match l.headDie with | some d => [d] | none => [0, 1])] else []
  | none, some g => if g.cls ≠ 0 then [] else [0, 1].filterMap fun d => (s.graphWork id g d).map fun w => (.graph id g w, [d])
  | none, none => []

/-- A pre-emption is under way on a die. -/
def State.preempting (s : State) (die : Nat) : Bool := s.gangs.any fun g => g.2.die = die && g.2.victim

/-- The victims of a request of class 0 that cannot be placed on its dies, while no pre-emption is under way there. -/
def State.requestVictims (s : State) (x : Asker × List Nat) : Option (List Victim) :=
  if x.2.any fun d => s.preempting d || ((List.range 3).any fun k => s.askerFits x.1 (3 * d + k)) then none
  else (x.2.findSome? fun d => s.chooseCluster x.1 d) <|> s.chooseDies x.1 x.2

/-- CLASS0_REQUEST (R395, R396 steps 1 to 3). -/
def execClass0Request (gang : Nat) (s : State) : Host.Outcome State Fault Refusal :=
  .next (match (s.askers0 gang).findSome? s.requestVictims with
    | none => s
    | some vs => (vs.zip (List.range vs.length)).foldl (fun (s : State) v => s.takeVictim s.nextId v.2 v.1) s |>.bump)

/-- ORDERED_SECTION_TIMEOUT (R396 step 2, 13 R301): a victim's warp that still issues stops once it holds no section, or after 5 µs. -/
def execOrderedSectionTimeout (w : Nat) (s : State) : Host.Outcome State Fault Refusal :=
  .next (match s.warp? w with
    | none => s
    | some x =>
      match Tab.get? s.gangs x.gang with
      | none => s
      | some g =>
        if g.victim && g.saved.isNone && !x.stopping && (!x.holdsSection || g.victimAt + 5000 ≤ s.timer) then s.stopWarp w else s)

/-! ### Save (R396 steps 4 to 6, R398) -/

/-- A warp's claim of its engine's bypass slot taken with it (12 R265). -/
def State.takeBypass (s : State) (w : Nat) : State :=
  match s.warp? w with
  | none => s
  | some x =>
    match (s.engine x.engineKey).bypass with
    | some b =>
      if b.holder = some w then
        (s.modEngine x.engineKey fun e => { e with bypass := none }).modWarp w fun x => { x with bypass := some b }
      else s
    | none => s

/-- A warp's bypass slot put into the engine it is placed on. -/
def State.giveBypass (s : State) (w : Nat) : State :=
  match s.warp? w with
  | none => s
  | some x =>
    match x.bypass with
    | some b => (s.modEngine x.engineKey fun e => { e with bypass := some b }).modWarp w fun x => { x with bypass := none }
    | none => s

/-- A warp holds a bypass slot: its engine's, or one that was saved with it (12 R278). -/
def State.holdsBypass (s : State) (w : Nat) (x : Warp) : Bool :=
  x.bypass.isSome || (match (s.engine x.engineKey).bypass with | some b => b.holder = some w | none => false)

/-- The engines whose bypass slots some workgroups in some seats need: one for each warp that holds a slot. -/
def State.bypassKeys (s : State) (wgs : List Nat) (seats : List Seat) : List Nat :=
  (wgs.zip seats).flatMap fun p => ((s.wgWarps p.1).zip p.2.parts).filterMap fun q =>
    if s.holdsBypass q.1.1 q.1.2 then some (4 * p.2.core + q.2 / 4) else none

/-- The bypass slots of some engines can be given, one claim to each: no warp holds them. -/
def State.bypassesFree (s : State) (ks : List Nat) : Bool :=
  decide ks.Nodup && ks.all fun k => match (s.engine k).bypass with | some b => b.holder.isNone | none => true

/-- The warps of a gang. -/
def State.gangWarps (s : State) (g : Nat) : List Nat := (s.warps.filter fun w => w.2.gang = g).map (·.1)

/-- Remote pushes of some warps withdrawn, their waits taken back. -/
def State.withdrawAll (s : State) (ws : List Nat) : State := ws.foldl (fun (s : State) w => (s.withdrawWaits w).withdrawPushes w) s

/-- VICTIM_SAVE (R396): a drained gang of a victim is saved, a device-scope release of its cores. -/
def execVictimSave (gang : Nat) (s : State) : Host.Outcome State Fault Refusal :=
  .next (match Tab.get? s.gangs gang with
    | none => s
    | some g =>
      let ws := s.gangWarps gang
      let ready := ws.all fun w => (match s.warp? w with | some x => x.stopping | none => true) && s.drained w
      if !g.victim || g.saved.isSome || !ready then s
      else
        match (s.withdrawAll ws).cleanCores (s.gangCores gang) with
        | (s, false) => s
        | (s, true) =>
          let s : State := ws.foldl State.takeBypass s
          let s : State := { s with cores := s.cores.map fun (c : Nat × Core) => (c.1, { c.2 with copies := c.2.copies.filter fun p => !ws.contains p.1 }) }
          let s : State := (s.modGang gang fun x => { x with saved := some s.nextId, victimAt := s.timer }).bump
          s.releaseVictims)

/-! ### The save area (R399, R400) -/

/-- The 256 entries of a context's directory as numbers; none where one cannot be read. -/
def State.directory (s : State) (ctx : Nat) (base : DWord) : State × Option (List Nat) :=
  match s.readArray ctx base 16 256 0 with
  | (s, .ok es) => (s, some es)
  | (s, _) => (s, none)

/-- The lowest run of n free chunks behind the directory. -/
def freeChunks (es : List Nat) (kb n : Nat) : Option Nat :=
  let used (c : Nat) : Bool := es.any fun e => byteField e 12 2 ≤ c && c < byteField e 12 2 + byteField e 14 2
  ((List.range (kb / 64)).drop 1).find? fun a => a + n ≤ kb / 64 && (List.range n).all fun k => !used (a + k)

/-- A word of a warp's record as it is saved: the rest of its Control section is in a format private to the part (R400; assumption 29). -/
def Warp.savedWord (x : Warp) (free off : Nat) : Word :=
  if 576 ≤ off ∧ off < 8704 then Config.recordHeader (off / 4) free else x.record free off

/-- The bytes of a gang's record (R400) from its workgroups: headers and queues as the part keeps them (assumption 29). -/
def State.gangRecord (s : State) (x : Gang) : List (Nat × Byte) :=
  let word (off : Nat) (v : Word) : List (Nat × Byte) := cellsOf off 4 v.toNat
  let header (off n : Nat) : List (Nat × Byte) := (List.range n).flatMap fun k => word (off + 4 * k) (Config.recordHeader k s.free)
  (x.wgs.foldl (fun (r : List (Nat × Byte) × Nat) k =>
    match Tab.get? s.wgs k with
    | none => r
    | some wg =>
      let at_ := r.2
      let sp := (List.range wg.alloc).map fun i => (at_ + 2176 + i, wg.sp.read i)
      let ws := (s.wgWarps k).foldl (fun (q : List (Nat × Byte) × Nat) w =>
        (q.1 ++ (List.range (w.2.saveBytes / 4)).flatMap fun i => word (q.2 + 4 * i) (w.2.savedWord s.free (4 * i)), q.2 + w.2.saveBytes))
        ([], at_ + 2176 + wg.alloc)
      (r.1 ++ header at_ 544 ++ sp ++ ws.1, ws.2)) (header 0 32, 128)).1

/-- The names of n bytes of a context's save area from an address, line by line, where its pages allow writing every one now. -/
def State.areaNames (s : State) (ctx : Nat) (base : DWord) (n : Nat) : Option (List Nat) :=
  let name (k : Nat) : Option Nat := match (s.frontName ctx (base + BitVec.ofNat 64 (128 * k)) true).2 with | .ok a => some a | _ => none
  let lines := List.range ((n + 127) / 128)
  if lines.all fun k => (name k).isSome then some (lines.flatMap fun k => (List.range 128).map ((name k).getD 0 + ·)) else none

/-- A saved gang's record written to its context's save area, and its entry to the directory; nothing where a page does not allow it. -/
def State.copySave (s : State) (gang : Nat) (g : Gang) (base : DWord) (entry chunk chunks : Nat) : State :=
  let rec_ := s.gangRecord g
  let word := g.index.toNat + 2 ^ 64 * (g.seq % 2 ^ 32) + 2 ^ 96 * chunk + 2 ^ 112 * chunks
  match s.areaNames g.ctx (base + BitVec.ofNat 64 (65536 * chunk)) (s.gangBytes gang), s.areaNames g.ctx (base + BitVec.ofNat 64 (16 * entry)) 16 with
  | some xs, some ys =>
    (s.unitWrite (xs.zip (rec_.map (·.2)) ++ ys.zip ((cellsOf 0 16 word).map (·.2)))).modGang gang fun x =>
      { x with copied := true, chunk := some (entry, chunk, chunks) }
  | _, _ => s

/-- A saved gang whose record meets an uncorrectable error is discarded, and its stream record fails with code 5, detail 0x11 (26 R502). -/
def State.loseSave (s : State) (gang : Nat) (g : Gang) : State :=
  let s : State := match g.source with
    | .launch l => { s with launches := Tab.modify s.launches l fun y => { y with failed := some (y.failed.getD 0x11) } }
    | .task t => (match Tab.get? s.tasks t with | some y => s.failGraph y.graph 0x11 5 | none => s)
  let stage := ((s.warps.find? fun w => w.2.gang = gang).map (·.2.stage)).getD .compute
  s.noteError.gangEnd gang stage

/-- SAVE_AREA_COPY (R399): a saved gang's record copied to its context's save area, where that has an entry and room; its Grotto space
is free then. err: the record meets an uncorrectable error. -/
def execSaveAreaCopy (o : Found) (s : State) : Host.Outcome State Fault Refusal :=
  .next (match Tab.get? s.gangs o.name with
    | none => s
    | some g =>
      let a := s.saveArea g.ctx
      if g.saved.isNone then s
      else if o.err then s.loseSave o.name g
      else if g.copied || a.1 = 0 || a.1.toNat % 4096 ≠ 0 || a.2 < 4 then s
      else
        match s.directory g.ctx a.1 with
        | (s, none) => s
        | (s, some es) =>
          let n := (s.gangBytes o.name + 65535) / 65536
          match firstIdx es fun _ e => byteField e 14 2 = 0, freeChunks es a.2 n with
          | some i, some c => s.copySave o.name g a.1 i c n
          | _, _ => s)

/-! ### Restore (R401) -/

/-- What a workgroup needs of a core to be put there again: granules, queue entries, registers, tiles, warps. -/
structure Seating where
  grans : Nat
  queues : Nat
  vregs : Nat
  accs : Nat
  warps : Nat
deriving DecidableEq, Repr

/-- What a workgroup in being needs. -/
def State.seating (s : State) (k : Nat) (x : Workgroup) (kn : Kernel) : Seating :=
  { grans := x.alloc / 2048, queues := x.qcount, vregs := kn.vregs, accs := kn.accs, warps := (s.wgWarps k).length }

/-- A workgroup seated in a room. -/
def Room.reseat (r : Room) (n : Seating) (units : Nat) : Option ((Nat × List Nat) × Room) :=
  r.placeWith n.grans n.queues n.vregs n.accs n.warps units

/-- Workgroups seated in order on some cores in order. -/
def reseatOn (rooms : Tab Room) (cores : List Nat) (ns : List Seating) : Option (List Seat × Tab Room) :=
  match cores, ns with
  | _, [] => some ([], rooms)
  | [], _ => none
  | c :: cs, n :: t =>
    match (Tab.get? rooms c).bind fun r => r.reseat n 0 with
    | some ((first, parts), r) => (reseatOn (Tab.set rooms c r) cs t).map fun x => ({ core := c, first, parts } :: x.1, x.2)
    | none => reseatOn rooms cs (n :: t)

/-- Seats for a saved gang (R401): on the cores it left where it has Grotto space or belongs to a task, else on any cluster of its
die. -/
def State.seatsAgain (s : State) (rooms : Tab Room) (x : Gang) : Option (Nat × List Seat × Tab Room) :=
  let wgs := x.wgs.filterMap fun k => (Tab.get? s.wgs k).map fun y => (k, y)
  let ns := wgs.map fun k => s.seating k.1 k.2 x.kernel
  let fixed := 0 < x.kernel.grotto || (match x.source with | .task _ => true | .launch _ => false)
  let ok (r : List Seat × Tab Room) : Bool := s.bypassesFree (s.bypassKeys (wgs.map (·.1)) r.1)
  if fixed then
    (match reseatOn rooms (wgs.map (·.2.core)) ns with
     | some r => if ok r then some (((wgs.head?.map (·.2.core)).getD 0) / 4, r.1, r.2) else none
     | none => none)
  else
    let from_ := match (s.die x.die).lastCluster with | some c => c % 3 + 1 | none => 0
    ((List.range 3).map fun i => 3 * x.die + (from_ + i) % 3).findSome? fun cl =>
      match reseatOn rooms (clusterCores cl) ns with
      | some r => if ok r then some (cl, r.1, r.2) else none
      | none => none

/-- Seats for some gangs together, each after the cluster that has received the one before (18 R392). -/
def State.seatsTogether (s : State) (rooms : Tab Room) (gs : List Nat) : Option (List (Nat × Nat × List Seat)) :=
  match gs with
  | [] => some []
  | g :: t =>
    match (Tab.get? s.gangs g).bind fun x => (s.seatsAgain rooms x).map fun r => (x, r) with
    | some (x, cl, seats, rooms) => ((s.noteCluster x.die cl).seatsTogether rooms t).map fun xs => (g, cl, seats) :: xs
    | none => none

/-- The warps of a workgroup moved to a seat: bases unbound, issuing again. -/
def State.moveWarps (s : State) (k : Nat) (seat : Seat) (stopping : Bool) : State :=
  (((s.wgWarps k).map (·.1)).zip seat.parts).foldl (fun (s : State) p =>
    let slot := s.freeSlot seat.core p.2
    (s.modWarp p.1 fun w => { w with core := seat.core, part := p.2, slot, stopping,
                                     tbs := w.tbs.map fun t => (t.1, { t.2 with bound := false }) }).giveBypass p.1
      |>.wakeEngine seat.core p.2 ((s.warp? p.1).map (·.accs) |>.getD 0)) s

/-- Copies of a workgroup's warps that are not complete wait at the copy engine of a core. -/
def State.requeueCopies (s : State) (k core : Nat) : State :=
  let open_ := (s.wgWarps k).flatMap fun w => (w.2.pend.filter fun p => !p.done && (match p.body with | .copy _ => true | _ => false)).map fun p => (w.1, p.id)
  s.modCore core fun c => { c with copies := c.copies.filter (fun p => !open_.contains p) ++ open_ }

/-- A workgroup put in a seat. -/
def State.moveWg (s : State) (k : Nat) (seat : Seat) (stopping : Bool) : State :=
  ((s.modWg k fun x => { x with core := seat.core, firstGranule := seat.first, placedAt := s.timer }).moveWarps k seat stopping).requeueCopies k seat.core

/-- Saved gangs restored together (R393, R401); the second part is false while host halves stand in the way of an acquire. -/
def State.restore (s : State) (xs : List (Nat × Nat × List Seat)) : State × Bool :=
  match s.acquireCores (xs.flatMap fun x => x.2.2.map (·.core)) with
  | (s, false) => (s, false)
  | (s, true) =>
    (xs.foldl (fun (s : State) x =>
      let s : State := s.freeEntry x.1
      let wgs := match Tab.get? s.gangs x.1 with | some g => g.wgs | none => []
      let die := match Tab.get? s.gangs x.1 with | some g => g.die | none => 0
      let s : State := s.modGang x.1 fun g => { g with saved := none, copied := false, chunk := none, blocking := false, promoted := false }
      ((wgs.zip x.2.2).foldl (fun (s : State) p => s.moveWg p.1 p.2 false) s).noteCluster die x.2.1) s, true)

/-- The gangs restored with a saved one: all of a cooperative launch. -/
def State.restoreUnit (s : State) (g : Nat) (x : Gang) : List Nat :=
  match x.source with
  | .launch _ => if x.kernel.coop then (s.gangs.filter fun y => y.2.source = x.source).map (·.1) else [g]
  | .task _ => [g]

/-- A saved gang's seats, with those restored with it; none where they do not fit, or not all of them are saved. -/
def State.restorable (s : State) (g : Nat) : Option (List (Nat × Nat × List Seat)) :=
  match Tab.get? s.gangs g with
  | none => none
  | some x =>
    let gs := s.restoreUnit g x
    if gs.all fun k => match Tab.get? s.gangs k with | some y => y.saved.isSome && !y.victim | none => false then
      (s.seatsTogether s.rooms gs).filter fun xs => s.bypassesFree (xs.flatMap fun x =>
        s.bypassKeys (match Tab.get? s.gangs x.1 with | some y => y.wgs | none => []) x.2.2)
    else none

/-! ### Heat (R408, R409, 24 R490) -/

/-- A fragment warp or a tile kernel's warp of a RASTER task outside a workgroup: the tile's memory lies in the core on which all of them run (13
R294), so none of the workgroups moves alone (assumption 132). -/
def State.tileShared (s : State) (k : Nat) : Bool :=
  let mine (w : Warp) : Bool := w.stage = .rasterFragment || w.stage = .rasterTile
  s.warps.any fun w => w.2.wg = k && mine w.2 && s.warps.any fun v => v.2.wg ≠ k && mine v.2 && v.2.task = w.2.task

/-- A workgroup may be migrated (R408). -/
def State.migratable (s : State) (k : Nat) (x : Workgroup) : Bool :=
  match Tab.get? s.gangs x.gang with
  | none => false
  | some g =>
    let open_ := match g.source with | .task t => (match Tab.get? s.tasks t with | some y => !y.pinned | none => false) | .launch _ => false
    g.cls ≠ 0 && g.saved.isNone && !g.victim && !open_ && !s.tileShared k && !((s.wgWarps k).any fun w => w.2.holdsSection)

/-- Grotto units that move with a workgroup: its gang's on its core, and its tile's. -/
def State.heldUnits (s : State) (x : Workgroup) (g : Gang) : Nat :=
  let of (k : Nat) : Nat := (Tab.get? (s.core x.core).grotto k).getD 0
  of x.gang + (match g.source with | .task t => of t | .launch _ => 0)

/-- Where a workgroup could go: another core of its cluster without a workgroup of its gang, on which it fits with its Grotto units. -/
def State.migrationSeat (s : State) (k : Nat) (x : Workgroup) : Option Seat :=
  match Tab.get? s.gangs x.gang with
  | none => none
  | some g =>
    let units := s.heldUnits x g
    let cores := (clusterCores (clusterOf x.core)).filter fun c => c ≠ x.core && !((s.gangCores x.gang).contains c)
    cores.findSome? fun c => ((s.room c).reseat (s.seating k x g.kernel) units).bind fun r =>
      let seat : Seat := { core := c, first := r.1.1, parts := r.1.2 }
      if s.bypassesFree (s.bypassKeys [k] [seat]) then some seat else none

/-- The pages that a copy's global side touches: an address in each. -/
def Copy.pages (y : Copy) : List DWord :=
  (List.range y.rows).flatMap fun r =>
    let va := y.rowVa r
    va :: (List.range (y.rowbytes / 4096 + 1)).filterMap fun k =>
      let n := 4096 * (k + 1) - va.toNat % 4096
      if n < y.rowbytes then some (va + BitVec.ofNat 64 n) else none

/-- Copies on path C of a workgroup's warps into Grotto pages that have not completed (R409 step 1). -/
def State.grottoCopies (s : State) (k : Nat) (x : Workgroup) : Bool :=
  (s.wgWarps k).any fun w => w.2.pend.any fun p =>
    !p.done && (match p.body with
      | .copy c => c.dir = 1 && c.pages.any fun va => match s.findLeaf (dieOf x.core) w.2.ctx va with | some (leaf, _) => pteBit leaf 9 | none => false
      | _ => false)

/-- THERMAL_INTERVAL (R408, 24 R490): the temperature of a core's column in whole °C, once per 10 ms. A workgroup without copies into its Grotto
pages starts its migration at once; another's is deferred (R409). -/
def execThermalInterval (core celsius : Nat) (s : State) : Host.Outcome State Fault Refusal :=
  .next (
    if Config.cores ≤ core || (match (s.core core).sampled with | some t => s.timer < t + 10000000 | none => false) then s
    else
      let s : State := s.modCore core fun c => { c with sampled := some s.timer }
      let half := (s.core core).halfRate
      let note (s : State) (on : Nat) : State := s.log (dieOf core) 0x1C0 0x34 0xFF (core + 256 * (celsius % 256) + 65536 * on)
      let s : State :=
        if !half && 105 ≤ celsius then note (s.modCore core fun c => { c with halfRate := true }) 1
        else if half && celsius < 100 then note (s.modCore core fun c => { c with halfRate := false }) 0
        else s
      if celsius < 95 then s
      else
        let cands := s.wgs.filter fun g => g.2.core = core && s.migratable g.1 g.2
        let last := cands.foldl (fun (b : Option (Nat × Workgroup)) g => match b with
          | some y => if y.2.placedAt ≤ g.2.placedAt then some g else b
          | none => some g) none
        match last with
        | some (k, x) => if (Tab.get? s.moves k).isSome || (s.migrationSeat k x).isNone then s else { s with moves := Tab.set s.moves k (s.timer, !s.grottoCopies k x) }
        | none => s)

/-- A gang's column-class page moved from one core's Grotto to a frame of another's: bytes, leaf entry, translations, and what sleeping splits
watch. -/
def State.movePage (s : State) (g ctx frame ptepa new : Nat) : State :=
  let s : State := s.removeTlb fun e => e.ctx = ctx && pteFrame e.leaf = frame
  let inside (a : Nat) : Bool := frame ≤ a && a < frame + 4096
  let rest : Memory := s.mem.filter fun b => !inside b.1
  let s : State := { s with mem := rest.writeAll ((s.mem.filter fun b => inside b.1).map fun b => (new + (b.1 - frame), b.2)) }
  let moved := s.memBad.filter fun l => inside (128 * l.1)
  let s : State := { s with
    memBad := moved.foldl (fun (t : Tab (BitVec 128)) l => Tab.set t (new / 128 + (l.1 - frame / 128)) l.2) (s.memBad.filter fun l => !inside (128 * l.1)) }
  let s : State := s.homeAsk (.frame (match placeOf new with | .grotto c => dieOf c | _ => 0) ptepa frame new)
  let name (pa : Nat) : Nat := if inside (physOf pa) then pa - frame + new else pa
  let wait (y : Wait) : Wait := match y with
    | .served pa scope ticket => .served (name pa) scope ticket
    | .monitor pa scope cond ty slot b limit a => .monitor (name pa) scope cond ty slot b limit a
    | y => y
  let s : State := { s with warps := s.warps.map fun w =>
    (w.1, { w.2 with splits := w.2.splits.map fun k => (k.1, { k.2 with wait := wait k.2.wait }) }) }
  s.modGang g fun x => { x with pages := x.pages.map fun p => if p.1 = frame then (new, p.2) else p }

/-- Accesses of whichever warps that were admitted to a gang's pages on a core have still to be performed there: the page keeps its single copy
(10 R242). -/
def State.pagesBusy (s : State) (x : Gang) (core : Nat) : Bool :=
  (x.pages.filter fun p => placeOf p.1 = .grotto core).any fun p => s.framesBusy.contains p.1

/-- The pages of a gang on one core moved to another. -/
def State.movePages (s : State) (g ctx old new : Nat) (pages : List (Nat × Nat)) : State :=
  (pages.filter fun p => placeOf p.1 = .grotto old).foldl (fun (s : State) p =>
    let used := s.grottoUsed new
    let free := ((List.range 2048).map fun k => 0x4000000000000 + new * 2 ^ 23 + 4096 * k).filter fun f => !used.contains f
    match free[Config.freePage s.free % free.length]? with
    | some f => s.movePage g ctx p.1 p.2 f
    | none => s) s

/-- A drained workgroup moved to its seat (R409 steps 3 and 4). -/
def State.migrate (s : State) (k : Nat) (x : Workgroup) (g : Gang) (seat : Seat) : State :=
  let units := (Tab.get? (s.core x.core).grotto x.gang).getD 0
  let ws := (s.wgWarps k).map (·.1)
  let s : State := ws.foldl State.takeBypass s
  let s : State := s.modCore x.core fun c => { c with grotto := Tab.erase c.grotto x.gang, copies := c.copies.filter fun p => !ws.contains p.1 }
  let s : State := s.reserveGrotto seat.core x.gang units
  let s : State := s.movePages x.gang g.ctx x.core seat.core g.pages
  let s : State := match g.source with
    | .task t => (match (Tab.get? s.tasks t).bind fun y => (Tab.get? (s.core x.core).grotto t).map fun u => (y, u) with
      | some (y, u) =>
        let s : State := (s.modCore x.core fun c => { c with grotto := Tab.erase c.grotto t }).reserveGrotto seat.core t u
        { s with tasks := Tab.set s.tasks t { y with core := some seat.core } }
      | none => s)
    | .launch _ => s
  { s.moveWg k seat g.victim with moves := Tab.erase s.moves k }

/-- A workgroup that was to be migrated is not: what of it had stopped for that runs on. -/
def State.stayWg (s : State) (k : Nat) (victim : Bool) : State :=
  { ((s.wgWarps k).map (·.1)).foldl (fun (s : State) w => s.modWarp w fun y => { y with stopping := y.stopping && victim }) s with moves := Tab.erase s.moves k }

/-- MIGRATION (R409): a chosen workgroup whose copies into its Grotto pages are done within 50 µs, and that may still be migrated, stops,
drains, and moves; where it no longer fits it runs on. -/
def execMigration (wg : Nat) (s : State) : Host.Outcome State Fault Refusal :=
  .next (match Tab.get? s.wgs wg, Tab.get? s.moves wg with
    | some x, some (t, begun) =>
      (match Tab.get? s.gangs x.gang with
       | none => { s with moves := Tab.erase s.moves wg }
       | some g =>
         if !s.migratable wg x then s.stayWg wg g.victim
         else if !begun && t + 50000 ≤ s.timer then s.stayWg wg g.victim
         else if !begun && s.grottoCopies wg x then s
         else
           let ws := (s.wgWarps wg).map (·.1)
           let s : State := ws.foldl State.stopWarp { s with moves := Tab.set s.moves wg (t, true) }
           if !(ws.all s.drained) || s.pagesBusy g x.core then s
           else
             match s.migrationSeat wg x with
             | none => s.stayWg wg g.victim
             | some seat =>
               match (s.withdrawAll ws).cleanColumn x.core fun _ => true with
               | (s, false) => s
               | (s, true) =>
                 match s.acquireColumn seat.core with
                 | (s, false) => s
                 | (s, true) => s.migrate wg x g seat)
    | none, some _ => { s with moves := Tab.erase s.moves wg }
    | _, none => s)

/-- MIGRATION_ABANDON (R409 step 1): 50 µs after its deferral. -/
def execMigrationAbandon (wg : Nat) (s : State) : Host.Outcome State Fault Refusal :=
  .next (match Tab.get? s.wgs wg, Tab.get? s.moves wg with
    | some _, some (t, begun) => if !begun && t + 50000 ≤ s.timer then { s with moves := Tab.erase s.moves wg } else s
    | _, _ => s)

end Sys2Proof.Machine
end

