-- ==== Sys2Proof/Machine/Sched.lean ====
section
/-!
DEFINITION. The gang dispatchers (18 R389 to R394) and the deadlock watchdog (18 R404 to R406).
-/
namespace Sys2Proof.Machine

/-! ### Waiting (R390) -/

/-- The class that a waiting gang counts as: a promoted class-3 gang is treated as class 2. -/
def effClass (cls : Nat) (promoted : Bool) : Nat := if cls = 3 && promoted then 2 else cls

/-- Since when the gang that a number names waits, with its class and promotion: a launch's head gang, a saved gang. -/
def State.waiting (s : State) (id : Nat) : Option (Nat × Nat × Bool) :=
  match Tab.get? s.launches id, Tab.get? s.gangs id with
  | some l, _ => if l.next < l.kernel.grid then some (l.since, l.cls, l.promoted) else none
  | none, some x => if x.saved.isSome && !x.victim then some (x.victimAt, x.cls, x.promoted) else none
  | none, none => none

/-- The work of a graph that has waited since a time at the latest and satisfies a property. -/
def Graph.waited (g : Graph) (t : Nat) (p : Work → Bool) : List Work := (g.waits.filter fun x => x.2 ≤ t && p x.1).map (·.1)

/-- CLASS_WAIT_LIMIT (R390): a gang of class 1 or 2 that has waited 2 ms blocks lower classes on its die: a launch's head gang, a saved
gang, or gangs of a graph. -/
def execClassWaitLimit (gang : Nat) (s : State) : Host.Outcome State Fault Refusal :=
  .next (
    let mid (c : Nat) : Bool := c = 1 || c = 2
    let note (g : Graph) : Graph :=
      if s.timer < 2000000 then g
      else { g with blocking := (g.blocking ++ g.waited (s.timer - 2000000) fun w => mid (effClass g.cls (g.promoted.contains w))).eraseDups }
    match s.waiting gang with
    | none => { s with graphs := Tab.modify s.graphs gang note }
    | some (t, cls, p) =>
      if mid (effClass cls p) ∧ t + 2000000 ≤ s.timer then
        { s with launches := Tab.modify s.launches gang fun l => { l with blocking := true },
                 gangs := Tab.modify s.gangs gang fun g => { g with blocking := true } }
      else s)

/-- CLASS3_PROMOTION (R390): a class-3 gang that has waited 100 ms is treated as class 2. -/
def execClass3Promotion (gang : Nat) (s : State) : Host.Outcome State Fault Refusal :=
  .next (
    let note (g : Graph) : Graph :=
      if g.cls = 3 && 100000000 ≤ s.timer then { g with promoted := (g.promoted ++ g.waited (s.timer - 100000000) fun _ => true).eraseDups }
      else g
    match s.waiting gang with
    | none => { s with graphs := Tab.modify s.graphs gang note }
    | some (t, cls, _) =>
      if cls = 3 ∧ t + 100000000 ≤ s.timer then
        { s with launches := Tab.modify s.launches gang fun l => { l with promoted := true },
                 gangs := Tab.modify s.gangs gang fun g => { g with promoted := true } }
      else s)

/-- A launch's head gang is ready for a die (R389, R393). -/
def Launch.readyOn (l : Launch) (die : Nat) : Bool :=
  l.next < l.kernel.grid && (match l.headDie with | some d => d = die | none => true)

/-- The class below which nothing is placed on a die: that of its most urgent blocking gang. -/
def State.floorClass (s : State) (die : Nat) : Nat :=
  let ls := (s.launches.filter fun l => l.2.blocking && l.2.readyOn die).map fun l => effClass l.2.cls l.2.promoted
  let gs := s.graphs.flatMap fun g => ((s.graphWorks g.1 g.2 die).filter g.2.blocking.contains).map fun w =>
    effClass g.2.cls (g.2.promoted.contains w)
  let xs := (s.gangs.filter fun g => g.2.blocking && g.2.saved.isSome && g.2.die = die).map fun g => effClass g.2.cls g.2.promoted
  (ls ++ gs ++ xs).foldl min 3

/-! ### The choice (R390) -/

/-- What a slot would place next on a die. -/
inductive Next where
  | launch (id : Nat) (l : Launch)
  | graph (id : Nat) (g : Graph) (w : Work)

/-- A gang of a launch is saved: it comes before those that have not started (R394). -/
def State.launchSaved (s : State) (id : Nat) : Bool := s.gangs.any fun g => g.2.source = .launch id && g.2.saved.isSome

/-- The next gang of a slot in a class on a die: of its records in sequence, the first that has one ready. -/
def State.slotNext (s : State) (slot cls die : Nat) : Option Next :=
  let ls := (s.launches.filter fun l => l.2.slot = slot && effClass l.2.cls l.2.promoted = cls && l.2.readyOn die && !s.launchSaved l.1).map
    fun l => (l.2.seq, Next.launch l.1 l.2)
  let gs := s.graphs.filterMap fun g =>
    if g.2.slot = slot then
      (s.graphWork g.1 g.2 die fun w => effClass g.2.cls (g.2.promoted.contains w) = cls).map fun w => (g.2.seq, Next.graph g.1 g.2 w)
    else none
  ((ls ++ gs).foldl (fun (b : Option (Nat × Next)) x => match b with
    | some y => if x.1 < y.1 then some x else b
    | none => some x) none).map (·.2)

/-- What a gang of a launch starts with. -/
def launchStart (id : Nat) (l : Launch) (index die : Nat) : Start :=
  { kernel := l.kernel, source := .launch id, ctx := l.ctx, cls := l.cls, slot := l.slot, seq := l.seq, die,
    index := BitVec.ofNat 64 index, stage := .compute, task := none, args := l.kernel.args, units := l.kernel.grotto }

/-- The gangs of a cooperative launch seated in order. -/
def State.seatAll (s : State) (id : Nat) (l : Launch) (xs : List (Nat × Nat × List Seat)) : State × Bool :=
  (xs.zip (List.range xs.length)).foldl (fun (r : State × Bool) x =>
    if !r.2 then r
    else
      let (die, cl, seats) := x.1
      match r.1.seat (launchStart id l x.2 die) seats with
      | (s, some _) => (s.noteCluster die cl, true)
      | (s, none) => (s, false)) (s, true)

/-- A launch's next gang placed on a die, or all gangs of a cooperative launch (R392, R393). -/
def State.placeLaunch (s : State) (id : Nat) (l : Launch) (die : Nat) : Placing :=
  if l.kernel.coop then
    match s.coopFits l with
    | none => .no
    | some xs =>
      match s.acquireCores (xs.flatMap fun x => x.2.2.map (·.core)) with
      | (s, false) => .wait s
      | (s, true) =>
        let s : State := (s.seatAll id l xs).1
        .done { s with launches := Tab.modify s.launches id fun y => { y with next := l.kernel.grid, live := l.kernel.grid, blocking := false } }
  else
    match seatsOnDie s.rooms die (s.die die).lastCluster l.kernel l.kernel.grotto fun _ => true with
    | none => .no
    | some (cl, seats, _) =>
      match s.seat (launchStart id l l.next die) seats with
      | (s, none) => .wait s
      | (s, some _) =>
        let s : State := s.noteCluster die cl
        let s : State := { s with launches := Tab.modify s.launches id fun y => { y with next := y.next + 1, live := y.live + 1, blocking := false, promoted := false } }
        .done (if l.next + 1 < l.kernel.grid then s.readyHead id else s)

/-- What a slot would place next placed. -/
def State.placeNext (s : State) (n : Next) (die : Nat) : Placing :=
  match n with
  | .launch id l => s.placeLaunch id l die
  | .graph id g w => s.placeWork id g w

/-- Gangs that the placing of what comes next places: all of a cooperative launch (R393); none at the start of a RASTER tile, whose gangs
follow (17 R385). -/
def State.gangsOf (s : State) (n : Next) : Nat :=
  let raster (g : Graph) (k : Nat) : Bool := match g.passes[k]? with | some p => p.kind = 1 | none => false
  match n with
  | .launch _ l => if l.kernel.coop then l.kernel.grid else 1
  | .graph _ g (.tile k _) => if raster g k then 0 else 1
  | .graph _ g (.again t) => if (match Tab.get? s.tasks t with | some x => raster g x.pass | none => false) then 0 else 1
  | .graph .. => 1

/-- The saved gang to be restored first where a saved gang comes to its turn: of an independent launch's, that of the lowest index (R394,
R403); else the gang itself. -/
def State.firstSaved (s : State) (id : Nat) (x : Gang) : Nat :=
  match x.source with
  | .task _ => id
  | .launch _ =>
    if x.kernel.coop then id
    else (s.gangs.foldl (fun (b : Nat × DWord) g => if g.2.source = x.source && g.2.saved.isSome && g.2.index < b.2 then (g.1, g.2.index) else b) (id, x.index)).1

/-- The saved gangs of a class on a die, oldest save first, an independent launch's in ascending index. -/
def State.savedOf (s : State) (cls die : Nat) : List Nat :=
  let mine (g : Gang) : Bool := g.die = die && effClass g.cls g.promoted = cls && !g.victim
  let xs := s.gangs.filterMap fun g =>
    match g.2.saved with
    | some n => if mine g.2 then some (n, s.firstSaved g.1 g.2) else none
    | none => none
  (((xs.foldl (fun (l : Tab Nat) x => Tab.set l x.1 x.2) []).map (·.2)).eraseDups).filter fun k =>
    match Tab.get? s.gangs k with | some g => mine g | none => false

/-- The slots in the order of their turns in a class: the one whose turn lasts first. -/
def State.turnOrder (s : State) (cls die : Nat) : List Nat :=
  match Tab.get? (s.die die).turns cls with
  | none => List.range 32
  | some (t, n) =>
    let w := match Tab.get? s.slots t with | some x => x.weight | none => 0
    (List.range 32).map fun k => (t + (if n < w then 0 else 1) + k) % 32

/-- A slot has placed k gangs in its turn. -/
def State.noteTurn (s : State) (cls die slot k : Nat) : State :=
  s.modDie die fun d =>
    let n := match Tab.get? d.turns cls with
      | some (t, n) => if t = slot && n < (match Tab.get? s.slots t with | some x => x.weight | none => 0) then n + k else k
      | none => k
    { d with turns := Tab.set d.turns cls (slot, n) }

/-- One class tried on a die: saved gangs, then slots in turn. -/
def State.tryClass (s : State) (cls die : Nat) : Placing :=
  match (s.savedOf cls die).findSome? fun g => s.restorable g with
  | some xs => (match s.restore xs with | (s, true) => .done s | (s, false) => .wait s)
  | none =>
    (s.turnOrder cls die).foldl (fun (r : Placing) slot =>
      match r with
      | .no =>
        (match s.slotNext slot cls die with
         | none => .no
         | some n => match s.placeNext n die with
           | .done s' => .done (s'.noteTurn cls die slot (s.gangsOf n))
           | x => x)
      | r => r) .no

/-- DISPATCH_OPPORTUNITY (R390): one gang, or one cooperative launch, is placed: of the highest class that has one that can be. Throttled
dispatch places nothing (24 R489). -/
def execDispatchOpportunity (die : Nat) (s : State) : Host.Outcome State Fault Refusal :=
  .next (
    if 2 ≤ die ∨ 3 ≤ s.throttle then s
    else
      match (List.range (s.floorClass die + 1)).foldl (fun (r : Placing) c => match r with | .no => s.tryClass c die | r => r) .no with
      | .no => s
      | .wait s => s
      | .done s => s)

/-! ### The watchdog (R404 to R406) -/

/-- The watchdog's sub-cause of a wait on a device-internal condition. -/
def Wait.internal (x : Wait) : Option Nat :=
  match x with
  | .push .. => some 1
  | .pop .. => some 1
  | .served .. => some 2
  | .monitor pa scope .. => if externalMonitor pa scope then none else some 3
  | .counter .. => some 5
  | .matrix _ => some 6
  | .ordered _ => some 7
  | .ring .. => some 8
  | _ => none

/-- An operation of a core's warp waits for the token of a region (20 R449). -/
def State.waitsToken (s : State) (core : Nat) (p : PendOp) : Bool := !p.done && !p.toks.isEmpty && !s.hasTokens core p.toks

/-- The watchdog's sub-cause of what blocks a split of a warp: its wait; or, for one that stalls behind the warp's operations, the request for
a token that one of these waits for (R404, R406; assumption 134). -/
def State.blockedIn (s : State) (x : Warp) (sp : Split) : Option Nat :=
  match sp.wait with
  | .stall y =>
    if (match y with | .drain => true | .counter => true | .acquire => true | _ => false) && x.pend.any (s.waitsToken x.core) then some 8 else none
  | y => y.internal

/-- A wait on an external monitor. -/
def Wait.external (x : Wait) : Bool := match x with | .monitor pa scope .. => externalMonitor pa scope | _ => false

/-- Every live split of a warp waits so, or the warp is halted, which only a running halter ends (19 R434). -/
def Warp.allWait (x : Warp) (p : Split → Bool) : Bool := x.halted || x.splits.all fun k => k.2.live = 0 || p k.2

/-- A warp of a context that is on its core. -/
def State.residents (s : State) (ctx : Nat) : List (Nat × Warp) :=
  s.warps.filter fun w => w.2.ctx = ctx && (w.2.walker || s.seated w.2.gang)

/-- An operation that may still complete by itself: not one that is itself held at a queue or a ring. -/
def PendOp.inFlight (p : PendOp) : Bool :=
  !p.done && p.path.isSome && (match p.body with
    | .push _ _ _ _ arrived => !arrived
    | .emit _ _ recs _ => recs.isEmpty
    | _ => true)

/-- A graph of a context has a task that is not dispatched, or that the fixed-function units work on. -/
def State.graphOpen (s : State) (gid : Nat) (g : Graph) : Bool :=
  (g.failed.isNone && (!g.loaded || (List.range g.passes.length).any fun k => match g.passes[k]? with
    | some p => decide (p.taken.length < p.taskCount) || (p.kind = 4 && !(g.nextRecs p).isEmpty)
        || (match s.rasterOf gid k with | some r => (p.vertexAt r.vnext).isSome | none => false)
    | none => false))
    || s.tasks.any fun t => t.2.graph = gid && (t.2.st ≠ 1 || 0 < t.2.unplaced || t.2.gangs.isEmpty || t.2.frags.any fun f => f.st = 0 || f.st = 2)

/-- A token of a region of a context is about to pass to a core that waits for it (20 R450). -/
def State.passDue (s : State) (ctx : Nat) : Bool :=
  s.regions.any fun r => r.2.ctx = ctx && !r.2.waiting.isEmpty && !s.tokenFrozen r.2 &&
    (r.2.holder.isNone || r.2.lastWrite + 366 ≤ s.timer || r.2.waiting.any fun w => w.2 + 8000 ≤ s.timer)

/-- Something in a context could satisfy a device-internal condition (R404). -/
def State.couldSatisfy (s : State) (ctx : Nat) : Bool :=
  (s.warps.any fun w => w.2.ctx = ctx && w.2.pend.any fun p => p.inFlight && !s.waitsToken w.2.core p)
    || s.passDue ctx
    || (s.engines.any fun e => e.2.queue.any fun o => match s.warp? o.warp with | some x => x.ctx = ctx | none => false)
    || (s.gangs.any fun g => g.2.ctx = ctx && (g.2.saved.isSome || g.2.victim))
    || (s.launches.any fun l => l.2.ctx = ctx && l.2.next < l.2.kernel.grid)
    || (s.graphs.any fun g => g.2.ctx = ctx && s.graphOpen g.1 g.2)
    || s.slots.any fun x => x.2.ctx = ctx && ((x.2.enabled && x.2.tail ≠ x.2.fetched) || x.2.recs.any fun r => r.st = .fetched || r.st = .pendingLoad)

/-- The watchdog's conditions hold for a context (R405). -/
def State.stuck (s : State) (ctx : Nat) : Bool :=
  let ws := s.residents ctx
  !ws.isEmpty && (ws.all fun w => w.2.allWait fun x => (s.blockedIn w.2 x).isSome) && !s.couldSatisfy ctx

/-- A context is parked and every resident warp of it is blocked (R405). -/
def State.parked (s : State) (ctx : Nat) : Bool :=
  let ws := s.residents ctx
  (ws.any fun w => w.2.splits.any fun k => k.2.live ≠ 0 && k.2.wait.external)
    && ws.all fun w => w.2.allWait fun x => (s.blockedIn w.2 x).isSome || x.wait.external

/-- The contexts that have been admitted to a stack which has failed are killed (26 R504). -/
def State.killFailed (s : State) : State :=
  s.homes.foldl (fun (s : State) h =>
    if h.2.killing then
      ((List.range 32).foldl (fun (s : State) c => if h.2.admitted.getLsbD c then s.killContext c 0x11 else s) s).modHome h.1 fun x =>
        { x with killing := false }
    else s) s

/-- Before every act: contexts of failed stacks are killed (26 R504), and it is kept since when the conditions of the watchdog and of the
external wait hold (R405). -/
def State.watch (s : State) : State :=
  let s : State := s.killFailed
  let cs := (s.warps.map (·.2.ctx) ++ (s.ctxs.filter fun c => c.2.wdSince.isSome || c.2.xwSince.isSome).map (·.1)).eraseDups
  cs.foldl (fun (s : State) c =>
    let wd := s.stuck c
    let xw := s.parked c
    let x := s.ctx c
    if !wd && !xw && x.wdSince.isNone && x.xwSince.isNone then s
    else s.modCtx c fun x =>
      { x with wdSince := if wd then some (x.wdSince.getD s.timer) else none,
               xwSince := if xw then some (x.xwSince.getD s.timer) else none, xwDone := xw && x.xwDone }) s

/-- A period of ms has passed since a time at the last tick of 1 ms (R405). -/
def State.passed (s : State) (since : Option Nat) (ms : Nat) : Bool :=
  match since with
  | some t => ms ≠ 0 && t + 1000000 * ms ≤ s.timer / 1000000 * 1000000
  | none => false

/-- Every ordered section of a context released (13 R301). -/
def State.releaseSections (s : State) (ctx : Nat) : State :=
  (s.warps.filter fun w => w.2.ctx = ctx && w.2.holdsSection).foldl (fun (s : State) w => s.setSections w.1 (BitVec.allOnes 32) false) s

/-- WATCHDOG_FIRE (R406): every blocked live split of the context takes cause 0x14 at its instruction, its wait abandoned, its latches
invalid. -/
def execWatchdogFire (ctx : Nat) (s : State) : Host.Outcome State Fault Refusal :=
  .next (
    if 32 ≤ ctx || !s.stuck ctx || !s.passed (s.ctx ctx).wdSince (s.winNat (0x80C + 16 * ctx) 2) then s
    else
      let ws := s.residents ctx
      let hits := ws.flatMap fun w => w.2.splits.filterMap fun k =>
        if k.2.live = 0 then none else (s.blockedIn w.2 k.2).map fun sub => (w.1, k.1, sub, k.2.waitAt)
      let s : State := (ws.map (·.1)).foldl State.withdrawWaits (s.releaseSections ctx)
      let s : State := hits.foldl (fun (s : State) h =>
        (s.modWarp h.1 fun x => x.modSplit h.2.1 fun sp => { sp with latches := .empty }).waitTrap h.1 h.2.1
          { cause := 0x14, sub := h.2.2.1 } h.2.2.2) s
      s.modCtx ctx fun x => { x with wdSince := none })

/-- XWAIT_TIMEOUT (R405): once while a context stays parked. -/
def execXwaitTimeout (ctx : Nat) (s : State) : Host.Outcome State Fault Refusal :=
  .next (
    let x := s.ctx ctx
    if 32 ≤ ctx || x.xwDone || !s.parked ctx || !s.passed x.xwSince (s.winNat (0x80E + 16 * ctx) 2) then s
    else ((s.log 0 0x181 0x31 ctx 0).modCtx ctx fun x => { x with xwDone := true }).ctxEvent ctx 0)

end Sys2Proof.Machine
end

