-- ==== Sys2Proof/Machine/Raster.lean ====
section
/-!
DEFINITION. The raster pipeline (17 R376 to R385): clipping and set-up, coverage, depth and stencil tests, fragment warps, and the progress
of a tile through its sub-passes.
-/
namespace Sys2Proof.Machine

/-! ### Clipping (R377) -/

/-- A vertex of a primitive: clip position and attribute slots. -/
structure Vert where
  pos : List Word
  attrs : List (List Word)
deriving DecidableEq, Repr

/-- A component of a vertex's position as a rational. -/
def Vert.q (v : Vert) (k : Nat) : Q := (val32 (v.pos.getD k 0).toNat).toQ

/-- The signed distance of a vertex from a clip plane. -/
def Vert.dist (v : Vert) (plane : Nat) : Q :=
  match plane with
  | 0 => (v.q 0).add (v.q 3)
  | 1 => (v.q 3).sub (v.q 0)
  | 2 => (v.q 1).add (v.q 3)
  | 3 => (v.q 3).sub (v.q 1)
  | 4 => v.q 2
  | _ => (v.q 3).sub (v.q 2)

/-- p + t (q - p) rounded once. -/
def lerpWord (t : Q) (p q : Word) : Word :=
  let x := val32 p.toNat
  let y := val32 q.toNat
  if x.isNan || y.isNan || x.isInf || (y.isInf && t.n = 0) then 0x7FC00000
  else if y.isInf then q
  else BitVec.ofNat 32 (x.toQ.add (t.mul (y.toQ.sub x.toQ))).f32

/-- The new vertex on an edge from an inside vertex to an outside one. -/
def Vert.cut (p q : Vert) (plane : Nat) : Vert :=
  let dp := p.dist plane
  let t := dp.div (dp.sub (q.dist plane))
  { pos := p.pos.zipWith (lerpWord t) q.pos, attrs := p.attrs.zipWith (fun a b => a.zipWith (lerpWord t) b) q.attrs }

/-- A polygon clipped at one plane. -/
def clipPlane (plane : Nat) (vs : List Vert) : List Vert :=
  let inside (v : Vert) : Bool := (Q.ofInt 0).le (v.dist plane)
  (vs.zip (vs.drop 1 ++ vs.take 1)).flatMap fun e =>
    match inside e.1, inside e.2 with
    | true, true => [e.1]
    | true, false => [e.1, e.1.cut e.2 plane]
    | false, true => [e.2.cut e.1 plane]
    | false, false => []

/-- The triangles of a clipped triangle, fanned from the polygon's first vertex. -/
def clipTriangle (vs : List Vert) : List (List Vert) :=
  match (List.range 6).foldl (fun vs k => clipPlane k vs) vs with
  | v0 :: rest => (rest.zip (rest.drop 1)).map fun e => [v0, e.1, e.2]
  | [] => []

/-! ### Set-up (R378) -/

/-- The window coordinates of a vertex in 1/256 pixel. -/
def Pass.window (p : Pass) (v : Vert) : Int × Int :=
  let f (off : Nat) : Q := (val32 (p.rb off 4)).toQ
  let half : Q := { n := 1, d := 2 }
  let one := Q.ofInt 1
  let x := (f 16).add ((((v.q 0).div (v.q 3)).add one).mul ((f 24).mul half))
  let y := (f 20).add ((one.sub ((v.q 1).div (v.q 3))).mul ((f 28).mul half))
  ((x.mul (Q.ofInt 256)).rne, (y.mul (Q.ofInt 256)).rne)

/-- Twice the signed area of a triangle of window points. -/
def area2 (xs ys : List Int) : Int :=
  let x (k : Nat) : Int := xs.getD k 0
  let y (k : Nat) : Int := ys.getD k 0
  (x 1 - x 0) * (y 2 - y 0) - (x 2 - x 0) * (y 1 - y 0)

/-- A triangle set up; none where it is dropped. -/
def Pass.setup (p : Pass) (id : Nat) (vs : List Vert) : Option Prim :=
  let ws := vs.map p.window
  let xs := ws.map (·.1)
  let ys := ws.map (·.2)
  let a := area2 xs ys
  let cw := p.rb 4 1 % 2 = 1
  let front := if cw then decide (0 < a) else decide (a < 0)
  let cull := p.rb 4 1 / 2 % 4
  if a = 0 || (cull = 1 && !front) || (cull = 2 && front) then none
  else some { xs, ys, pos := vs.map (·.pos), attrs := vs.map (·.attrs), swapped := a < 0, front, id }

/-- A position that can be clipped and divided: finite, with some component not zero. -/
def posOk (ps : List Word) : Bool :=
  ps.length = 4 && ps.all (fun x => finite32 x.toNat) && ps.any fun x => !(val32 x.toNat).isZero

/-- A vertex of a batch; none where it has no position (13 R317), or none that can be used (assumption 41). -/
def vertOf (o : VertexOut) (natt : Nat) : Option Vert :=
  o.pos.bind fun ps =>
    let ps := if posOk ps then ps else Config.looseVertex ps
    let slot (n : Nat) : List Word :=
      (Tab.get? o.attrs n).getD ((List.range 4).map fun k => Config.missingAttr (4 * n + k))
    if posOk ps then some { pos := ps, attrs := (List.range natt).map slot } else none

/-- The vertices of a primitive word in a batch: none where no primitive is named, or a lane has no position (13 R317). -/
def primVerts (b : Tab VertexOut) (natt : Nat) (prim : Word) : Option (List Vert) :=
  if !prim.getLsbD 15 then none
  else
    let v (k : Nat) : Option Vert := (Tab.get? b (prim.toNat / 2 ^ (5 * k) % 32)).bind fun o => vertOf o natt
    match v 0, v 1, v 2 with
    | some x, some y, some z => some [x, y, z]
    | _, _, _ => none

/-- A clipped triangle whose vertices have a w to divide by. -/
def wOk (vs : List Vert) : Bool := vs.all fun v => !((v.q 3).n = 0)

/-- The triangles of a batch set up in lane order, from a primitive count: they keep their primitive's number. -/
def Pass.batchPrims (p : Pass) (b : Tab VertexOut) (count : Nat) : List Prim × Nat :=
  b.foldl (fun (r : List Prim × Nat) o =>
    match primVerts b (p.rb 5 1) o.2.prim with
    | none => r
    | some vs => (r.1 ++ ((clipTriangle vs).filter wOk).filterMap (p.setup r.2), r.2 + 1)) ([], count)

/-- Bytes of bin memory that some primitives take (R380; assumption 63). -/
def binSize (from_ n : Nat) : Nat := (List.range n).foldl (fun b k => b + Config.binBytes (from_ + k)) 0

/-- Bins written with the entries of a batch (R380): bytes of the part's own layout behind those in use (assumption 63). -/
def State.writeBins (s : State) (ctx base n : Nat) : State :=
  (List.range n).foldl (fun (s : State) k =>
    match s.unitName ctx (BitVec.ofNat 64 (base + k)) with
    | some pa => s.unitWrite [(pa, Config.binByte (s.free + k))]
    | none => s) s

/-- A bin flush is over: every running tile of the pass that is in the sub-pass has rasterised what was binned (R380; assumption 63). -/
def State.flushDone (s : State) (r : RasterPass) : Bool :=
  s.tasks.all fun t => !(t.2.graph = r.graph && t.2.pass = r.pass && t.2.st = 1 && t.2.phase = 0 && t.2.sub = r.sub) || r.flushed ≤ t.2.drawn

/-- A batch taken by the front end (R376): its primitives, of the numbers from `accepted`, join those of the sub-pass. -/
def RasterPass.take (r : RasterPass) (out : List Prim × Nat) (bytes batches : Nat) : RasterPass :=
  let prims := Tab.set r.prims r.sub ((Tab.get? r.prims r.sub).getD [] ++ out.1)
  let left := Tab.erase r.batches (r.sub * 2 ^ 48 + r.nextBatch)
  if r.nextBatch + 1 = batches then
    { r with sub := r.sub + 1, nextBatch := 0, accepted := 0, prims, batches := left, binned := 0, flushing := false, flushed := 0 }
  else { r with nextBatch := r.nextBatch + 1, accepted := out.2, prims, batches := left, binned := r.binned + bytes }

/-- FRONT_END_BATCH (R376, R380): the next batch in order, once it has been handed over, is set up and binned; where it no longer fits in
the bins, they are flushed first. pass: graph * 256 + pass. -/
def execFrontEndBatch (pass : Nat) (s : State) : Host.Outcome State Fault Refusal :=
  .next (match (Tab.get? s.rasters pass).bind fun r => (Tab.get? s.graphs r.graph).bind fun g => g.passes[r.pass]?.map fun p => (r, g, p) with
    | none => s
    | some (r, g, p) =>
      if r.flushing then
        if s.flushDone r then { s with rasters := Tab.set s.rasters pass { r with flushing := false, binned := 0 } } else s
      else
        match Tab.get? r.batches (r.sub * 2 ^ 48 + r.nextBatch), (if s.asleep (360 + p.die) then none else p.vkernels[r.sub]?) with
        | some b, some k =>
          let out := p.batchPrims b r.accepted
          let old := ((Tab.get? r.prims r.sub).getD []).length
          let bytes := binSize old out.1.length
          if 0 < r.binned ∧ p.rb 48 4 < r.binned + bytes then
            { s with rasters := Tab.set s.rasters pass { r with flushing := true, flushed := old } }
          else
            let s : State := s.writeBins g.ctx (p.rb 40 8 + r.binned) (min bytes (p.rb 48 4 - r.binned))
            { s with rasters := Tab.set s.rasters pass (r.take out bytes (p.vgrid r.sub * k.gang * k.warps)) }
        | _, _ => s)

/-! ### Coverage (R381) -/

/-- Sample positions in 1/16 pixel. -/
def samplePos (samples k : Nat) : Nat × Nat :=
  let t : List (Nat × Nat) :=
    match samples with
    | 1 => [(8, 8)]
    | 2 => [(4, 4), (12, 12)]
    | 4 => [(6, 2), (14, 6), (2, 10), (10, 14)]
    | _ => [(1, 7), (5, 3), (9, 13), (13, 9), (3, 11), (7, 15), (11, 1), (15, 5)]
  t.getD k (8, 8)

/-- A point of a pixel in 1/256 pixel. -/
def pixelPoint (x y : Nat) (at_ : Nat × Nat) : Int × Int := (256 * x + 16 * at_.1, 256 * y + 16 * at_.2)

/-- A point is covered with respect to one edge of the oriented triangle. -/
def edgeCovers (a b p : Int × Int) : Bool :=
  let e := (b.1 - a.1) * (p.2 - a.2) - (b.2 - a.2) * (p.1 - a.1)
  decide (0 < e) || (decide (e = 0) && ((decide (b.2 = a.2) && decide (a.1 < b.1)) || decide (b.2 < a.2)))

/-- A primitive covers a point. -/
def Prim.covers (t : Prim) (p : Int × Int) : Bool :=
  let v (k : Nat) : Int × Int := (t.xs.getD k 0, t.ys.getD k 0)
  let b := if t.swapped then v 2 else v 1
  let c := if t.swapped then v 1 else v 2
  edgeCovers (v 0) b p && edgeCovers b c p && edgeCovers c (v 0) p

/-! ### Interpolation (R379, R384) -/

/-- The exact screen-space weights of a point. -/
def Prim.weights (t : Prim) (p : Int × Int) : List Q :=
  let x (k : Nat) : Int := t.xs.getD k 0
  let y (k : Nat) : Int := t.ys.getD k 0
  let a := Q.ofInt (area2 t.xs t.ys)
  let l1 := (Q.ofInt ((p.1 - x 0) * (y 2 - y 0) - (x 2 - x 0) * (p.2 - y 0))).div a
  let l2 := (Q.ofInt ((x 1 - x 0) * (p.2 - y 0) - (p.1 - x 0) * (y 1 - y 0))).div a
  [((Q.ofInt 1).sub l1).sub l2, l1, l2]

/-- A component of a vertex's clip position. -/
def Prim.comp (t : Prim) (v k : Nat) : Q := (val32 ((t.pos.getD v []).getD k 0).toNat).toQ

/-- Sum over the vertices. -/
def sum3 (f : Nat → Q) : Q := ((f 0).add (f 1)).add (f 2)

/-- The window depth at a point: rounded once and clamped to [0, 1]. -/
def Prim.depth (t : Prim) (p : Int × Int) : Nat :=
  let ls := t.weights p
  let z := (sum3 fun k => (ls.getD k (Q.ofInt 0)).mul ((t.comp k 2).div (t.comp k 3))).f32
  min32 (max32 z 0) one32

/-- b1, b2 and 1/w at a point. -/
def Prim.bary (t : Prim) (p : Int × Int) : Nat × Nat × Nat :=
  let ls := t.weights p
  let f (k : Nat) : Q := (ls.getD k (Q.ofInt 0)).div (t.comp k 3)
  let d := sum3 f
  (((f 1).div d).f32, ((f 2).div d).f32, d.f32)

/-- a0 + b1 (a1 - a0) + b2 (a2 - a0), exact and rounded once. -/
def attrAt (b1 b2 a0 a1 a2 : Nat) : Nat :=
  let x := val32 a0
  let u := val32 b1
  let v := val32 b2
  (roundTo .f32 (sumAll 0 [x, u.mul (val32 a1), u.mul x.negate, v.mul (val32 a2), v.mul x.negate]) 0 false false).1

/-! ### Depth and stencil (R379, R382) -/

/-- A stencil operation on 8 bits. -/
def stencilOp (op old ref : Nat) : Nat :=
  match op with
  | 0 => old
  | 1 => 0
  | 2 => ref
  | 3 => min 255 (old + 1)
  | 4 => old - 1
  | 5 => 255 - old
  | 6 => (old + 1) % 256
  | _ => (old + 255) % 256

/-- The test and write of one sample as one act: whether it passes, and the tile memory. -/
def Pass.testSample (p : Pass) (ts x y smp z : Nat) (m : Memory) : Bool × Memory :=
  match p.dsatt with
  | none => (true, m)
  | some a =>
    let f := p.attFormat a
    let off := sampleOff p ts a x y smp
    let raw := m.readNat off 4
    let ctl := p.rb 64 1
    let cmp (u v : Nat) : Bool := cmpHolds (ctl % 8) (ofInt32 u) (ofInt32 v)
    let new := if f = 0x10 then z else unormEncode 24 z
    let old := if f = 0x10 then raw else raw % 2 ^ 24
    let st := if f = 0x10 then Config.missingStencil.toNat else raw / 2 ^ 24
    let rmask := p.rb 66 1
    let wmask := p.rb 67 1
    let sp := ctl / 32 % 2 = 0 || cmp (p.rb 65 1 &&& rmask) (st &&& rmask)
    let zp := ctl / 16 % 2 = 0 || (if f = 0x10 then cmpHolds (ctl % 8) new old else cmp new old)
    let op := if !sp then p.rb 68 1 else if !zp then p.rb 69 1 else p.rb 70 1
    let st' := (st &&& (255 - wmask)) ||| (stencilOp op st (p.rb 65 1) &&& wmask)
    let d := if sp && zp && ctl / 8 % 2 = 1 then new else old
    (sp && zp, m.writeAll (cellsOf off 4 (if f = 0x10 then d else d + 2 ^ 24 * st')))

/-- The covered samples of a fragment tested in order; those that fail are cleared. -/
def Pass.testFrag (p : Pass) (ts tx ty : Nat) (t : Prim) (f : Frag) (m : Memory) : Nat × Memory :=
  (List.range p.samples).foldl (fun (r : Nat × Memory) k =>
    if f.cover.testBit k then
      let at_ := pixelPoint (tx * ts + f.x) (ty * ts + f.y) (samplePos p.samples k)
      let q := p.testSample ts f.x f.y k (t.depth at_) r.2
      (if q.1 then r.1 + 2 ^ k else r.1, q.2)
    else r) (0, m)

/-- EARLY and PERSAMPLE of a sub-pass. -/
def Pass.early (p : Pass) (k : Nat) : Bool := p.rb (640 + 32 * k + 20) 1 % 2 = 1
/-- PERSAMPLE. -/
def Pass.perSample (p : Pass) (k : Nat) : Bool := p.rb (640 + 32 * k + 20) 1 / 2 % 2 = 1

/-! ### Rasterisation (R380, R381) -/

/-- The 2 × 2-aligned quads of a tile, each with its four pixels in lane order (R383). -/
def tileQuads (ts : Nat) : List (List (Nat × Nat)) :=
  (List.range (ts / 2)).flatMap fun j => (List.range (ts / 2)).map fun i =>
    [(2 * i, 2 * j), (2 * i + 1, 2 * j), (2 * i, 2 * j + 1), (2 * i + 1, 2 * j + 1)]

/-- The coverage of a pixel of a tile: none outside the scissor. -/
def Pass.cover (p : Pass) (ts tx ty x y : Nat) (t : Prim) : Nat :=
  let px := tx * ts + x
  let py := ty * ts + y
  if px < p.rb 32 2 || py < p.rb 34 2 || p.rb 36 2 ≤ px || p.rb 38 2 ≤ py then 0
  else (List.range p.samples).foldl (fun n k => if t.covers (pixelPoint px py (samplePos p.samples k)) then n + 2 ^ k else n) 0

/-- The fragments of a primitive on a tile without numbers: pixel, shaded sample, coverage. They stand quad by quad, and with PERSAMPLE
within a quad sample by sample, so that the fragments that one warp takes together (R383) are neighbours in the sequence (13 R299). -/
def Pass.fragsOf (p : Pass) (ts tx ty sub : Nat) (t : Prim) : List (Nat × Nat × Option Nat × Nat) :=
  (tileQuads ts).flatMap fun quad =>
    let cs := quad.map fun q => (q.1, q.2, p.cover ts tx ty q.1 q.2 t)
    if p.perSample sub then
      (List.range p.samples).flatMap fun k => (cs.filter fun c => c.2.2.testBit k).map fun c => (c.1, c.2.1, some k, 2 ^ k)
    else (cs.filter fun c => c.2.2 ≠ 0).map fun c => (c.1, c.2.1, none, c.2.2)

/-- A primitive rasterised on a tile, its early tests performed (R382). -/
def Pass.rasterPrim (p : Pass) (ts tx ty sub i : Nat) (t : Prim) (x : Task) : Task :=
  (p.fragsOf ts tx ty sub t).foldl (fun (x : Task) q =>
    let f : Frag := { seq := x.nextSeq, x := q.1, y := q.2.1, smp := q.2.2.1, cover := q.2.2.2, prim := i, st := 0, discarded := false,
                      holds := false, released := false }
    let r := if p.early sub then p.testFrag ts tx ty t f x.tm else (f.cover, x.tm)
    if r.1 = 0 then { x with tm := r.2 }
    else { x with tm := r.2, frags := x.frags ++ [{ f with cover := r.1 }], nextSeq := x.nextSeq + 1 }) x

/-- The sub-pass of a tile is over: the next one, the tile kernel, or the stores (R385). -/
def Task.advance (x : Task) (p : Pass) : Task :=
  let x : Task := { x with sub := x.sub + 1, rastered := false, drawn := 0, frags := [] }
  if x.sub < p.nsub then x
  else if p.kernel.isSome then { x with phase := 1, left := p.tgangs }
  else { x with phase := 2, st := 2 }

/-- The primitives of a sub-pass that a tile may rasterise (R380): all of them once every batch has been handed over, else those that bin
flushes have let through. -/
def RasterPass.open_ (r : RasterPass) (sub : Nat) : Nat :=
  if sub < r.sub then ((Tab.get? r.prims sub).getD []).length else if sub = r.sub then r.flushed else 0

/-- SUBPASS_RASTERISE (R380, R385): a tile rasterises its sub-pass once every batch has been handed over, and what a bin flush lets through
before; it goes on once every fragment of it is done. -/
def execSubpassRasterise (task : Nat) (s : State) : Host.Outcome State Fault Refusal :=
  .next (match (Tab.get? s.tasks task).bind fun x => (s.taskPass x).bind fun y => (s.rasterOf x.graph x.pass).map fun r => (x, y.1, y.2, r) with
    | none => s
    | some (x, g, p, r) =>
      if p.kind ≠ 1 || x.st ≠ 1 || x.phase ≠ 0 then s
      else if x.rastered then
        if x.gangs.isEmpty && x.frags.all fun f => f.st = 3 then
          ({ s with tasks := Tab.set s.tasks task (x.advance p) } : State).noteWork x.graph
        else s
      else if r.sub ≤ x.sub ∧ r.open_ x.sub ≤ x.drawn then s
      else
        let prims := ((Tab.get? r.prims x.sub).getD []).take (r.open_ x.sub)
        let y := ((prims.zip (List.range prims.length)).drop x.drawn).foldl (fun (y : Task) q =>
          p.rasterPrim (passTs g p) (x.tile % p.gx) (x.tile / p.gx) x.sub q.2 q.1 y) { x with rastered := x.sub < r.sub, drawn := prims.length }
        { s with tasks := Tab.set s.tasks task y })

/-! ### Fragment warps (R383, R384) -/

/-- Two fragments are of one quad of one triangle and one sample. -/
def Frag.sameQuad (a b : Frag) : Bool := a.prim = b.prim && a.x / 2 = b.x / 2 && a.y / 2 = b.y / 2 && a.smp = b.smp

/-- Fragments taken into a warp in sequence, at most eight quads, no pixel twice (13 R299). -/
def takeQuads (fs : List Frag) (got : List (List Frag)) (fuel : Nat) : List (List Frag) :=
  match fuel, fs with
  | 0, _ => got
  | _, [] => got
  | n + 1, f :: t =>
    let quad := f :: t.takeWhile fun g => g.sameQuad f
    let clash := quad.any fun a => got.any fun q => q.any fun b => a.x = b.x && a.y = b.y
    if 8 ≤ got.length || clash then got else takeQuads (t.dropWhile fun g => g.sameQuad f) (got ++ [quad]) n

/-- The lane of a fragment in quad q. -/
def Frag.lane (f : Frag) (q : Nat) : Nat := 4 * q + f.x % 2 + 2 * (f.y % 2)

/-- Where a fragment is shaded: its sample, else the pixel's centre where that is covered, else its lowest covered sample. -/
def Frag.point (f : Frag) (p : Pass) (ts tx ty : Nat) (t : Prim) : Int × Int :=
  let at_ (k : Nat) : Int × Int := pixelPoint (tx * ts + f.x) (ty * ts + f.y) (samplePos p.samples k)
  let centre := pixelPoint (tx * ts + f.x) (ty * ts + f.y) (8, 8)
  match f.smp with
  | some k => at_ k
  | none => if t.covers centre then centre else at_ (((List.range p.samples).find? fun k => f.cover.testBit k).getD 0)

/-- The values staged for a fragment's lane (R384). -/
def Frag.staged (f : Frag) (p : Pass) (ts tx ty lane : Nat) (t : Prim) : List (Nat × Byte) :=
  let at_ := f.point p ts tx ty t
  let b := t.bary at_
  let word (off v : Nat) : List (Nat × Byte) := cellsOf off 4 v
  let a (v n k : Nat) : Nat := (((t.attrs.getD v []).getD n []).getD k 0).toNat
  let flat (n : Nat) : Bool := (p.rb 8 4).testBit n
  word (16 * lane) b.1 ++ word (16 * lane + 4) b.2.1 ++ word (16 * lane + 8) (t.depth at_) ++ word (16 * lane + 12) b.2.2
    ++ (List.range (p.rb 5 1)).flatMap fun n => (List.range 4).flatMap fun k =>
      word (0x200 + 512 * n + 16 * lane + 4 * k) (if flat n then a 0 n k else attrAt b.1 b.2.1 (a 0 n k) (a 1 n k) (a 2 n k))

/-- What the lane of a fragment shades. -/
def Frag.laneOf (f : Frag) (t : Prim) : FragLane :=
  { x := f.x, y := f.y, smp := f.smp.getD 0, cover := f.cover, prim := t.id, front := t.front, seq := f.seq, depth := [], holds := false }

/-- The warp of a fragment gang filled: lanes without a fragment have exited. -/
def State.fillFragments (s : State) (gang : Nat) (lanes : List (Nat × Frag × Prim)) : State :=
  (s.gangWarps gang).foldl (fun (s : State) w => s.modWarp w fun x =>
    { x.exitLanes (~~~(maskOf (lanes.map (·.1)))) none with
      frags := lanes.foldl (fun (m : Tab FragLane) l => Tab.set m l.1 (l.2.1.laneOf l.2.2)) [] }) s

/-- FRAGMENT_WARP_START (R383, R384): the next quads of a tile's sequence, on the tile's core. -/
def execFragmentWarpStart (task : Nat) (s : State) : Host.Outcome State Fault Refusal :=
  .next (match (Tab.get? s.tasks task).bind fun x => (s.taskPass x).bind fun y => (s.rasterOf x.graph x.pass).map fun r => (x, y.1, y.2, r) with
    | none => s
    | some (x, g, p, r) =>
      let saved := x.gangs.any fun k => match Tab.get? s.gangs k with | some y => y.victim || y.saved.isSome | none => false
      match p.fkernels[x.sub]?, x.core with
      | some k, some core =>
        if p.kind ≠ 1 || x.st ≠ 1 || x.phase ≠ 0 || saved || 3 ≤ s.throttle then s
        else
          let ts := passTs g p
          let tx := x.tile % p.gx
          let ty := x.tile / p.gx
          let prims := (Tab.get? r.prims x.sub).getD []
          let quads := takeQuads (x.frags.filter fun f => f.st = 0) [] (x.frags.length + 1)
          let lanes := ((quads.zip (List.range quads.length)).flatMap fun q => q.1.filterMap fun f =>
            prims[f.prim]?.map fun t => (f.lane q.2, f, t))
          if lanes.isEmpty then s
          else
            let sp : Memory := lanes.foldl (fun (m : Memory) l => m.writeAll (l.2.1.staged p ts tx ty l.1 l.2.2)) []
            let y := { taskStart g p k task (Config.fragmentIndex s.free).toNat .rasterFragment 0 with
              tx, ty, g8 := lanes.length, g9 := x.sub }
            (match s.seatGang y (fun c => c = core) sp with
             | .no => s
             | .wait s => s
             | .done s id _ =>
               let seqs := lanes.map (·.2.1.seq)
               let start (f : Frag) : Frag := if seqs.contains f.seq then { f with st := 1 } else f
               let s : State := { s with tasks := Tab.modify s.tasks task fun x => { x with gangs := x.gangs ++ [id], frags := x.frags.map start } }
               s.fillFragments id lanes)
      | _, _ => s)

/-- LATE_TEST (R382): the fragment of lowest sequence number whose lane has ended and whose samples no earlier fragment still has to test.
With EARLY, or after DISCARD, there is no test. -/
def execLateTest (task : Nat) (s : State) : Host.Outcome State Fault Refusal :=
  .next (match (Tab.get? s.tasks task).bind fun x => (s.taskPass x).bind fun y => (s.rasterOf x.graph x.pass).map fun r => (x, y.1, y.2, r) with
    | none => s
    | some (x, g, p, r) =>
      let free (f : Frag) : Bool := x.frags.all fun h => !(h.seq < f.seq && h.x = f.x && h.y = f.y && (h.cover &&& f.cover) ≠ 0) || h.st = 3
      match x.frags.find? fun f => f.st = 2 && (p.early x.sub || f.discarded || free f) with
      | none => s
      | some f =>
        let t := ((Tab.get? r.prims x.sub).getD [])[f.prim]?
        let tm := match t with
          | some t => if p.early x.sub || f.discarded then x.tm else (p.testFrag (passTs g p) (x.tile % p.gx) (x.tile / p.gx) t f x.tm).2
          | none => x.tm
        let done (h : Frag) : Frag := if h.seq = f.seq then { h with st := 3 } else h
        { s with tasks := Tab.set s.tasks task { x with tm, frags := x.frags.map done } })

end Sys2Proof.Machine
end

