-- ==== Sys2Proof/Machine/Link.lean ====
section
/-!
DEFINITION. The CXL link: host reads and writes of device memory, back-invalidation responses, snoops of host lines, link training (22 R469
to R478), peer apertures (R479), and the display heads (R482, R483).
-/
namespace Sys2Proof.Machine

/-! ### Host requests to device memory (R473 to R476) -/

/-- A back-invalidation of a line that the host has not answered, or whose requester has still to be served, goes before a host request for
the line (R475). -/
def State.hostConflict (s : State) (line : Nat) : Bool := s.snoops.any fun p => p.line = line && (!p.answered || s.stillAsks p.asker)

/-- A host request of a line is served: its count of yields and its reservation end (R475). -/
def State.hostServed (s : State) (line : Nat) : State := { s with yields := Tab.erase s.yields line }

/-- The region with a token away from home that a physical address lies in. -/
def State.tokenOf (s : State) (pa : Nat) : Option Nat :=
  (s.physRegion pa).filter fun r => match Tab.get? s.regions r with | some x => x.holder.isSome | none => false

/-- The bytes of a half under its mask. -/
def halfCells (pa : Nat) (mask : BitVec 64) (data : BitVec 512) : List (Nat × Byte) :=
  ((List.range 64).filter fun k => mask.getLsbD k).map fun k => (pa / 64 * 64 + k, data.extractLsb' (8 * k) 8)

/-- Bytes of one line that the host writes, at the home. -/
def State.hostPut (s : State) (line : Nat) (bs : List (Nat × Byte)) : State :=
  let md := lineOfBytes bs
  s.homeWrite line md.1 md.2

/-- A host read served: the half is the host's, in S or in E, and its bytes are sent; those of a line with an uncorrectable error go
as CXL poison (26 R502, R503). -/
def State.hostRead (s : State) (pa : Nat) (exclusive : Bool) : State :=
  let line := pa / 128
  if (s.errEntry line).isSome || s.memMark (pa / 64 * 64) 64 ≠ 0 then s.send (.read pa none)
  else
    ({ s with hostHalf := Tab.set s.hostHalf (pa / 64) (if exclusive then 2 else max 1 ((Tab.get? s.hostHalf (pa / 64)).getD 0)) } : State).send
      (.read pa (some (halfOf (s.homeLine line).1 (pa / 64 % 2 = 1))))

/-- A host write performed at the home after the token is back (20 R450); false while that is under way. -/
def State.hostWrite (s : State) (pa : Nat) (mask : BitVec 64) (data : BitVec 512) : State × Bool :=
  match (match s.tokenOf pa with | some r => s.passToken r none | none => (s, true)) with
  | (s, false) => (s, false)
  | (s, true) => (s.hostPut (pa / 128) (halfCells pa mask data), true)

/-- A host request tried (R475, R476): what the cluster units hold of the line is recalled first, and its count of yields ends with it; false
while it has to wait. -/
def State.hostTry (s : State) (r : HomeReq) : State × Bool :=
  let line := r.line
  if s.hostConflict line || !(({ s with homeQ := [] } : State).refused line).isEmpty || s.homeStalls r then (s, false)
  else
    let way := s.recallHeld line none
    if !way.isEmpty then (s.sendSnoops way true, false)
    else
      let s := s.recall line none
      match r with
      | .hostRead pa exclusive => ((s.hostRead pa exclusive).hostServed line, true)
      | .hostWrite pa mask data =>
        (match s.hostWrite pa mask data with
         | (s, true) => (s.hostServed line, true)
         | a => a)
      | _ => (s, true)

/-- A request at the place of the queue tried: those of one line are served in their order (11 R248). -/
def State.homeServe (s : State) (n : Nat) : State :=
  let s : State := { s with asker := 0 }
  match s.homeQ[n]? with
  | none => s
  | some r =>
    if (s.homeQ.take n).any fun q => s.sameLine q.line r.line then s
    else
      let take (s : State) : State := { s with homeQ := s.homeQ.eraseIdx n }
      match r with
      | .hostRead .. | .hostWrite .. => (match s.hostTry r with | (s, true) => take s | (s, false) => s)
      | _ =>
        let way := ({ s with homeQ := [] } : State).homeWay r
        if s.homeStalls r then s
        else if !way.isEmpty then s.sendSnoops way
        else take (s.homeDo r)

/-- A host request reaches a home slice: it is tried, and waits where it has to; one that meets a back-invalidation has yielded (R475). -/
def State.hostAsk (s : State) (r : HomeReq) : State :=
  let wait (s : State) : State := { s with homeQ := s.homeQ ++ [r] }
  if s.homeQ.any fun q => s.sameLine q.line r.line then wait s
  else if s.hostConflict r.line then wait (s.hostYields r.line)
  else match s.hostTry r with
    | (s, true) => s
    | (s, false) => wait s

/-- What a host request to a device physical address meets: nothing while CXL.mem does not run (R470); a home slice; or an answer at once, during
a start (25 R494), for a hole, a stack without an owner and a failed one (R469, 26 R504). -/
def State.hostMeets (s : State) (pa : Nat) : Option Bool :=
  if !s.linkFull || 2 ^ 37 ≤ pa then none
  else if s.mgmt.phase ≠ .running then some false
  else match placeOf pa with
    | .stack n => some ((s.home n).owner.owner ≠ 2 && !(s.home n).failed)
    | _ => some false

/-- HOST_MEM_READ (R473, R475, R476); what cannot be reached is completed with poison (R469). -/
def execHostMemRead (pa : Nat) (exclusive : Bool) (s : State) : Host.Outcome State Fault Refusal :=
  .next (match s.hostMeets pa with
    | none => s
    | some false => s.send (.read pa none)
    | some true => s.hostAsk (.hostRead pa exclusive))

/-- The CXL.cache state in which a line holds the half of an address. -/
def Line.half (l : Line) (pa : Nat) : Nat := if pa / 64 % 2 = 0 then l.h0 else l.h1

/-- A half of host memory that a column, a cluster unit or the port unit holds (11 R244, R477, R478). -/
def State.deviceHolds (s : State) (pa : Nat) : Bool :=
  s.port.contains (pa / 64) || (s.cores.any fun c => c.2.lines.any fun l => physKey l.1 = pa / 128 && l.2.half pa ≠ 0)
    || s.clusters.any fun c => c.2.any fun l => l.1 = pa / 128 && l.2.half pa ≠ 0

/-- HOST_MEM_WRITE (R475, R476, 20 R450); what cannot be reached is completed and discarded. A write of the host to its own memory is its own
affair once the part holds no copy of the half. -/
def execHostMemWrite (pa : Nat) (mask : BitVec 64) (data : BitVec 512) (s : State) : Host.Outcome State Fault Refusal :=
  .next (match placeOf pa with
    | .host => if s.deviceHolds pa then s else s.putBytes (halfCells pa mask data)
    | _ =>
      match s.hostMeets pa with
      | some true => s.hostAsk (.hostWrite pa mask data)
      | _ => s)

/-- BIRSP (R474): the host's dirty bytes go to the home, and the half to I or S; the request that asked comes before the host's own. -/
def execBirsp (line half : Nat) (mask : BitVec 64) (data : BitVec 512) (s : State) : Host.Outcome State Fault Refusal :=
  .next (match s.snoops.find? fun p => p.line = line && p.half = half && !p.answered with
    | none => s
    | some p =>
      let key := 2 * line + half
      let s : State := if Tab.get? s.hostHalf key = some 2 then s.hostPut line (halfCells (64 * key) mask data) else s
      let mine (q : Snoop) : Bool := q.line = line && q.half = half
      { s with snoops := if s.stillAsks p.asker then s.snoops.map fun q => if mine q then { q with answered := true } else q
                         else s.snoops.filter fun q => !mine q,
               hostHalf := if p.inv then Tab.erase s.hostHalf key else if (Tab.get? s.hostHalf key).isSome then Tab.set s.hostHalf key 1 else s.hostHalf })

/-! ### Snoops of host lines (R469, R477, R478) -/

/-- A host line after a snoop of the half of an address to a state: its dirty bytes of the half, and the line, none where it holds no half
any more. -/
def Line.snoop (l : Line) (pa st : Nat) : BitVec 128 × Option Line :=
  let hi := pa / 64 % 2 = 1
  let half : BitVec 128 := maskRange (if hi then 64 else 0) 64
  let out : Line := { l with dirty := l.dirty &&& ~~~half, h0 := if hi then l.h0 else min st l.h0, h1 := if hi then min st l.h1 else l.h1 }
  (l.dirty &&& half, if out.h0 = 0 ∧ out.h1 = 0 then none else some out)

/-- The bytes of a half supplied to a snoop (R469). -/
def State.supply (s : State) (pa : Nat) (d : BitVec 1024) : State := s.send (.snooped pa (halfOf d (pa / 64 % 2 = 1)))

/-- A snoop of a half of a host line in one place: dirty bytes are supplied, then the half's state is set. -/
def State.snoopLine (s : State) (pa st : Nat) (l : Line) (set : State → Option Line → State) : State :=
  let r := l.snoop pa st
  set (if r.1 = 0 then s else (s.supply pa l.data).homeMerge (pa / 128) { l with dirty := r.1 }) r.2

/-- The lines of a column that hold a line of host memory, one for each alias. -/
def State.hostLines (s : State) (core pa : Nat) : List (Nat × Line) := (s.core core).lines.filter fun l => physKey l.1 = pa / 128

/-- A snoop acts on one half of the host lines of a column. Numbers from 24 on name the port unit, which gives the half up once no atomic is
at it (R478), and the six cluster units (11 R244). -/
def State.snoopHalf (s : State) (agent pa st : Nat) : State :=
  let key := pa / 128
  if !hostKey key then s
  else if agent = Config.cores then
    if s.atomicBusy key || !s.port.contains (pa / 64) then s
    else { s.supply pa (s.homeLine key).1 with port := s.port.filter fun h => h ≠ pa / 64 }
  else if Config.cores < agent then
    let cl := agent - Config.cores - 1
    match s.clusterLine cl key with
    | none => s
    | some l => s.snoopLine pa st l fun s x => match x with | some x => s.setClusterLine cl key x | none => s.dropClusterLine cl key
  else
    (s.hostLines agent pa).foldl (fun (s : State) l =>
      s.snoopLine pa st l.2 fun s x => match x with
        | some x => s.setColLine agent l.1 x
        | none => s.modCore agent fun c => { c with lines := Tab.erase c.lines l.1 }) s

/-- SNPDATA (R477): to S. -/
def execSnpdata (core pa : Nat) (s : State) : Host.Outcome State Fault Refusal := .next (s.snoopHalf core pa 1)

/-- SNPINV (R477): to I. -/
def execSnpinv (core pa : Nat) (s : State) : Host.Outcome State Fault Refusal := .next (s.snoopHalf core pa 0)

/-- SNPCUR (R469): the current data of a half that is held are supplied, and the half keeps its state and its bytes. -/
def execSnpcur (core pa : Nat) (s : State) : Host.Outcome State Fault Refusal :=
  .next (
    let held : List Line :=
      if core = Config.cores then (if s.port.contains (pa / 64) then [s.homeCopy (pa / 128) 3] else [])
      else if Config.cores < core then (s.clusterLine (core - Config.cores - 1) (pa / 128)).toList
      else (s.hostLines core pa).map (·.2)
    match if hostKey (pa / 128) then held.find? fun l => l.half pa ≠ 0 else none with
    | some l => s.supply pa l.data
    | none => s)

/-! ### Training (R470) -/

/-- ENABLE of every peer aperture reads 0. -/
def State.closePeers (s : State) : State :=
  { s with win := (List.range 4).foldl (fun (m : Memory) n =>
      let o := 0xF80 + 16 * n + 14
      m.write o (m.read o &&& 0xFE)) s.win }

/-- LINK_TRAINING (R470): fixes whether CXL.cache and CXL.mem run. -/
def execLinkTraining (fullRate : Bool) (s : State) : Host.Outcome State Fault Refusal :=
  .next (if fullRate then { s with linkFull := true } else ({ s with linkFull := false } : State).closePeers)

/-- Every host line of the cluster units written back and dropped. -/
def State.dropHostUnits (s : State) : State :=
  let s : State := s.flushHosts
  let s : State := (s.clusters.flatMap fun c => c.2.filter fun l => hostKey l.1).foldl (fun (s : State) l => s.sendEvicts l.1 l.2) s
  { s with clusters := s.clusters.map fun c => (c.1, c.2.filter fun l => !hostKey l.1) }

/-- Every host line of a column written back and dropped. -/
def State.dropHostLines (s : State) (core : Nat) : State :=
  let s : State := ((s.core core).lines.filter fun l => hostKey l.1).foldl (fun (s : State) l =>
    if l.2.dirty = 0 then s else s.homeMerge l.1 l.2) s
  s.dropColLines core fun k _ => hostKey k

/-- The halves that the port unit holds in M evicted (R477, R478). -/
def State.dropPort (s : State) : State :=
  { s.port.foldl (fun (s : State) h => s.send (.dirtyEvict h (halfOf (s.homeLine (h / 2)).1 (h % 2 = 1)))) s with port := [] }

/-- Accesses to host memory have been admitted and not yet performed. -/
def State.hostPending (s : State) : Bool :=
  s.warps.any fun w => w.2.pend.any fun p => !p.done && p.body.names.any fun r => placeOf r.1 = .host

/-- LINK_RETRAIN (R470): to a lower rate, the part first performs what it has admitted to host memory (assumption 119), writes back and drops
every host half. -/
def execLinkRetrain (fullRate : Bool) (s : State) : Host.Outcome State Fault Refusal :=
  .next (
    if fullRate then { s with linkFull := true }
    else if s.hostPending then s
    else ({ ((List.range Config.cores).foldl State.dropHostLines s.dropHostUnits).dropPort with linkFull := false } : State).closePeers)

/-! ### Peer apertures (R479) -/

/-- An aperture as the window holds it: base, size, enabled. -/
def State.aperture (s : State) (n : Nat) : Nat × Nat × Bool :=
  let o := 0xF80 + 16 * n
  (s.winNat o 8, s.winNat (o + 8) 6, s.winNat (o + 14) 1 % 2 = 1)

/-- ENABLE of an aperture cleared. -/
def State.closePeer (s : State) (n : Nat) : State :=
  let o := 0xF80 + 16 * n + 14
  { s with win := s.win.write o (s.win.read o &&& 0xFE) }

/-- A peer aperture written (R479), its reserved bits zero (00 R17): a bad aperture, one below the full rate, and apertures that overlap are not enabled. -/
def State.peerWrite (s : State) (aperture : Nat) (data : BitVec 128) : State :=
  if 4 ≤ aperture then s
  else
    let o := 0xF80 + 16 * aperture
    let s : State := { s with win := s.win.writeNat o 16 (data.toNat % 2 ^ 113) }
    let x := s.aperture aperture
    if !x.2.2 then s
    else if !s.linkFull || x.1 % 2 ^ 30 ≠ 0 || x.2.1 % 2 ^ 30 ≠ 0 then s.closePeer aperture
    else
      let clash := (List.range 4).filter fun n =>
        let y := s.aperture n
        n ≠ aperture && y.2.2 && x.1 < y.1 + y.2.1 && y.1 < x.1 + x.2.1
      if clash.isEmpty then s else (aperture :: clash).foldl State.closePeer s

/-- PEER_APERTURE_WRITE (R479). -/
def execPeerApertureWrite (aperture : Nat) (data : BitVec 128) (s : State) : Host.Outcome State Fault Refusal :=
  .next (s.peerWrite aperture data)

/-! ### Display heads (R482, R483) -/

/-- A link rate's payload in kilobits per second on one lane (R482). -/
def laneRate (code : Nat) : Nat :=
  match code with
  | 0 => 1296000
  | 1 => 2160000
  | 2 => 4320000
  | 3 => 6480000
  | 4 => 10000000 * 128 / 132
  | 5 => 13500000 * 128 / 132
  | _ => 20000000 * 128 / 132

/-- A head's timing may be enabled: no reserved value, within the link's payload rate. -/
def headOk (v : Nat) : Bool :=
  let link := byteField v 12 1
  byteField v 0 2 < 7680 && byteField v 2 2 < 4320 && byteField v 8 4 ≤ 2000000 && link % 8 ≤ 6 && link / 8 % 4 ≤ 2
    && byteField v 8 4 * Config.scanBits ≤ laneRate (link % 8) * 2 ^ (link / 8 % 4)

/-- A head as no FLIP has yet run on it. -/
def Head.init : Head :=
  { enabled := false, vbcount := 0, lastflip := 0, surface := 0, pitch := 0, format := 0, ctx := 0, flips := [] }

/-- A head's run. -/
def State.headOf (s : State) (n : Nat) : Head := (Tab.get? s.heads n).getD .init

/-- Every FLIP that a head has started and not latched completes. -/
def State.completeFlips (s : State) (n : Nat) : State :=
  let fs := (s.headOf n).flips
  fs.foldl (fun (s : State) f => s.finishRec f.1 f.2.1 0 0 0) { s with heads := Tab.modify s.heads n fun h => { h with flips := [] } }

/-- One word of a head's fields written (R482, R483), reserved bits staying zero (00 R17); while ENABLE is 1 only ENABLE takes effect. -/
def State.headWrite (s : State) (head offset : Nat) (data : BitVec 32) : State :=
  if 4 ≤ head ∨ 16 ≤ offset ∨ offset % 4 ≠ 0 then s
  else
    let o := 0xF00 + 32 * head
    let h := s.headOf head
    if h.enabled then
      if offset = 12 && !data.getLsbD 7 then
        let s : State := { s with win := s.win.write (o + 12) (s.win.read (o + 12) &&& 0x7F),
                                  heads := Tab.set s.heads head { h with enabled := false } }
        s.completeFlips head
      else s
    else
      let s : State := { s with win := s.win.writeNat (o + offset) 4 (if offset = 12 then data &&& 0x9F else data).toNat }
      if s.winNat (o + 12) 1 < 128 then s
      else if headOk (s.winNat o 16) then { s with heads := Tab.set s.heads head { h with enabled := true, vbcount := 0 } }
      else { s with win := s.win.write (o + 12) (s.win.read (o + 12) &&& 0x7F) }

/-- HEAD_CONFIG_WRITE (R482, R483). -/
def execHeadConfigWrite (head offset : Nat) (data : BitVec 32) (s : State) : Host.Outcome State Fault Refusal :=
  .next (s.headWrite head offset data)

/-- VERTICAL_BLANK (R483): the newest started FLIP's surface is latched, and every FLIP started since the last latch completes. -/
def execVerticalBlank (head : Nat) (s : State) : Host.Outcome State Fault Refusal :=
  .next (match Tab.get? s.heads head with
    | none => s
    | some h =>
      if !h.enabled then s
      else
        let h : Head := { h with vbcount := h.vbcount + 1 }
        match h.flips.getLast? with
        | none => { s with heads := Tab.set s.heads head h }
        | some f =>
          let h : Head := { h with lastflip := BitVec.ofNat 64 s.timer, surface := f.2.2.1, pitch := f.2.2.2.1, format := f.2.2.2.2.1, ctx := f.2.2.2.2.2 }
          ({ s with heads := Tab.set s.heads head h } : State).completeFlips head)

/-- What a scan of a line has read so far: its pixels' bytes, and the addresses whose pages have faulted; none where a read waits. -/
abbrev Scanned := Option (List Byte × List DWord)

/-- The bytes of one run of a line read at the home, or in host memory; those of a page that faults are black, and so are bytes that an
uncorrectable error has spoilt (R483; assumption 33). -/
def State.scanRun (s : State) (ctx : Nat) (va : DWord) (n : Nat) (x : List Byte × List DWord) : State × Scanned :=
  match s.frontRead ctx va n with
  | (s, .ok v) => (s, some (x.1 ++ bytesOf n v, x.2))
  | (s, .wait) => (s, none)
  | (s, .err) => (s, some (x.1 ++ List.replicate n 0, x.2))
  | (s, .fault) =>
    let page := va - BitVec.ofNat 64 (va.toNat % 4096)
    (s, some (x.1 ++ List.replicate n 0, if x.2.contains page then x.2 else x.2 ++ [page]))

/-- SCAN_LINE (R483): the pixels of one line of the latched surface are read and shown; each page that faults is logged and raises vector
33. A line whose reads wait is tried again. -/
def execScanLine (head line : Nat) (s : State) : Host.Outcome State Fault Refusal :=
  .next (match Tab.get? s.heads head with
    | none => s
    | some h =>
      let o := 0xF00 + 32 * head
      let n := (s.winNat o 2 + 1) * formatBytes h.format
      if !h.enabled || h.pitch = 0 || s.winNat (o + 2) 2 < line then s
      else
        let va := h.surface + BitVec.ofNat 64 (h.pitch * line)
        let r := (lineRuns va n (n / 128 + 2)).foldl (fun (r : State × Scanned) q =>
          match r with
          | (s, some x) => s.scanRun h.ctx q.1 q.2 x
          | r => r) (s, some ([], []))
        match r with
        | (s, none) => s
        | (s, some (pixels, bad)) =>
          (bad.foldl (fun (s : State) a => (s.logFields 0 0x1B0 0x33 h.ctx [head, line, a.toNat]).raiseVector 33) s).send (.scan head line pixels))

end Sys2Proof.Machine
end

