-- ==== Sys2Proof/Machine/Power.lean ====
section
/-!
DEFINITION. The power manager: lower states of idle units and their wakes (24 R487, R488), the power cap (R489), and the corrections
record of a unit (26 R501).
-/
namespace Sys2Proof.Machine

/-- The warps in being on a quadrant of a core, its walker among them. -/
def State.quadrantWarps (s : State) (q : Nat) : List (Nat × Warp) :=
  s.warps.filter fun w => (s.seated w.2.gang || w.2.walker) && 4 * w.2.core + w.2.part / 4 = q

/-- An operation of a quadrant's texture unit. -/
def PendOp.texes (o : PendOp) : Bool := o.path = some .X || (match o.body with | .istore .. => true | _ => false)

/-- The entry condition of a matrix engine's states (R487, 12 R266). -/
def State.engineSleeps (s : State) (e now : Nat) : Option Nat :=
  let x := s.engine e
  if !x.queue.isEmpty then none
  else if now = 0 then some 1
  else if (s.quadrantWarps e).all (fun w => w.2.accs = 0) && (match x.bypass with | some b => b.holder.isNone | none => true) then some 2
  else none

/-- The entry condition of a texture or traversal unit's states: idle, and off only without a held fault on its path. -/
def pathSleeps (ws : List (Nat × Warp)) (mine : PendOp → Bool) (now : Nat) : Option Nat :=
  if ws.all fun w => w.2.pend.all fun o => !mine o || o.held.isSome then
    if now = 0 then some 1 else if ws.all fun w => w.2.pend.all fun o => !mine o then some 2 else none
  else none

/-- The entry condition of a quadrant's register layer. -/
def State.layerSleeps (s : State) (q now : Nat) : Option Nat :=
  let ws := s.quadrantWarps q
  if now = 0 then (if ws.all fun w => !w.2.runs || w.2.splits.all fun k => !k.2.pickable then some 1 else none)
  else if ws.isEmpty then some 2
  else none

/-- No line of a core's column is dirty, and no tile task's bytes wait in it. -/
def State.columnClean (s : State) (core : Nat) : Bool :=
  (s.core core).lines.all (fun l => l.2.dirty = 0) && s.taskBuf.all fun b => b.1 % 32 ≠ core

/-- The entry condition of a whole core: no workgroup, Grotto page, reservation, saved state or tile memory, nothing dirty. A gang whose
save has gone to the save area has left the core (18 R399). -/
def State.coreSleeps (s : State) (core : Nat) : Bool :=
  s.wgs.all (fun g => g.2.core ≠ core || (match Tab.get? s.gangs g.2.gang with | some x => x.copied | none => false)) && (s.core core).grotto.isEmpty && s.tasks.all (fun t => t.2.core ≠ some core) && s.columnClean core
    && (s.grottoUsed core).isEmpty && s.warps.all fun w => !w.2.walker || w.2.core ≠ core

/-- The entry condition of a stack's states: no transaction, and for deep power-down no owner and no host directory entry. -/
def State.stackSleeps (s : State) (n now : Nat) : Option Nat :=
  let at_ (half : Nat) : Bool := placeOf (64 * half) = .stack n
  if (s.home n).handover.isSome || s.snoops.any fun p => at_ (2 * p.line) then none
  else if now = 0 then some 1
  else if (s.home n).owner.owner = 2 && s.hostHalf.all fun h => !at_ h.1 then some 2
  else none

/-- The lower state that a unit may enter now (R487). How long its condition has held is left to the event (assumption 45). -/
def State.sleeps (s : State) (u : Nat) : Option Nat :=
  let now := (Tab.get? s.power u).getD 0
  if 2 ≤ now then none
  else if u < 96 then s.engineSleeps u now
  else if u < 192 then pathSleeps (s.quadrantWarps (u - 96)) PendOp.texes now
  else if u < 288 then s.layerSleeps (u - 192) now
  else if u < 312 then pathSleeps (s.warps.filter fun w => w.2.core = u - 288 && s.seated w.2.gang) (fun o => o.path = some .T) now
  else if u < 336 then (if now = 0 then some 1 else if s.columnClean (u - 312) then some 2 else none)
  else if u < 360 then (if s.coreSleeps (u - 336) then some 2 else none)
  else if u < 362 then (if s.graphs.any fun g => g.2.loaded && g.2.passes.any fun p => p.kind = 1 && p.die = u - 360 then none else some 2)
  else if u < 370 then s.stackSleeps (u - 362) now
  else if u = 370 ∧ now = 0 then some 1
  else none

/-- What a unit loses as it goes off (R487): a texture unit its cached lines, a column its lines, a core all that it caches, a stack in
deep power-down its bytes. -/
def State.lose (s : State) (u : Nat) : State :=
  if 96 ≤ u ∧ u < 192 then
    s.modCore ((u - 96) / 4) fun c => { c with tex := c.tex.filter fun t => t.1 / 2 ^ 130 ≠ (u - 96) % 4 }
  else if 312 ≤ u ∧ u < 336 then s.dropColLines (u - 312) fun _ _ => true
  else if 336 ≤ u ∧ u < 360 then (s.dropColLines (u - 336) fun _ _ => true).modCore (u - 336) fun c => { c with icache := [], ibad := [], itlb := [], l1 := [], tex := [] }
  else if 362 ≤ u ∧ u < 370 then { s with
      mem := s.mem.filter (fun b => placeOf b.1 ≠ .stack (u - 362)), memBad := s.memBad.filter fun l => placeOf (128 * l.1) ≠ .stack (u - 362) }
  else s

/-- POWER_STATE_ENTRY (R487). -/
def execPowerStateEntry (unit : Nat) (s : State) : Host.Outcome State Fault Refusal :=
  .next (match s.sleeps unit with
    | none => s
    | some x =>
      let s : State := if x = 2 then s.lose unit else s
      { s with power := Tab.set s.power unit x })

/-- UNIT_WAKE (R488): the unit is at full power again. -/
def execUnitWake (unit : Nat) (s : State) : Host.Outcome State Fault Refusal := .next { s with power := Tab.erase s.power unit }

/-- POWER_SAMPLE (R489): above the 350 W cap one more kind of work is throttled, in the stated order; at or under it none is. -/
def execPowerSample (milliwatts : Nat) (s : State) : Host.Outcome State Fault Refusal :=
  .next { s with throttle := if 350000 < milliwatts then min 3 (s.throttle + 1) else 0 }

/-- An uncorrectable error arises in a word (26 R500): it counts (R501), and the word is poisoned wherever it goes. -/
def State.spoil (s : State) (x : Site) : State :=
  let s : State := s.noteError
  let word (n : Nat) : BitVec 128 := maskRange (8 * (n % 16)) 8
  match x with
  | .reg w r lane => s.modWarp w fun y => y.setPoison r lane 3
  | .column core key n =>
    if (Tab.get? (s.core core).lines key).isSome then s.spoilCol core key (word n) else s
  | .unit cl key n => if (s.clusterLine cl key).isSome then s.spoilUnit cl key (word n) else s
  | .memory line n => s.spoilMem line (word n)
  | .scratch wg n => s.modWg wg fun g => g.spoil (8 * n) 8
  | .code core key =>
    s.modCore core fun y => if (Tab.get? y.icache key).isSome then { y with ibad := setAdd y.ibad key } else y
  | .image => { s with mgmt := { s.mgmt with imageBad := true } }

/-- The last 0x100 record of a unit lies at least a millisecond back. -/
def State.correctionDue (s : State) (unit : Nat) : Bool :=
  match Tab.get? s.mgmt.corrLast unit with
  | some p => p.1 + 1000000 ≤ s.timer
  | none => true

/-- The source byte of a Flowstone record that a unit writes, and the die whose log takes it (26 R507): units 0 to 23 the cores, 32 + s the
home slices, 48 to 52 the others. -/
def State.sourceDie (s : State) (unit : Nat) : Nat :=
  if unit < Config.cores then dieOf unit else if 0x20 ≤ unit ∧ unit < 0x28 then s.stackDie (unit - 0x20) else 0

/-- CORRECTION_RECORD (R501): corrections counted; the unit's record, at most one per millisecond, carries those since its last. -/
def execCorrectionRecord (unit corrections address : Nat) (s : State) : Host.Outcome State Fault Refusal :=
  .next (
    let m := s.mgmt
    let since := (match Tab.get? m.corrLast unit with | some p => p.2 | none => 0) + corrections
    let m : Mgmt := { m with corr := m.corr + BitVec.ofNat 64 corrections }
    if corrections = 0 then s
    else if s.correctionDue unit then
      let m : Mgmt := { m with corrLast := Tab.set m.corrLast unit (s.timer, 0) }
      ({ s with mgmt := m } : State).log (s.sourceDie unit) 0x100 unit 0xFF (since % 2 ^ 64 + 2 ^ 64 * (address % 2 ^ 64))
    else
      let last := match Tab.get? m.corrLast unit with | some p => p.1 | none => 0
      let m : Mgmt := { m with corrLast := Tab.set m.corrLast unit (last, since) }
      { s with mgmt := m })

end Sys2Proof.Machine
end

