-- ==== Sys2Proof/Machine/Start.lean ====
section
/-!
DEFINITION. The management unit: the mailbox and its commands (25 R492 to R499, 24 R491), cold and warm starts, the SPDM responder, and the
check of the image region.
-/
namespace Sys2Proof.Machine

/-! ### The mailbox -/

/-- The part of the physical address space that a host physical address names (19 R412). -/
def hostPa (a : Nat) : Nat := 0x8000000000000 + a % 2 ^ 51

/-- An address names no host buffer of n bytes: it is no multiple of 4,096, or the buffer does not lie in the host's physical
addresses (assumption 47). -/
def badBuffer (a n : Nat) : Bool := a % 4096 ≠ 0 || 2 ^ 51 < a + n

/-- A command completes: RESULT, the command-specific bits, GO cleared (R492) but for a RESYNC that waits (R499, assumption 125). -/
def State.answer (s : State) (result low : Nat) : State :=
  { s with mgmt := { s.mgmt with go := s.mgmt.resync.isSome, status := BitVec.ofNat 64 (result * 2 ^ 32 + low % 2 ^ 32) } }

/-- The halves of host memory in a run of bytes leave every column, cluster unit and the port unit, as a DMA access of the part has the host snoop
them; st is the state they keep. -/
def State.dmaSnoop (s : State) (pa n st : Nat) : State :=
  let s : State := (List.range Config.cores).foldl (fun (s : State) c =>
    (((s.core c).lines.map fun l => physKey l.1).eraseDups.filter fun k => pa / 128 ≤ k && k < (pa + n + 127) / 128 && hostKey k).foldl
      (fun (s : State) k => (s.snoopHalf c (128 * k) st).snoopHalf c (128 * k + 64) st) s) s
  let s : State := (List.range 6).foldl (fun (s : State) cl =>
    ((((Tab.get? s.clusters cl).getD []).map (·.1)).filter fun k => pa / 128 ≤ k && k < (pa + n + 127) / 128 && hostKey k).foldl
      (fun (s : State) k => (s.snoopHalf (25 + cl) (128 * k) st).snoopHalf (25 + cl) (128 * k + 64) st) s) s
  { s with port := s.port.filter fun h => h < pa / 64 || pa + n ≤ 64 * h }

/-- Bytes written to a host buffer by CXL.io DMA (22 R470). -/
def State.dmaWrite (s : State) (pa : Nat) (bs : List (Nat × Byte)) : State :=
  let s : State := s.dmaSnoop pa bs.length 0
  s.putBytes bs

/-! ### Firmware (R495) -/

/-- n bytes of a memory. -/
def Memory.bytes (m : Memory) (a n : Nat) : List Byte := (List.range n).map fun k => m.read (a + k)

/-- An image's body length is in range, its reserved bytes are zero. -/
def imageOk (m : Memory) : Bool :=
  let n := m.readNat 4 4
  1 ≤ n && n ≤ 1043872 && m.readNat 12 52 = 0 && m.readNat 4691 13 = 0

/-- The measurement of an image. -/
def imageMeasure (m : Memory) : BitVec 512 := Keccak.sha3_512 (m.bytes 0 64 ++ m.bytes 4704 (m.readNat 4 4))

/-- An image verifies: its form, its security version, and its signature over its measurement under Millado's key. -/
def imageVerifies (m : Memory) : Bool :=
  imageOk m && Config.fusedMinSvn ≤ m.readNat 8 4 && Mldsa.verify Config.bootKey (leBytes 64 (imageMeasure m).toNat) (m.bytes 64 4627)

/-- The image as it stands in host memory at a host physical address: 1 MiB, keyed from 0. -/
def State.hostImage (s : State) (a : Nat) : Memory :=
  let pa := hostPa a
  (s.mem.filter fun b => pa ≤ b.1 && b.1 < pa + 2 ^ 20).map fun b => (b.1 - pa, b.2)

/-! ### Resynchronisation (R499) -/

/-- Bits of consecutive units' power states, two bits a unit. -/
def State.powerBits (s : State) (first n : Nat) : Nat :=
  (List.range n).foldl (fun x k => x + 4 ^ k * (Tab.get? s.power (first + k)).getD 0) 0

/-- A unit's power state. -/
def State.powerOf (s : State) (u : Nat) : Nat := (Tab.get? s.power u).getD 0

/-- The fields of the summary that belong to the whole part: offset, bytes, value. -/
def State.summaryPart (s : State) : List (Nat × Nat × Nat) :=
  [(0, 4, 1), (4, 4, 4096), (8, 8, s.timer), (16, 1, if s.mgmt.lastWarm then 1 else 0), (17, 1, if s.mgmt.retained then 1 else 0),
   (18, 1, if s.linkFull then 0 else 1), (20, 4, s.mgmt.warms), (64, 64, s.mgmt.measure.toNat),
   (192, 8, (s.die 0).written), (200, 8, (s.die 1).written), (208, 8, s.mgmt.corr.toNat), (216, 8, s.mgmt.uncorr.toNat),
   (240, 1, (List.range 8).foldl (fun x n => if (s.home n).failed then x + 2 ^ n else x) 0),
   (456, 1, s.powerOf 360), (457, 1, s.powerOf 361), (458, 1, s.powerOf 370)]
  ++ (List.range 8).map (fun n => (128 + 8 * n, 8, (s.home n).owner.word))
  ++ (List.range 8).map (fun n => (224 + 2 * n, 2, (s.home n).errors.length))
  ++ (List.range 8).map (fun n => (448 + n, 1, s.powerOf (362 + n)))

/-- The fields of a core. -/
def State.summaryCore (s : State) (c : Nat) : List (Nat × Nat × Nat) :=
  let o := 256 + 8 * c
  [(o, 1, if s.powerOf (336 + c) = 2 then 1 else 0), (o + 1, 1, s.powerBits (4 * c) 4), (o + 2, 1, s.powerBits (96 + 4 * c) 4),
   (o + 3, 1, s.powerOf (288 + c)), (o + 4, 1, s.powerBits (192 + 4 * c) 4),
   (o + 5, 1, if s.powerOf (312 + c) = 1 then (Config.bankMask 0).toNat else 0),
   (o + 6, 1, if s.powerOf (312 + c) = 2 then (Config.bankMask ((s.core c).grotto.map (·.2)).sum).toNat else 0)]

/-- The fields of a stream slot. -/
def State.summarySlot (s : State) (n : Nat) : List (Nat × Nat × Nat) :=
  let o := 512 + 32 * n
  let head := [(o + 24, 1, s.winNat (64 * n + 12) 1), (o + 25, 1, s.winNat (64 * n + 13) 1), (o + 26, 1, s.winNat (64 * n + 14) 1)]
  match Tab.get? s.slots n with
  | none => head
  | some x => [(o, 8, x.done), (o + 8, 8, x.fetched), (o + 16, 8, x.tail), (o + 28, 4, x.errcount.toNat)] ++ head

/-- The fields of a context. -/
def State.summaryCtx (s : State) (x : Nat) : List (Nat × Nat × Nat) :=
  let o := 1536 + 32 * x
  let gs := s.gangs.filter fun g => g.2.ctx = x
  let bound := s.slots.any fun k => k.2.ctx = x && k.2.enabled
  [(o, 1, (if bound then 1 else 0) + (if s.parked x then 2 else 0) + (if (s.ctx x).killed then 4 else 0)),
   (o + 2, 2, (gs.filter fun g => g.2.saved.isNone).length), (o + 4, 4, (gs.filter fun g => g.2.saved.isSome).length),
   (o + 8, 4, (s.residents x).length), (o + 12, 4, (s.ctx x).event.toNat)]

/-- The summary's bytes from a buffer's address. -/
def State.summary (s : State) (pa : Nat) : List (Nat × Byte) :=
  let fs := s.summaryPart ++ (List.range 24).flatMap s.summaryCore ++ (List.range 32).flatMap s.summarySlot ++ (List.range 32).flatMap s.summaryCtx
  let m : Memory := fs.foldl (fun (m : Memory) f => m.writeNat f.1 f.2.1 f.2.2) []
  (List.range 4096).map fun k => (pa + k, m.read k)

/-- The summary written to a host buffer: every field is of the instant of this event (R499). -/
def State.resyncNow (s : State) (address : Nat) : State :=
  let s : State := { s with mgmt := { s.mgmt with arg0 := BitVec.ofNat 64 address } }
  if badBuffer address 4096 then s.answer 1 0
  else if s.mgmt.phase ≠ .running then s.answer 2 0
  else (s.dmaWrite (hostPa address) (s.summary (hostPa address))).answer 0 0

/-- RESYNC (R499): one issued during a warm start waits for that start, GO set (assumption 125). -/
def State.resync (s : State) (address : Nat) : State :=
  if s.mgmt.warmPending then
    if s.mgmt.resync.isSome then s else { s with mgmt := { s.mgmt with resync := some address, go := true } }
  else if s.mgmt.go then s
  else s.resyncNow address

/-- The RESYNC that waited for a start, if one did, now that the start has completed. -/
def State.resyncWaiting (s : State) : State :=
  match s.mgmt.resync with
  | some a => ({ s with mgmt := { s.mgmt with resync := none } } : State).resyncNow a
  | none => s

/-- RESYNC as an event. -/
def execResync (address : Nat) (s : State) : Host.Outcome State Fault Refusal := .next (s.resync address)

/-! ### Starts (R494, R496) -/

/-- The spare maps applied, with one record 0x104 of each repaired unit (26 R506). -/
def State.logRepairs (s : State) : State :=
  fusedSpares.foldl (fun (s : State) u => s.log 0 0x104 0x31 0xFF (u.1 % 2 ^ 16 + 2 ^ 16 * (u.2 % 2 ^ 16)))
    { s with mgmt := { s.mgmt with spares := fusedSpares } }

/-- COLD_START (R494) up to step 4: nothing of the part's state stays but how its link trained; host memory is the host's. -/
def execColdStart (s : State) : Host.Outcome State Fault Refusal :=
  .next (
    let c : State := State.reset
    let c : State :=
      { c with
        mem := s.mem.filter (fun b => placeOf b.1 = .host), memBad := s.memBad.filter (fun l => placeOf (128 * l.1) = .host), linkFull := s.linkFull, free := s.free, nextId := s.nextId, agenda := s.agenda,
        mgmt := { c.mgmt with phase := .awaitFirmware, retained := false, identity := none } }
    c.logRepairs)

/-- The records that a warm start failed are reported: error fields, event, completion area, DONE over them (R496). -/
def State.reportFailed (s : State) (n : Nat) : State :=
  match Tab.get? s.slots n with
  | none => s
  | some x =>
    let s : State := x.recs.foldl (fun (s : State) r =>
      if r.st = .finished 5 0xFF 0 then s.slotError n r.seq (r.bytes.extractLsb' 32 32) 5 0xFF 0 else s) s
    (s.retireRecs n).writeArea n

/-! ### The SPDM responder (R498) -/

/-- The fuse configuration as a measurement block shows it: the fused digest of Millado's key, the least security version, and what else the
fuses hold but the secret (assumption 46). -/
def fuseConfig : List Byte := leBytes 64 (Keccak.sha3_512 Config.bootKey).toNat ++ leBytes 4 Config.fusedMinSvn ++ Config.fuseBytes

/-- The measurement blocks by index: boot ROM digest, MEASURE, fuse configuration and spare maps, SVN. -/
def Mgmt.blocks (m : Mgmt) : List (Nat × List Byte) :=
  [(1, leBytes 64 (Keccak.sha3_512 Config.bootRom).toNat), (2, leBytes 64 m.measure.toNat),
   (3, fuseConfig ++ m.spares.flatMap fun u => leBytes 2 u.1 ++ leBytes 2 u.2), (4, leBytes 4 m.svn)]

/-- The certificate chain of slot 0, which ends in the alias key. -/
def Identity.chain (k : Identity) : List Byte := k.device.cert ++ k.alias_.cert

/-- A number of two bytes of a request. -/
def spdmNat (data : List Byte) (n : Nat) : Nat := (data.getD n 0).toNat + 256 * (data.getD (n + 1) 0).toNat

/-- GET_CERTIFICATE: slot, offset and length; a slot or an offset that is not there is an invalid request. -/
def Identity.portion (k : Identity) (data : List Byte) : SpdmAns :=
  let off := spdmNat data 2
  let part := (k.chain.drop off).take (spdmNat data 4)
  if (data.getD 0 0).toNat % 16 ≠ 0 || k.chain.length ≤ off then .error 1 0 else .certificate part (k.chain.length - off - part.length)

/-- GET_MEASUREMENTS: the count, every block, or the block of an index, signed where the request asks for it. -/
def Mgmt.measured (m : Mgmt) (data : List Byte) (signed : List Byte → List Byte) : SpdmAns :=
  let x := (data.getD 1 0).toNat
  let bs := m.blocks.filter fun b => x = 0xFF || b.1 = x
  if bs.isEmpty && x ≠ 0 then .error 1 0
  else .measurements m.blocks.length bs (if (data.getD 0 0).toNat % 2 = 1 then signed (bs.flatMap (·.2)) else [])

/-- The answer to an SPDM request of a code, by SPDM 1.3's numbers, and the bytes after it: another request than the seven gets ERROR,
UnsupportedRequest (assumption 46). -/
def Mgmt.spdmAnswer (m : Mgmt) (k : Identity) (draw code : Nat) (data : List Byte) : SpdmAns :=
  let digest := Keccak.sha3_512 k.chain
  let signed (content : List Byte) : List Byte := signBy k.alias_.seed (Config.spdmMessage (m.spdm.map (·.1) ++ [(code, data)]) content) draw
  match code with
  | 0x81 => .digests digest
  | 0x82 => k.portion data
  | 0x83 => if (data.getD 0 0).toNat ≠ 0 then .error 1 0 else .challenge digest (signed (leBytes 64 digest.toNat))
  | 0x84 => .version
  | 0xE0 => m.measured data signed
  | 0xE1 => .capabilities
  | 0xE3 => .algorithms
  | _ => .error 7 code

/-- A request answered, or kept while the identity keys are not derived. -/
def Mgmt.respond (m : Mgmt) (draw : Nat) (r : Nat × List Byte) : Mgmt :=
  match m.identity with
  | some k => { m with spdm := m.spdm ++ [(r, m.spdmAnswer k draw r.1 r.2)] }
  | none => { m with spdmWait := m.spdmWait ++ [r] }

/-- The requests that waited for a start answered in their order. -/
def Mgmt.respondAll (m : Mgmt) (draw : Nat) : Mgmt := m.spdmWait.foldl (fun m r => m.respond draw r) { m with spdmWait := [] }

/-- Steps 7 and 8 of a start: memory scrubbed and logs cleared in a cold one; counted, and its records reported, in a warm one. -/
def State.finishStart (s : State) : State :=
  if s.mgmt.warmPending then
    let m : Mgmt := { s.mgmt.respondAll s.free with phase := .running, warmPending := false, lastWarm := true, warms := (s.mgmt.warms + 1) % 2 ^ 32 }
    (s.slots.map (·.1)).foldl State.reportFailed { s with mgmt := m }
  else
    let m : Mgmt := { s.mgmt.respondAll s.free with phase := .running, lastWarm := false, warms := 0 }
    { s with
      mgmt := m, mem := s.mem.filter (fun b => placeOf b.1 = .host), memBad := s.memBad.filter (fun l => placeOf (128 * l.1) = .host),
      dies := s.dies.map fun d => (d.1, { d.2 with flow := [], written := 0 }) }

/-- LOADFW (R494 steps 4 to 6, R495): the image is read and verified; when it passes, MEASURE is sealed, which a warm start leaves as it is
locked, RETAINED set and the start goes on. A RESYNC that waits for the start does not keep it out (assumption 125). -/
def State.loadfw (s : State) (address : Nat) : State :=
  if s.mgmt.go && s.mgmt.resync.isNone then s
  else
    let s : State := { s with mgmt := { s.mgmt with arg0 := BitVec.ofNat 64 address } }
    if s.mgmt.phase = .running || badBuffer address (2 ^ 20) then s.answer 1 0
    else
      let s : State := s.dmaSnoop (hostPa address) (2 ^ 20) 1
      let image := s.hostImage address
      if imageVerifies image then
        let measure := if s.mgmt.warmPending then s.mgmt.measure else imageMeasure image
        let svn := image.readNat 8 4
        let m : Mgmt := { s.mgmt with image, imageBad := false, retained := true, measure, svn, identity := some (Identity.derive measure svn s.free) }
        (({ s with mgmt := m } : State).finishStart.answer 0 0).resyncWaiting
      else ({ s with mgmt := { s.mgmt with retained := false, phase := .verifyFailed } } : State).answer 4 0

/-- LOADFW as an event. -/
def execLoadfw (address : Nat) (s : State) : Host.Outcome State Fault Refusal := .next (s.loadfw address)

/-- The records of every stream that have started and not completed fail; they are reported at the end of the start (R496 step 1). -/
def Slot.failWarm (x : Slot) : Slot :=
  { x with recs := x.recs.map fun r => match r.st with
      | .fetched => r
      | .finished .. => r
      | _ => { r with st := .finished 5 0xFF 0 } }

/-- Every context is killed (R496 step 1, 18 R407): everything that runs ends, the streams' ENABLE is cleared, the contexts have the event. What a
record left unfinished is reported at the end of the start. -/
def State.killAll (s : State) : State :=
  let s : State := (s.gangs.map (·.1)).foldl State.dropGang s
  let s : State := s.dropWarps (s.warps.map (·.1))
  let s : State := s.removeTlb fun _ => true
  let s : State :=
    { s with
      tasks := [], taskBuf := [], launches := [], graphs := [], rasters := [], moves := [],
      slots := s.slots.map fun x => (x.1, x.2.failWarm),
      heads := s.heads.map fun h => (h.1, { h.2 with flips := [] }) }
  let s : State := (s.slots.map (·.1)).foldl State.disableSlot s
  (List.range 32).foldl (fun (s : State) c => (s.modCtx c fun x => { x with killed := true }).ctxEvent c 2) s

/-- Every dirty line of the part cleaned to its home (R496 step 2). -/
def State.cleanAll (s : State) : State × Bool :=
  match s.cleanPart with
  | (s, true) => s.flushUnits fun _ _ => true
  | (s, false) => (s, false)

/-- A handover that a warm start interrupts (20 R442): before step 6 the old owner stays and PEND is cleared. The contexts of a stack that fails
while the start cleans are killed already. -/
def StackHome.cutHandover (h : StackHome) : StackHome :=
  match h.handover with
  | none => { h with next := [], killing := false }
  | some _ => { h with handover := none, next := [], killing := false, owner := { h.owner with pend := false, target := 0 } }

/-- A context's own values, which a warm start keeps (19 R416), with the rest as it is at a start. -/
def Context.warm (c : Context) : Context :=
  { Context.init with ptroot := c.ptroot, stvec := c.stvec, walkentry := c.walkentry, harvest := c.harvest, killed := c.killed }

/-- The state that a warm start's steps 4 and 8 find: what survives is kept, the rest is as at reset (R496). -/
def State.warmed (s : State) : State :=
  { State.reset with
    slots := s.slots, homes := s.homes.map fun h => (h.1, h.2.cutHandover),
    dies := s.dies.map fun d => (d.1, { Die.init with flow := d.2.flow, written := d.2.written, samples := d.2.samples, sampleIndex := d.2.sampleIndex }),
    mem := s.mem.filter (fun b => match placeOf b.1 with | .grotto _ => false | _ => true),
    memBad := s.memBad.filter (fun l => match placeOf (128 * l.1) with | .grotto _ => false | _ => true),
    regions := s.regions.map fun r => (r.1, { r.2 with holder := none, waiting := [] }),
    electrum := s.electrum, hostHalf := s.hostHalf, snoops := s.snoops, yields := s.yields, win := s.win,
    ctxs := s.ctxs.map fun c => (c.1, c.2.warm), heads := s.heads, msix := s.msix, mgmt := s.mgmt, linkFull := s.linkFull,
    timer := s.timer, agenda := s.agenda, free := s.free, nextId := s.nextId }

/-- Steps 2 to 4 of a warm start: while host halves stand in the way of the cleaning it stays under way. The image region's check clears
RETAINED over a bad word (R495). -/
def State.warmOn (s : State) : State :=
  match s.cleanAll with
  | (s, false) => s
  | (s, true) =>
    let was := s.mgmt.status.toNat % 2
    let s : State := ((s.log 0 0x1D0 0x31 0xFF 0).log 1 0x1D0 0x31 0xFF 0).warmed.logRepairs
    if s.mgmt.retained && !s.mgmt.imageBad then (s.finishStart.answer 0 was).resyncWaiting
    else ({ s with mgmt := { s.mgmt with phase := .awaitFirmware, retained := false } } : State).answer 0 was

/-- WARM (R496): the event starts a warm start, and goes on with one that waits in its step 2. -/
def State.warm (s : State) : State :=
  if s.mgmt.phase ≠ .running then (if s.mgmt.go then s else s.answer 2 0)
  else if s.mgmt.warmPending then s.warmOn
  else if s.mgmt.go then s
  else
    let was := if s.mgmt.retained then 1 else 0
    (({ s with mgmt := { s.mgmt with warmPending := true, go := true, status := was } } : State).killAll).warmOn

/-- WARM as an event. -/
def execWarm (s : State) : Host.Outcome State Fault Refusal := .next (s.warm)

/-- IMAGE_REGION_ERROR (R495): the image region's check finds an uncorrectable error and RETAINED is cleared; an error that had not arisen
before is counted (26 R501). -/
def execImageRegionError (s : State) : Host.Outcome State Fault Refusal :=
  .next (
    let s : State := if s.mgmt.imageBad then s else s.noteError
    { s with mgmt := { s.mgmt with retained := false, imageBad := true } })

/-! ### Debug reads (24 R491, R493) -/

/-- What a debug read finds: data, SRC, POISON, WOKE. -/
structure DebugAns where
  data : Nat
  src : Nat
  poison : Bool := false
  woke : Bool := false
deriving DecidableEq, Repr

/-- The status word of a completed debug read (24 R491). -/
def DebugAns.status (a : DebugAns) : Nat := 1 + (if a.woke then 2 else 0) + (if a.poison then 4 else 0) + 16 * a.src

/-- The warp that a debug read names: the one resident in the slot, a walker among them, else a saved one that was. -/
def State.debugWarp (s : State) (core part slot : Nat) : Option (Warp × Bool) :=
  let here := s.warps.filter fun w => w.2.core = core && w.2.part = part && w.2.slot = slot
  match here.find? fun w => w.2.walker || s.seated w.2.gang with
  | some w => if w.2.halted then some (w.2, false) else none
  | none => here.head?.map fun w => (w.2, true)

/-- Eight words as one number. -/
def eightWords (f : Nat → Word) : Nat := (List.range 8).foldl (fun x k => x + 2 ^ (32 * k) * (f k).toNat) 0

/-- A unit clock-gated or in retention, which a debug read wakes; one that is off is not woken (24 R491). -/
def State.dozes (s : State) (u : Nat) : Bool := s.powerOf u = 1

/-- A read of a warp's state: kind 0 register layer, 2 scratchpad, 3 accumulators. The level is the layer itself, or the save. An
accumulator that the warp does not hold, and a byte outside the allocation, is none. -/
def State.debugState (s : State) (kind off : Nat) (w : Warp) (saved : Bool) : DebugAns :=
  let q := 4 * w.core + w.part / 4
  let src := if saved then 1 else 0
  if kind = 0 then
    if 128 * w.vregs ≤ off then { data := 0, src := 3 }
    else
      { data := eightWords fun k => Store.get w.v (off / 4 + k), src, woke := !saved && s.dozes (192 + q),
        poison := (List.range 8).any fun k => (Tab.get? w.pv (off / 4 + k)).isSome }
  else if kind = 2 then
    match s.wg? w.wg with
    | some g => if g.alloc ≤ off then { data := 0, src := 3 } else { data := g.sp.readNat off 32, src }
    | none => { data := 0, src := 3 }
  else if w.accs * 16384 ≤ off then { data := 0, src := 3, woke := !saved && s.dozes q }
  else { data := eightWords fun k => Store.get w.acc (off / 4 + k), src, woke := !saved && s.dozes q }

/-- A column line's 32 bytes: from the column, which of its aliases the spec does not say (assumption 107), else read at the home (22 R474), where
host halves or a stack asleep may be in the way; a hole and what is no memory of the part hold nothing. -/
def State.debugLine (s : State) (core pa : Nat) : State × UnitAns DebugAns :=
  let woke := s.dozes (312 + core)
  let held := ((s.core core).lines.map (·.1)).filter fun k => physKey k = pa / 128
  let line := (held[Config.choice (300 + core) s.free % held.length]?).bind (s.colLine core)
  let nothing : State × UnitAns DebugAns := (s, .ok { data := 0, src := 3, woke })
  match (if Tab.get? s.power (312 + core) = some 2 then none else line) with
  | some l => (s, .ok { data := (l.data.extractLsb' (8 * (pa % 128)) 256).toNat, src := 0, poison := l.mark (pa % 128) 32 ≠ 0, woke })
  | none =>
    match placeOf pa with
    | .nothing => nothing
    | .ats => nothing
    | .grotto c => if c = core then (s, .ok { data := s.mem.readNat pa 32, src := 0, poison := s.memMark pa 32 ≠ 0, woke }) else nothing
    | _ =>
      if s.isPeer pa then nothing
      else
        let way := s.readHeld pa 32
        if (match s.stackOf (pa / 128) with | some n => s.asleep (362 + n) | none => false) then (s, .wait)
        else if !way.isEmpty then (s.sendSnoops way, .wait)
        else let r := s.readHome pa 32; (r.1, .ok { data := r.2.1, src := 2, poison := r.2.2 ≠ 0, woke })

/-- A debug read's operands put into action; a fault: its target is not halted. -/
def State.debugRead (s : State) (a b : Nat) : State × UnitAns DebugAns :=
  let kind := a % 16
  let core := a / 16 % 32
  if kind = 1 then s.debugLine core (b / 32 * 32)
  else
    match s.debugWarp core (a / 512 % 16) (a / 8192 % 32) with
    | some w => (s, .ok (s.debugState kind (b / 32 * 32) w.1 w.2))
    | none => (s, .fault)

/-- DEBUGRD (24 R491, R493): the event starts a read, and goes on with one that waits at the home, GO set. -/
def State.debugrd (s : State) (arg0 arg1 : BitVec 64) : State :=
  if s.mgmt.go && !s.mgmt.debugging then s
  else
    let s : State := if s.mgmt.debugging then s else { s with mgmt := { s.mgmt with arg0, arg1 } }
    let a := s.mgmt.arg0.toNat
    if 4 ≤ a % 16 ∨ Config.cores ≤ a / 16 % 32 ∨ 2 ^ 18 ≤ a then s.answer 1 0
    else if s.mgmt.phase ≠ .running then s.answer 2 0
    else
      match s.debugRead a s.mgmt.arg1.toNat with
      | (s, .wait) => { s with mgmt := { s.mgmt with go := true, debugging := true } }
      | (s, .ok x) => ({ s with mgmt := { s.mgmt with data := s.mgmt.data.writeNat 0 32 x.data, debugging := false } } : State).answer 0 x.status
      | (s, _) => ({ s with mgmt := { s.mgmt with debugging := false } } : State).answer 3 0

/-- A debug read under way goes on. -/
def State.mailboxOn (s : State) : State := if s.mgmt.debugging then s.debugrd s.mgmt.arg0 s.mgmt.arg1 else s

/-- DEBUGRD as an event. -/
def execDebugrd (arg0 arg1 : BitVec 64) (s : State) : Host.Outcome State Fault Refusal := .next (s.debugrd arg0 arg1)

/-! ### The logs and the SPDM responder -/

/-- The 32 bytes of a die's log slot (26 R507). -/
def Die.logSlot (d : Die) (k : Nat) : Nat :=
  match Tab.get? d.flow k with
  | none => 0
  | some r =>
    let seq := d.written - 1 - (d.written - 1 - k) % 4096
    r.time % 2 ^ 48 + 2 ^ 48 * (r.event % 2 ^ 12) + 2 ^ 64 * r.source + 2 ^ 72 * r.ctx + 2 ^ 80 * (seq % 2 ^ 48) + 2 ^ 128 * r.data.toNat

/-- FLOWCOPY (R492, 26 R507): both logs, slot by slot, die 0 first. -/
def State.flowcopy (s : State) (address : Nat) : State :=
  if s.mgmt.go then s
  else
    let s : State := { s with mgmt := { s.mgmt with arg0 := BitVec.ofNat 64 address } }
    if badBuffer address (2 ^ 18) then s.answer 1 0
    else
      let bytes := (List.range 8192).flatMap fun k => cellsOf (hostPa address + 32 * k) 32 ((s.die (k / 4096)).logSlot (k % 4096))
      (s.dmaWrite (hostPa address) bytes).answer 0 0

/-- FLOWCOPY as an event. -/
def execFlowcopy (address : Nat) (s : State) : Host.Outcome State Fault Refusal := .next (s.flowcopy address)

/-- SPDM_REQUEST (R498): a request that arrives during a start waits until the identity keys are derived. -/
def execSpdmRequest (code : Nat) (data : List Byte) (s : State) : Host.Outcome State Fault Refusal :=
  .next { s with mgmt :=
    if s.started then s.mgmt.respond s.free (code, data) else { s.mgmt with spdmWait := s.mgmt.spdmWait ++ [(code, data)] } }

end Sys2Proof.Machine
end

