-- ==== Sys2Proof/Machine/Window.lean ====
section
/-!
DEFINITION. The configuration window as the host writes and reads it (22 R471): the behaviour of each offset, and the mailbox's registers
(25 R492).
-/
namespace Sys2Proof.Machine

/-- The command that CMD names runs with ARG0 and ARG1 (25 R492); a code that names none is a bad command. -/
def State.command (s : State) (code : Nat) : State :=
  let a := s.mgmt.arg0
  match code with
  | 1 => s.loadfw a.toNat
  | 2 => s.warm
  | 3 => s.resync a.toNat
  | 4 => s.debugrd a s.mgmt.arg1
  | 5 => s.flowcopy a.toNat
  | _ => s.answer 1 0

/-- CMD as it reads: GO and the last code written, its other bits zero. -/
def State.cmdWord (s : State) : Nat := s.winNat 0x1000 8 % 256 + (if s.mgmt.go then 2 ^ 63 else 0)

/-- n bytes of a word replaced from a byte place. -/
def patch (w at_ n v : Nat) : Nat := w % 2 ^ (8 * at_) + 2 ^ (8 * at_) * (v % 2 ^ (8 * n)) + 2 ^ (8 * (at_ + n)) * (w / 2 ^ (8 * (at_ + n)))

/-- A write to the mailbox (25 R492): STATUS and reserved offsets ignore it, CMD does while GO is set. -/
def State.mailWrite (s : State) (off n v : Nat) : State :=
  if off < 0x1008 then
    if s.mgmt.go then s
    else
      let w := patch s.cmdWord (off - 0x1000) n v
      let s : State := { s with win := s.win.writeNat 0x1000 8 (w % 256) }
      if w < 2 ^ 63 then s else s.command (w % 256)
  else if off < 0x1010 then { s with mgmt := { s.mgmt with arg0 := BitVec.ofNat 64 (patch s.mgmt.arg0.toNat (off - 0x1008) n v) } }
  else if off < 0x1018 then { s with mgmt := { s.mgmt with arg1 := BitVec.ofNat 64 (patch s.mgmt.arg1.toNat (off - 0x1010) n v) } }
  else if off < 0x1100 then s
  else { s with mgmt := { s.mgmt with data := s.mgmt.data.writeNat (off - 0x1100) n v } }

/-- A context's block written by the host (19 R416): HARVEST keeps its field's limits and its reserved bits zero (R427); a change of PTROOT
removes every TLB entry of the context, the root itself being read when a stream of the context is next enabled. -/
def State.hostBlock (s : State) (off n v : Nat) : State :=
  let c := (off - 0xA00) / 32
  let o := 0xA00 + 32 * c
  let win := s.win.writeNat off n v
  let s' : State := { s with win := win.writeNat (o + 28) 4 (harvestOf (BitVec.ofNat 32 (win.readNat (o + 28) 4))).toNat }
  if s'.winNat o 8 = s.winNat o 8 then s' else s'.removeCtx c

/-- Event words: a 1 written clears a bit (22 R472). -/
def State.clearEvents (s : State) (off n v : Nat) : State :=
  (List.range (n / 4)).foldl (fun (s : State) k =>
    s.modCtx ((off - 0xE80) / 4 + k) fun x => { x with event := x.event &&& ~~~(BitVec.ofNat 32 (v / 2 ^ (32 * k))) }) s

/-- Hot-page sampling's fields (19 R428): INDEX is read-only, reserved bits stay zero. -/
def State.sampleWrite (s : State) (off n v : Nat) : State :=
  let o := off / 16 * 16
  let w := patch (s.winNat o 16) (off - o) n v
  { s with win := (s.win.writeNat o 8 w).writeNat (o + 12) 1 (w / 2 ^ 96 % 2) }

/-- A naturally aligned write of n bytes, 4 or 8, to the window (22 R471). -/
def State.barWrite (s : State) (off n v : Nat) : State :=
  if off < 0x800 then
    let o := off / 64 * 64
    s.writeDescriptor (off / 64) (BitVec.ofNat 512 (patch (s.winNat o 64) (off - o) n v))
  else if off < 0xA00 then { s with win := s.win.writeNat off n v }
  else if off < 0xE00 then s.hostBlock off n v
  else if off < 0xE20 then s.sampleWrite off n v
  else if off < 0xE80 then s
  else if off < 0xF00 then s.clearEvents off n v
  else if off < 0xF80 then
    (List.range (n / 4)).foldl (fun (s : State) k =>
      s.headWrite ((off - 0xF00) / 32) ((off - 0xF00) % 32 + 4 * k) (BitVec.ofNat 32 (v / 2 ^ (32 * k)))) s
  else if off < 0xFC0 then
    let o := off / 16 * 16
    s.peerWrite ((off - 0xF80) / 16) (BitVec.ofNat 128 (patch (s.winNat o 16) (off - o) n v))
  else if off < 0x1000 then s
  else if off < 0x2000 then s.mailWrite off n v
  else s

/-- REGISTER_WRITE (R471): 64 bits, or the low 32 of the data; an access that is not naturally aligned is ignored. -/
def execRegisterWrite (offset : Nat) (wide : Bool) (data : BitVec 64) (s : State) : Host.Outcome State Fault Refusal :=
  .next (
    let n := if wide then 8 else 4
    if offset % n ≠ 0 then s else s.barWrite offset n (data.toNat % 2 ^ (8 * n)))

/-- PTROOT_WRITE (19 R416). -/
def execPtrootWrite (ctx : Nat) (data : BitVec 64) (s : State) : Host.Outcome State Fault Refusal :=
  .next (if 32 ≤ ctx then s else s.hostBlock (0xA00 + 32 * ctx) 8 data.toNat)

/-- A byte of the window as the host reads it (22 R471). -/
def State.barByte (s : State) (k : Nat) : Byte :=
  let part (v at_ : Nat) : Byte := BitVec.ofNat 8 (v / 2 ^ (8 * at_))
  if k < 0xE00 then s.win.read k
  else if k < 0xE20 then
    if 8 ≤ k % 16 ∧ k % 16 < 12 then part (s.die ((k - 0xE00) / 16)).sampleIndex (k % 16 - 8) else s.win.read k
  else if k < 0xE40 then 0
  else if k < 0xE80 then part (s.home ((k - 0xE40) / 8)).owner.word (k % 8)
  else if k < 0xF00 then part (s.ctx ((k - 0xE80) / 4)).event.toNat (k % 4)
  else if k < 0xF80 then
    let h := s.headOf ((k - 0xF00) / 32)
    let o := k % 32
    if o < 16 then s.win.read k else if o < 20 then part h.vbcount.toNat (o - 16) else if o < 24 then 0 else part h.lastflip.toNat (o - 24)
  else if k < 0xFC0 then s.win.read k
  else if k < 0x1000 then 0
  else if k < 0x1008 then part s.cmdWord (k - 0x1000)
  else if k < 0x1010 then part s.mgmt.arg0.toNat (k - 0x1008)
  else if k < 0x1018 then part s.mgmt.arg1.toNat (k - 0x1010)
  else if k < 0x1020 then part s.mgmt.status.toNat (k - 0x1018)
  else if k < 0x1100 then 0
  else if k < 0x2000 then s.mgmt.data.read (k - 0x1100)
  else 0

/-- A naturally aligned 32-bit or 64-bit read of the window; another reads zero (22 R471). -/
def State.barRead (s : State) (off : Nat) (wide : Bool) : Nat :=
  let n := if wide then 8 else 4
  if off % n ≠ 0 then 0 else (List.range n).foldl (fun x k => x + 2 ^ (8 * k) * (s.barByte (off + k)).toNat) 0

end Sys2Proof.Machine
end

