-- ==== Sys2Proof/Machine/Dispatch.lean ====
section
/-!
DEFINITION. The dispatch of instructions and events to their meanings: one arm per constructor.
-/
namespace Sys2Proof.Machine

def exec (i : Instr) (s : State) : Host.Outcome State Fault Refusal :=
  match i with
  | .nop e => Sys2Proof.Machine.execNop e s
  | .mov e => Sys2Proof.Machine.execMov e s
  | .movk e => Sys2Proof.Machine.execMovk e s
  | .iadd e => Sys2Proof.Machine.execIadd e s
  | .isub e => Sys2Proof.Machine.execIsub e s
  | .iadd3 e => Sys2Proof.Machine.execIadd3 e s
  | .imul e => Sys2Proof.Machine.execImul e s
  | .imulh e => Sys2Proof.Machine.execImulh e s
  | .imad e => Sys2Proof.Machine.execImad e s
  | .imadw e => Sys2Proof.Machine.execImadw e s
  | .iadd64 e => Sys2Proof.Machine.execIadd64 e s
  | .imin e => Sys2Proof.Machine.execImin e s
  | .imax e => Sys2Proof.Machine.execImax e s
  | .iabs e => Sys2Proof.Machine.execIabs e s
  | .icmp e => Sys2Proof.Machine.execIcmp e s
  | .icmp64 e => Sys2Proof.Machine.execIcmp64 e s
  | .sel e => Sys2Proof.Machine.execSel e s
  | .and e => Sys2Proof.Machine.execAnd e s
  | .or e => Sys2Proof.Machine.execOr e s
  | .xor e => Sys2Proof.Machine.execXor e s
  | .andn e => Sys2Proof.Machine.execAndn e s
  | .bool3 e => Sys2Proof.Machine.execBool3 e s
  | .shl e => Sys2Proof.Machine.execShl e s
  | .shr e => Sys2Proof.Machine.execShr e s
  | .sar e => Sys2Proof.Machine.execSar e s
  | .shf e => Sys2Proof.Machine.execShf e s
  | .bfe e => Sys2Proof.Machine.execBfe e s
  | .bfi e => Sys2Proof.Machine.execBfi e s
  | .popc e => Sys2Proof.Machine.execPopc e s
  | .clz e => Sys2Proof.Machine.execClz e s
  | .ctz e => Sys2Proof.Machine.execCtz e s
  | .brev e => Sys2Proof.Machine.execBrev e s
  | .lea e => Sys2Proof.Machine.execLea e s
  | .bytex e => Sys2Proof.Machine.execBytex e s
  | .shfl e => Sys2Proof.Machine.execShfl e s
  | .vote e => Sys2Proof.Machine.execVote e s
  | .matchLanes e => Sys2Proof.Machine.execMatch e s
  | .redw e => Sys2Proof.Machine.execRedw e s
  | .scanw e => Sys2Proof.Machine.execScanw e s
  | .ksort e => Sys2Proof.Machine.execKsort e s
  | .vtog e => Sys2Proof.Machine.execVtog e s
  | .fadd e => Sys2Proof.Machine.execFadd e s
  | .fmul e => Sys2Proof.Machine.execFmul e s
  | .ffma e => Sys2Proof.Machine.execFfma e s
  | .fmin e => Sys2Proof.Machine.execFmin e s
  | .fmax e => Sys2Proof.Machine.execFmax e s
  | .fcmp e => Sys2Proof.Machine.execFcmp e s
  | .frnd e => Sys2Proof.Machine.execFrnd e s
  | .fclass e => Sys2Proof.Machine.execFclass e s
  | .frcp e => Sys2Proof.Machine.execFrcp e s
  | .frsq e => Sys2Proof.Machine.execFrsq e s
  | .fsqrt e => Sys2Proof.Machine.execFsqrt e s
  | .fexp2 e => Sys2Proof.Machine.execFexp2 e s
  | .flog2 e => Sys2Proof.Machine.execFlog2 e s
  | .fsin e => Sys2Proof.Machine.execFsin e s
  | .fcos e => Sys2Proof.Machine.execFcos e s
  | .ftanh e => Sys2Proof.Machine.execFtanh e s
  | .hadd2 e => Sys2Proof.Machine.execHadd2 e s
  | .hmul2 e => Sys2Proof.Machine.execHmul2 e s
  | .hfma2 e => Sys2Proof.Machine.execHfma2 e s
  | .hmin2 e => Sys2Proof.Machine.execHmin2 e s
  | .hmax2 e => Sys2Proof.Machine.execHmax2 e s
  | .hcmp2 e => Sys2Proof.Machine.execHcmp2 e s
  | .fdot2 e => Sys2Proof.Machine.execFdot2 e s
  | .dadd e => Sys2Proof.Machine.execDadd e s
  | .dmul e => Sys2Proof.Machine.execDmul e s
  | .dfma e => Sys2Proof.Machine.execDfma e s
  | .dmin e => Sys2Proof.Machine.execDmin e s
  | .dmax e => Sys2Proof.Machine.execDmax e s
  | .dcmp e => Sys2Proof.Machine.execDcmp e s
  | .drcp e => Sys2Proof.Machine.execDrcp e s
  | .drsq e => Sys2Proof.Machine.execDrsq e s
  | .dclass e => Sys2Proof.Machine.execDclass e s
  | .drnd e => Sys2Proof.Machine.execDrnd e s
  | .cvt e => Sys2Proof.Machine.execCvt e s
  | .f2i e => Sys2Proof.Machine.execF2i e s
  | .i2f e => Sys2Proof.Machine.execI2f e s
  | .packq e => Sys2Proof.Machine.execPackq e s
  | .unpackq e => Sys2Proof.Machine.execUnpackq e s
  | .scalex e => Sys2Proof.Machine.execScalex e s
  | .bra e => Sys2Proof.Machine.execBra e s
  | .brx e => Sys2Proof.Machine.execBrx e s
  | .switch e => Sys2Proof.Machine.execSwitch e s
  | .join e => Sys2Proof.Machine.execJoin e s
  | .call e => Sys2Proof.Machine.execCall e s
  | .callx e => Sys2Proof.Machine.execCallx e s
  | .ret e => Sys2Proof.Machine.execRet e s
  | .exit e => Sys2Proof.Machine.execExit e s
  | .yields e => Sys2Proof.Machine.execYields e s
  | .loop e => Sys2Proof.Machine.execLoop e s
  | .loopp e => Sys2Proof.Machine.execLoopp e s
  | .breakLoop e => Sys2Proof.Machine.execBreak e s
  | .lcget e => Sys2Proof.Machine.execLcget e s
  | .lcset e => Sys2Proof.Machine.execLcset e s
  | .ipref e => Sys2Proof.Machine.execIpref e s
  | .trap e => Sys2Proof.Machine.execTrap e s
  | .bkpt e => Sys2Proof.Machine.execBkpt e s
  | .tbbind e => Sys2Proof.Machine.execTbbind e s
  | .ld e => Sys2Proof.Machine.execLd e s
  | .st e => Sys2Proof.Machine.execSt e s
  | .ldx e => Sys2Proof.Machine.execLdx e s
  | .stx e => Sys2Proof.Machine.execStx e s
  | .lds e => Sys2Proof.Machine.execLds e s
  | .sts e => Sys2Proof.Machine.execSts e s
  | .ldr e => Sys2Proof.Machine.execLdr e s
  | .str e => Sys2Proof.Machine.execStr e s
  | .pref e => Sys2Proof.Machine.execPref e s
  | .clean e => Sys2Proof.Machine.execClean e s
  | .inval e => Sys2Proof.Machine.execInval e s
  | .cpy e => Sys2Proof.Machine.execCpy e s
  | .cpyo e => Sys2Proof.Machine.execCpyo e s
  | .cpyr e => Sys2Proof.Machine.execCpyr e s
  | .waitc e => Sys2Proof.Machine.execWaitc e s
  | .qinit e => Sys2Proof.Machine.execQinit e s
  | .qpush e => Sys2Proof.Machine.execQpush e s
  | .qpop e => Sys2Proof.Machine.execQpop e s
  | .atom e => Sys2Proof.Machine.execAtom e s
  | .atomc e => Sys2Proof.Machine.execAtomc e s
  | .red e => Sys2Proof.Machine.execRed e s
  | .fence e => Sys2Proof.Machine.execFence e s
  | .afence e => Sys2Proof.Machine.execAfence e s
  | .ticket e => Sys2Proof.Machine.execTicket e s
  | .served e => Sys2Proof.Machine.execServed e s
  | .advance e => Sys2Proof.Machine.execAdvance e s
  | .waitmon e => Sys2Proof.Machine.execWaitmon e s
  | .tokpass e => Sys2Proof.Machine.execTokpass e s
  | .map e => Sys2Proof.Machine.execMap e s
  | .mma e => Sys2Proof.Machine.execMma e s
  | .mmas e => Sys2Proof.Machine.execMmas e s
  | .mzero e => Sys2Proof.Machine.execMzero e s
  | .mlda e => Sys2Proof.Machine.execMlda e s
  | .mdrain e => Sys2Proof.Machine.execMdrain e s
  | .mbyp e => Sys2Proof.Machine.execMbyp e s
  | .mfence e => Sys2Proof.Machine.execMfence e s
  | .mwait e => Sys2Proof.Machine.execMwait e s
  | .tldt e => Sys2Proof.Machine.execTldt e s
  | .tstt e => Sys2Proof.Machine.execTstt e s
  | .ordbegin e => Sys2Proof.Machine.execOrdbegin e s
  | .ordend e => Sys2Proof.Machine.execOrdend e s
  | .sample e => Sys2Proof.Machine.execSample e s
  | .sampleg e => Sys2Proof.Machine.execSampleg e s
  | .tfetch e => Sys2Proof.Machine.execTfetch e s
  | .istore e => Sys2Proof.Machine.execIstore e s
  | .trace e => Sys2Proof.Machine.execTrace e s
  | .emit e => Sys2Proof.Machine.execEmit e s
  | .vout e => Sys2Proof.Machine.execVout e s
  | .discard e => Sys2Proof.Machine.execDiscard e s
  | .rdsys e => Sys2Proof.Machine.execRdsys e s
  | .wrsys e => Sys2Proof.Machine.execWrsys e s
  | .sret e => Sys2Proof.Machine.execSret e s
  | .uret e => Sys2Proof.Machine.execUret e s
  | .tlbfill e => Sys2Proof.Machine.execTlbfill e s
  | .tlbinv e => Sys2Proof.Machine.execTlbinv e s
  | .dharv e => Sys2Proof.Machine.execDharv e s
  | .walkpop e => Sys2Proof.Machine.execWalkpop e s
  | .handover e => Sys2Proof.Machine.execHandover e s
  | .tokdef e => Sys2Proof.Machine.execTokdef e s
  | .tokdefDel e => Sys2Proof.Machine.execTokdefDel e s
  | .crdef e => Sys2Proof.Machine.execCrdef e s
  | .crdefDel e => Sys2Proof.Machine.execCrdefDel e s
  | .crdefRd e => Sys2Proof.Machine.execCrdefRd e s
  | .crdefRdclr e => Sys2Proof.Machine.execCrdefRdclr e s
  | .resumew e => Sys2Proof.Machine.execResumew e s
  | .haltw e => Sys2Proof.Machine.execHaltw e s
  | .rdwarp e => Sys2Proof.Machine.execRdwarp e s
  | .wrwarp e => Sys2Proof.Machine.execWrwarp e s
  | .time e => Sys2Proof.Machine.execTime e s
  | .bbmark e => Sys2Proof.Machine.execBbmark e s
  | .launch e => Sys2Proof.Machine.execLaunch e s
  | .reservedOpcode op e => Sys2Proof.Machine.execReservedOpcode op e s
  | .loadDataApplied w o err => Sys2Proof.Machine.execLoadDataApplied w o err s
  | .storePerformed w o => Sys2Proof.Machine.execStorePerformed w o s
  | .atomicAct w op o => Sys2Proof.Machine.execAtomicAct w op o s
  | .homeRetry line => Sys2Proof.Machine.execHomeRetry line s
  | .copyStart w op => Sys2Proof.Machine.execCopyStart w op s
  | .copyComplete w op => Sys2Proof.Machine.execCopyComplete w op s
  | .ldrResult w o => Sys2Proof.Machine.execLdrResult w o s
  | .strPerformed w op => Sys2Proof.Machine.execStrPerformed w op s
  | .remotePushArrival w op => Sys2Proof.Machine.execRemotePushArrival w op s
  | .remotePushAppend wg q => Sys2Proof.Machine.execRemotePushAppend wg q s
  | .qpushWake w k => Sys2Proof.Machine.execQpushWake w k s
  | .qpopWake w k => Sys2Proof.Machine.execQpopWake w k s
  | .waitcWake w k => Sys2Proof.Machine.execWaitcWake w k s
  | .granuleWaitEnd w k => Sys2Proof.Machine.execGranuleWaitEnd w k s
  | .matrixOpStart eng err => Sys2Proof.Machine.execMatrixOpStart eng err s
  | .matrixReadComplete eng => Sys2Proof.Machine.execMatrixReadComplete eng s
  | .matrixOpComplete eng => Sys2Proof.Machine.execMatrixOpComplete eng s
  | .mwaitWake w k => Sys2Proof.Machine.execMwaitWake w k s
  | .servedWake w k => Sys2Proof.Machine.execServedWake w k s
  | .waitmonWake w k => Sys2Proof.Machine.execWaitmonWake w k s
  | .waitmonTimeout w k => Sys2Proof.Machine.execWaitmonTimeout w k s
  | .waitmonReread w k => Sys2Proof.Machine.execWaitmonReread w k s
  | .ordbeginGrant w k => Sys2Proof.Machine.execOrdbeginGrant w k s
  | .tldtResult w op => Sys2Proof.Machine.execTldtResult w op s
  | .textureResult w op => Sys2Proof.Machine.execTextureResult w op s
  | .traceComplete w op => Sys2Proof.Machine.execTraceComplete w op s
  | .emitAppend w k => Sys2Proof.Machine.execEmitAppend w k s
  | .tokenHandoffIdle region => Sys2Proof.Machine.execTokenHandoffIdle region s
  | .tokenHandoffTimeout region => Sys2Proof.Machine.execTokenHandoffTimeout region s
  | .icacheFill core line err => Sys2Proof.Machine.execIcacheFill core line err s
  | .walkerStart die => Sys2Proof.Machine.execWalkerStart die s
  | .harvestInterval ctx => Sys2Proof.Machine.execHarvestInterval ctx s
  | .handoverDrain stack => Sys2Proof.Machine.execHandoverDrain stack s
  | .electrumWriteback core line => Sys2Proof.Machine.execElectrumWriteback core line s
  | .homeWriteback core line err => Sys2Proof.Machine.execHomeWriteback core line err s
  | .correctionRecord unit corrections address => Sys2Proof.Machine.execCorrectionRecord unit corrections address s
  | .warpEnd w => Sys2Proof.Machine.execWarpEnd w s
  | .streamDescriptorWrite slot data => Sys2Proof.Machine.execStreamDescriptorWrite slot data s
  | .tailAdvance slot => Sys2Proof.Machine.execTailAdvance slot s
  | .recordStart slot => Sys2Proof.Machine.execRecordStart slot s
  | .launchComplete launch => Sys2Proof.Machine.execLaunchComplete launch s
  | .waitConditionMet slot seq => Sys2Proof.Machine.execWaitConditionMet slot seq s
  | .waitTimeout slot seq => Sys2Proof.Machine.execWaitTimeout slot seq s
  | .graphLoad graph => Sys2Proof.Machine.execGraphLoad graph s
  | .tileTaskRetire o => Sys2Proof.Machine.execTileTaskRetire o s
  | .dispatchOpportunity die => Sys2Proof.Machine.execDispatchOpportunity die s
  | .classWaitLimit gang => Sys2Proof.Machine.execClassWaitLimit gang s
  | .class3Promotion gang => Sys2Proof.Machine.execClass3Promotion gang s
  | .class0Request gang => Sys2Proof.Machine.execClass0Request gang s
  | .victimSave gang => Sys2Proof.Machine.execVictimSave gang s
  | .orderedSectionTimeout w => Sys2Proof.Machine.execOrderedSectionTimeout w s
  | .saveAreaCopy o => Sys2Proof.Machine.execSaveAreaCopy o s
  | .watchdogFire ctx => Sys2Proof.Machine.execWatchdogFire ctx s
  | .xwaitTimeout ctx => Sys2Proof.Machine.execXwaitTimeout ctx s
  | .thermalInterval core celsius => Sys2Proof.Machine.execThermalInterval core celsius s
  | .migration wg => Sys2Proof.Machine.execMigration wg s
  | .migrationAbandon wg => Sys2Proof.Machine.execMigrationAbandon wg s
  | .powerSample milliwatts => Sys2Proof.Machine.execPowerSample milliwatts s
  | .powerStateEntry unit => Sys2Proof.Machine.execPowerStateEntry unit s
  | .unitWake unit => Sys2Proof.Machine.execUnitWake unit s
  | .frontEndBatch pass => Sys2Proof.Machine.execFrontEndBatch pass s
  | .subpassRasterise task => Sys2Proof.Machine.execSubpassRasterise task s
  | .fragmentWarpStart task => Sys2Proof.Machine.execFragmentWarpStart task s
  | .lateTest task => Sys2Proof.Machine.execLateTest task s
  | .verticalBlank head => Sys2Proof.Machine.execVerticalBlank head s
  | .headConfigWrite head offset data => Sys2Proof.Machine.execHeadConfigWrite head offset data s
  | .peerApertureWrite aperture data => Sys2Proof.Machine.execPeerApertureWrite aperture data s
  | .ptrootWrite ctx data => Sys2Proof.Machine.execPtrootWrite ctx data s
  | .registerWrite offset wide data => Sys2Proof.Machine.execRegisterWrite offset wide data s
  | .hostMemRead pa exclusive => Sys2Proof.Machine.execHostMemRead pa exclusive s
  | .hostMemWrite pa mask data => Sys2Proof.Machine.execHostMemWrite pa mask data s
  | .birsp line half mask data => Sys2Proof.Machine.execBirsp line half mask data s
  | .snpdata core pa => Sys2Proof.Machine.execSnpdata core pa s
  | .snpinv core pa => Sys2Proof.Machine.execSnpinv core pa s
  | .snpcur core pa => Sys2Proof.Machine.execSnpcur core pa s
  | .peerCompletion w o => Sys2Proof.Machine.execPeerCompletion w o s
  | .coldStart => Sys2Proof.Machine.execColdStart s
  | .linkTraining fullRate => Sys2Proof.Machine.execLinkTraining fullRate s
  | .linkRetrain fullRate => Sys2Proof.Machine.execLinkRetrain fullRate s
  | .loadfw address => Sys2Proof.Machine.execLoadfw address s
  | .warm => Sys2Proof.Machine.execWarm s
  | .resync address => Sys2Proof.Machine.execResync address s
  | .debugrd arg0 arg1 => Sys2Proof.Machine.execDebugrd arg0 arg1 s
  | .flowcopy address => Sys2Proof.Machine.execFlowcopy address s
  | .spdmRequest code data => Sys2Proof.Machine.execSpdmRequest code data s
  | .ldsResult w o => Sys2Proof.Machine.execLdsResult w o s
  | .scanLine head line => Sys2Proof.Machine.execScanLine head line s
  | .imageRegionError => Sys2Proof.Machine.execImageRegionError s

end Sys2Proof.Machine
end

