-- ==== Sys2Proof/Machine/Offers.lean ====
section
/-!
DEFINITION. What moves next: the head of the agenda, which may be any act, or one of the acts that the state offers when the agenda is
empty (assumption 1).
-/
namespace Sys2Proof.Machine

/-- The events that may carry an operation on. -/
def OpBody.events (b : OpBody) (w id : Nat) : List Instr :=
  match b with
  | .load .. => b.lineKeys.flatMap fun k => [.loadDataApplied w ⟨id, k⟩ false, .peerCompletion w ⟨id, k⟩]
  | .words _ => [.ldsResult w ⟨id, false⟩]
  | .slot => []
  | .store .. => b.lineKeys.flatMap fun k => [.storePerformed w ⟨id, k⟩, .peerCompletion w ⟨id, k⟩]
  | .clean .. => [.storePerformed w ⟨id, 0⟩]
  | .atomic .. => (0 :: b.lineKeys).flatMap fun k => [.atomicAct w id ⟨k, false⟩, .peerCompletion w ⟨id, k⟩]
  | .atomLocal offs .. => (0 :: (offs.map fun o => o.2 / 128).foldl setAdd []).map fun k => .atomicAct w id ⟨k, false⟩
  | .ticket pa _ => [.atomicAct w id ⟨pa / 128, false⟩]
  | .advance pa _ => [.atomicAct w id ⟨pa / 128, false⟩]
  | .copy _ => [.copyStart w id, .copyComplete w id]
  | .ldr .. => [.ldrResult w ⟨id, false⟩]
  | .str _ => [.strPerformed w id]
  | .push .. => [.remotePushArrival w id]
  | .tldt .. => [.tldtResult w id]
  | .tstt .. => [.storePerformed w ⟨id, 0⟩]
  | .sample .. => [.textureResult w id]
  | .tfetch .. => [.textureResult w id]
  | .istore .. => [.storePerformed w ⟨id, 0⟩]
  | .trace .. => [.traceComplete w id]
  | .emit .. => [.storePerformed w ⟨id, 0⟩]
  | .vout => [.storePerformed w ⟨id, 0⟩]

/-- The events that may end a split's wait. -/
def Wait.events (x : Wait) (w k : Nat) : List Instr :=
  match x with
  | .push .. => [.qpushWake w k]
  | .pop .. => [.qpopWake w k]
  | .counter .. => [.waitcWake w k]
  | .matrix _ => [.mwaitWake w k]
  | .served .. => [.servedWake w k]
  | .monitor .. => [.waitmonWake w k, .waitmonTimeout w k, .waitmonReread w k]
  | .ordered _ => [.ordbeginGrant w k]
  | .ring .. => [.emitAppend w k]
  | .stall .granules => [.granuleWaitEnd w k]
  | _ => []

/-- The events of a warp. -/
def Warp.events (x : Warp) (w : Nat) : List Instr :=
  (x.pend.flatMap fun p => p.body.events w p.id) ++ (x.splits.flatMap fun k => k.2.wait.events w k.1) ++ [.warpEnd w, .orderedSectionTimeout w]

/-- The events of a workgroup's queues and of its migration. -/
def State.wgEvents (s : State) : List Instr :=
  (s.wgs.flatMap fun g => g.2.queues.map fun q => Instr.remotePushAppend g.1 q.1)
    ++ s.moves.flatMap fun m => [.migration m.1, .migrationAbandon m.1]

/-- The events of cores, engines, dies, stacks and regions. -/
def State.unitEvents (s : State) : List Instr :=
  (s.engines.flatMap fun e => if e.2.queue.isEmpty then [] else [.matrixOpStart e.1 false, .matrixReadComplete e.1, .matrixOpComplete e.1])
    ++ (s.cores.flatMap fun c => c.2.fills.map fun f => Instr.icacheFill c.1 f.line false)
    ++ (s.dies.flatMap fun d => if d.2.miss.isEmpty then [] else [.walkerStart d.1])
    ++ (s.homes.flatMap fun h => if h.2.handover.isSome then [.handoverDrain h.1] else [])
    ++ (s.regions.flatMap fun r => if r.2.waiting.isEmpty then [] else [.tokenHandoffIdle r.1, .tokenHandoffTimeout r.1])
    ++ s.refusals.map (fun r => .homeRetry r.1)
    ++ s.power.map fun p => .unitWake p.1

/-- The events of streams, launches, graphs and gangs. -/
def State.workEvents (s : State) : List Instr :=
  let ids := s.launches.map (·.1) ++ s.graphs.map (·.1) ++ s.gangs.map (·.1)
  (s.slots.flatMap fun x => [Instr.tailAdvance x.1, .recordStart x.1]
      ++ x.2.recs.flatMap fun r => match r.st with
        | .waiting .. => [.waitConditionMet x.1 r.seq, .waitTimeout x.1 r.seq]
        | _ => [])
    ++ s.launches.map (fun l => .launchComplete l.1)
    ++ s.graphs.map (fun g => .graphLoad g.1)
    ++ s.tasks.flatMap (fun t => [.tileTaskRetire ⟨t.1, false⟩, .subpassRasterise t.1, .fragmentWarpStart t.1, .lateTest t.1])
    ++ s.rasters.map (fun r => .frontEndBatch r.1)
    ++ (if ids.isEmpty then [] else [.dispatchOpportunity 0, .dispatchOpportunity 1])
    ++ ids.flatMap (fun g => [.classWaitLimit g, .class3Promotion g, .class0Request g])
    ++ s.gangs.flatMap (fun g => if g.2.victim then [.victimSave g.1] else if g.2.saved.isSome then [.saveAreaCopy ⟨g.1, false⟩] else [])

/-- The events of contexts, heads and the management unit. -/
def State.timedEvents (s : State) : List Instr :=
  (s.ctxs.flatMap fun c => [.watchdogFire c.1, .xwaitTimeout c.1, .harvestInterval c.1])
    ++ (s.heads.flatMap fun h => if h.2.enabled then [.verticalBlank h.1] else [])
    ++ (if s.mgmt.warmPending && s.mgmt.phase = .running then [.warm] else [])

/-- Everything that may move by itself. What comes from outside the part (host, peers, sensors, errors, the need to evict or to save
power) comes by the agenda only. -/
def State.offers (s : State) : List Act :=
  s.pickable ++ (List.range s.homeQ.length).map Act.home
    ++ (if s.mgmt.debugging then [Act.mailbox] else [])
    ++ (s.graphs.filterMap fun g => if g.2.freeing.isEmpty then none else some (Act.tiles g.1))
    ++ (s.cores.flatMap fun c => (List.range c.2.prefs.length).map fun n => Act.prefetch c.1 n)
    ++ ((s.warps.flatMap fun w => w.2.events w.1) ++ s.wgEvents ++ s.unitEvents ++ s.workEvents ++ s.timedEvents).map Act.event

/-- The act that moves next and the state without it on the agenda: the agenda's head, else one of the acts offered, in turn. -/
def State.nextAct (s : State) : Option Act × State :=
  match s.agenda with
  | a :: t => (some a, { s with agenda := t })
  | [] => let os := s.offers; (os[s.free % os.length]?, s)

end Sys2Proof.Machine
end

