-- ==== Sys2Proof/Machine/Step.lean ====
section
/-!
DEFINITION. One step of the part: the act that moves next is an event, which executes, or a split's issue, which fetches, decodes
and executes (assumption 1); and the placing of an instruction where the next step fetches it.
-/
namespace Sys2Proof.Machine

/-- Who asks the home slices in an event (11 R248): an operation, a waiting warp, or another unit, 0. -/
def requester (i : Instr) : Nat :=
  match i with
  | .loadDataApplied _ o _ | .storePerformed _ o | .peerCompletion _ o => o.op
  | .atomicAct _ op _ => op
  | .copyStart _ op | .copyComplete _ op | .textureResult _ op | .traceComplete _ op => op
  | .servedWake w _ | .waitmonWake w _ | .waitmonReread w _ => w
  | _ => 0

/-- A prepared instruction executes. A split that a counter, granules or an engine holds back has not been picked (03 R89): it merges with
none. -/
def State.issuePicked (s : State) (w k : Nat) (i : Instr) : Host.Outcome State Fault Refusal :=
  if (match s.warp? w with | some x => x.mergesAt k | none => false) then
    match exec i s with
    | .next t => if t.heldBack w k then .next t else exec i (s.mergePick w k)
    | r => r
  else exec i s

/-- The state after an issue, in which a first pick that issued leaves what the second pick of the ck goes by, and one that did not, nothing;
a second pick that did not issue leaves the first. -/
def State.afterIssue (s : State) (w k : Nat) (first : Option Picked) : State :=
  { s with picked := if s.heldBack w k then none else first }

/-- A split issues: `g` is what a second pick of the ck reads of g (02 R57). -/
def State.issueOf (s : State) (w k : Nat) (g : Option (Store 32)) : Host.Outcome State Fault Refusal :=
  match ({ s with asker := w, picked := none } : State).prepare w k g with
  | (s', some (i, u)) =>
    match s'.issuePicked w k i with
    | .next t => .next (if g.isNone then t.afterIssue w k (some u) else if t.heldBack w k then { t with picked := s.picked } else t)
    | r => r
  | (s, none) => .next s

/-- What the second pick of the ck reads of g: where it is another split of the first pick's warp, the values at the start of the ck (02
R57). -/
def State.ckStart (s : State) (w : Nat) : Option (Store 32) :=
  match s.picked, s.warp? w with
  | some u, some x => some (if u.warp = w then u.g else x.g)
  | _, _ => none

/-- A split issues as the first pick of its partition, where it may be that (03 R90). -/
def State.firstPick (s : State) (w k : Nat) : Host.Outcome State Fault Refusal :=
  match (s.warp? w).bind fun x => (x.split? k).map fun sp => (x, sp) with
  | some (x, sp) => if s.mayPick x sp then s.issueOf w k none else .next { s with picked := none }
  | none => .next { s with picked := none }

/-- One act performed. -/
def State.perform (s : State) (a : Option Act) : Host.Outcome State Fault Refusal :=
  match a with
  | none => .next s
  | some (.event i) => exec i { s with picked := none, asker := requester i }
  | some (.issue w k) => s.firstPick w k
  | some (.second w k) => if s.secondPick = some (w, k) then s.issueOf w k (s.ckStart w) else .next { s with picked := none }
  | some (.home n) => .next ({ s with picked := none }.homeServe n)
  | some (.prefetch c n) => .next ({ s with picked := none }.servePrefetch c n)
  | some (.tiles g) => .next (({ s with picked := none }.drainTiles g).settleGraph g)
  | some .mailbox => .next ({ s with picked := none }.mailboxOn)
  | some (.spoil x) => .next ({ s with picked := none }.spoil x)
  | some (.kill w k) => .next ({ s with picked := none }.supervisorKill w k)

/-- One step. -/
def step (s : State) : Host.Outcome State Fault Refusal :=
  let p := s.nextAct
  p.2.watch.tick.perform p.1

/-- s with a warp whose split issues the instruction of bits w next (assumption 21). -/
def State.withFetchWord (s : State) (nbits w : Nat) : State := s.placeProgram (BitVec.ofNat 128 (w % 2 ^ nbits))

end Sys2Proof.Machine
end

