-- ==== Sys2Proof/Safety.lean ====
section
/-!
DEFINITION. What counts as a safe run, and the terms the statements use: what an instruction leaves alone, when it passes its checks,
and when its split leaves it for the next one.
-/
namespace Sys2Proof.Machine

/-- Memory and every scratchpad are in canonical form. -/
def State.memoryForm (s : State) : Bool := s.mem.wf && s.wgs.all fun p => p.2.sp.wf

/-- A warp without its split table, its reconvergence stack and the lanes whose order its operations stand for (a merge adds lanes to
them, 06 R141). -/
def Warp.rest (x : Warp) : Warp := { x with splits := [], stack := [], pend := x.pend.map fun p => { p with mask := 0 } }

/-- A warp without what a result may change besides: registers, their poison, FPSTAT and the results still due. -/
def Warp.bare (x : Warp) : Warp :=
  { x with splits := [], stack := [], v := [], g := [], o := [], pv := [], pg := [], po := [], fpstat := 0,
           pend := x.pend.map fun p => { p with mask := 0, dsts := [] } }

/-- From s to t nothing differs but one warp and the counter of fresh numbers: no byte of memory, no scratchpad, no cache, no other
warp. -/
def OnlyWarp (s t : State) (w : Nat) : Prop :=
  t = { s with warps := t.warps, nextId := t.nextId } ∧ ∀ q, q ≠ w → t.warp? q = s.warp? q

/-- The issue that a state names for an instruction of a form with given fields, where its split has lanes, the instruction passes
every check of 02 R69 and is not held behind an acquire (09 R215). -/
def State.ready? (s : State) (f : Form) (e : Enc) : Option Issue :=
  (s.issue? f e).bind fun c => if c.precheck.isNone && !c.acquiring && c.sp.mask ≠ 0 then some c else none

/-- The form that an instruction has for the warp that a state names: that of TLDT and TSTT turns on the attachment (13 R298). -/
def State.formNow (s : State) (i : Instr) : Option (Form × Enc) := (s.cur.bind fun u => s.warp? u.warp).bind fun x => s.formOf x i

/-- Nothing is left to do by themselves for a warp's tables (06 R139, 07 R162). -/
def Warp.settled (x : Warp) : Bool :=
  (x.splits.all fun p => !(p.2.mask ≠ 0 && p.2.live = 0 && p.2.frame.innermost.isSome) && p.2.mask ≠ 0) &&
  x.stack.all fun e => match e with
    | .join _ ex ar _ _ lp => ex ≠ 0 && !(ex = ar && (lp.isNone || x.freeEntry.isSome))
    | .path _ _ m _ _ _ => m ≠ 0 && x.freeEntry.isNone

/-- The issuing warp as it stands in s. The issue reads it as c.warp: the same, but for g where it is the second pick of its ck, which
reads g as it stood at the start of the ck (02 R57). -/
def Issue.now (c : Issue) (s : State) : Warp := (s.warp? c.w).getD c.warp

/-- The issuing split as it stands once it has issued: ready, the youngest of its partition. -/
def Issue.issued (c : Issue) (s : State) : Split := { c.sp with wait := .ready, age := s.nextId, xfails := [] }

/-- The issuing split as y holds it after its instruction: y is the issuing warp in t and, where no loop ends at the instruction and
the warp's tables are settled, its other splits and its stack stand as before and the issuing split is sp. -/
def Goes (c : Issue) (t : State) (y : Warp) (sp : Split) : Prop :=
  t.warp? c.w = some y ∧
  (c.atEnd = false → c.warp.settled = true →
    y.stack = c.warp.stack ∧ y.split? c.k = some sp ∧ ∀ q, q ≠ c.k → y.split? q = c.warp.split? q)

/-- Where no loop ends at the instruction and the warp's tables are settled, nothing merges: every operation of y stands for the lanes
it stands for in x. -/
def Orders (c : Issue) (x y : Warp) : Prop :=
  c.atEnd = false → c.warp.settled = true → y.pend.map (·.mask) = x.pend.map (·.mask)

/-- The issuing split gone on to the next instruction. -/
def Issue.after (c : Issue) (s : State) : Split := { c.issued s with pc := c.next s, seq := true }

/-- From s1 on, in which the instruction has had its effect, nothing but the issuing split has moved: it has left the instruction, with
whatever f changes in it. -/
def Left (c : Issue) (s s1 t : State) (f : Split → Split := id) : Prop :=
  OnlyWarp s1 t c.w ∧ ∃ x y, s1.warp? c.w = some x ∧ y.rest = x.rest ∧ Orders c x y ∧ Goes c t y (f { c.issued s with pc := c.next s1, seq := true })

/-- From s1 on the issuing split waits at the instruction, its latches invalid (03 R86), and nothing else has moved. -/
def Waits (c : Issue) (s s1 t : State) (wait : Wait) : Prop :=
  OnlyWarp s1 t c.w ∧ ∃ x y, s1.warp? c.w = some x ∧ t.warp? c.w = some y ∧ y.rest = x.rest ∧ y.pend = x.pend ∧ y.stack = x.stack ∧
    y.split? c.k = some { c.issued s with wait, latches := c.sp.latches.clear } ∧ ∀ q, q ≠ c.k → y.split? q = x.split? q

/-- The release side of an order has been performed (09 R215, 10 R233): s2 is s with the warp's earlier operations complete and, at
cluster scope or wider, the column clean, at system scope its cluster's unit too for host memory. -/
def Released (c : Issue) (s s2 : State) (asked : Prop) (scope : Nat) : Prop :=
  ¬ asked ∧ s2 = s ∨
  asked ∧ c.warp.undrained = false ∧
    (scope < 2 ∧ s2 = s ∨
     2 ≤ scope ∧ ∃ s1, s.cleanColumn c.warp.core (fun _ => true) = (s1, true) ∧
       s2 = if scope = 4 then s1.flushHost (clusterOf c.warp.core) else s1)

/-- The warp's tile task, if it has one that is not pinned yet, is pinned in s2 after the warp's earlier operations (16 R364). -/
def Pinned (c : Issue) (s s2 : State) : Prop :=
  s.openTask c.warp.task = none ∧ s2 = s ∨
  ∃ t, s.openTask c.warp.task = some t ∧ c.warp.undrained = false ∧ s.pinTask t = (s2, true)

/-- Runs of bytes lie in the task's declared outputs and leave the core's uncommitted lines, those of pending operations among them, within 2 MiB
(16 R363, R364). -/
def Fits (c : Issue) (s : State) (t : Nat) (x : Task) (runs : List (Nat × Nat)) : Prop :=
  let due := s.pendingLines c.warp.core
  s.taskLines c.warp.core + due.length +
      ((runLines c.warp.ctx runs).filter fun l => !(s.taskLocs t c.warp.core).contains l && !due.contains (t, l)).length ≤ 16384 ∧
    ∀ r ∈ runs, s.inOutputs x r.1 r.2 = true

/-- A write of runs of bytes may go on from s2: into the declared outputs of an unpinned task with room left, or its task pinned (16 R363,
R364). -/
def WritesFrom (c : Issue) (s s2 : State) (runs : List (Nat × Nat)) : Prop :=
  (s.openTask c.warp.task).bind (fun t => (Tab.get? s.tasks t).map fun x => (t, x)) = none ∧ s2 = s ∨
  (∃ t x, s.openTask c.warp.task = some t ∧ Tab.get? s.tasks t = some x ∧
    (Fits c s t x runs ∧ s2 = s ∨ ¬ Fits c s t x runs ∧ Pinned c s s2))

/-- The words of some lanes' results are in the registers that D names, unpoisoned, and every other register word is as in s. A g
register takes the one result of an instruction that has one. -/
def Wrote (c : Issue) (s : State) (y : Warp) (outs : List (Nat × List Word)) : Prop :=
  ∀ r lane, lane < 32 →
    (∀ p ∈ outs, ∀ j x, p.2[j]? = some x → c.reg c.e.d.toNat j = some r →
      ((∃ n, r = .g n) ∧ outs.length = 1 ∨ (∀ n, r ≠ .g n) ∧ p.1 = lane) → y.getReg r lane = x ∧ y.poison r lane = 0) ∧
    ((∀ p ∈ outs, ∀ j x, p.2[j]? = some x → c.reg c.e.d.toNat j = some r → p.1 ≠ lane ∧ ∀ n, r ≠ .g n) →
      y.getReg r lane = (c.now s).getReg r lane ∧ y.poison r lane = (c.now s).poison r lane)

/-- What W leaves of a result (02 R71): with W = 1 no register is written. -/
def Issue.kept (c : Issue) (outs : List (Nat × List Word)) : List (Nat × List Word) := if c.e.w = 1 then [] else outs

/-- The latches after a result is pushed into l0 of the executing lanes; with U = 1 nothing is pushed (02 R72). -/
def Issue.pushed (c : Issue) (outs : List (Nat × List Word)) : Latches :=
  if c.e.uni then c.sp.latches else c.sp.latches.push (outs.map fun p => (p.1, low64 p.2))

/-- The flags raised enable no exception trap (01 R47). -/
def Issue.untrapped (c : Issue) (fs : List (Nat × FpFlags)) : Prop := trapLanes c.warp fs = 0

/-- The results of a direct-class instruction. -/
def Issue.outs (c : Issue) (f : Nat → LaneOut) : List (Nat × List Word) := c.lanes.map fun i => (i, (f i).words)
/-- The flags it raises. -/
def Issue.flags (c : Issue) (f : Nat → LaneOut) : List (Nat × FpFlags) := c.lanes.map fun i => (i, (f i).flags)

/-- What a lane instruction writes: each lane's value, or, where D is uniform, the one value, while a lane executes. -/
def Issue.laneDest (c : Issue) (f : Nat → List Word) (g : List Word) : List (Nat × List Word) :=
  if c.uniformD then (if c.em = 0 then [] else [(0, g)]) else (lanesOf c.em).map fun i => (i, f i)

end Sys2Proof.Machine
end

