-- ==== Sys2Proof/Certificates/Slice0/Obligations.lean ====
section
/-!
DEFINITION. The statements for the provers, by the rules of spec/. The terms they share (OnlyWarp, Goes, Wrote and the rest) stand in
Sys2Proof/Safety.lean.
-/

open Sys2Proof Sys2Proof.Machine

/-! ### Integer, lane and floating-point results -/

/-- A direct-class instruction that raises no flag: with the words given for each lane it ANSWERS A NEXT STATE in which those words are
in D's registers (none with W = 1), pushed into l0, the split gone on, and nothing else changed. -/
def GivesWords (mk : Enc → Instr) (f : Form) (val : Issue → Nat → List Word) : Prop :=
  ∀ s e c, s.ready? f e = some c →
    ∃ t y, exec (mk e) s = .next t ∧ OnlyWarp s t c.w ∧
      Goes c t y { c.after s with latches := c.pushed (c.lanes.map fun i => (i, val c i)) } ∧
      Orders c c.warp y ∧ Wrote c s y (c.kept (c.lanes.map fun i => (i, val c i))) ∧ y.fpstat = c.warp.fpstat ∧ y.bare = c.warp.bare

/-- A direct-class instruction with words and flags for each lane, where no flag raised has its exception trap enabled: as GivesWords,
and the flags of all lanes are ORed into FPSTAT. -/
def GivesFlagged (mk : Enc → Instr) (f : Form) (val : Issue → Nat → LaneOut) : Prop :=
  ∀ s e c, s.ready? f e = some c → c.untrapped (c.flags (val c)) →
    ∃ t y, exec (mk e) s = .next t ∧ OnlyWarp s t c.w ∧
      Goes c t y { c.after s with latches := c.pushed (c.outs (val c)) } ∧
      Orders c c.warp y ∧ Wrote c s y (c.kept (c.outs (val c))) ∧
      y.fpstat = c.warp.fpstat ||| (unionFlags (c.flags (val c))).setWidth 32 ∧ y.bare = c.warp.bare

/-- A lane instruction with one value for each executing lane and one for a uniform D. -/
def GivesLanes (mk : Enc → Instr) (f : Form) (val : Issue → Nat → List Word) (one : Issue → List Word) : Prop :=
  ∀ s e c, s.ready? f e = some c →
    ∃ t y, exec (mk e) s = .next t ∧ OnlyWarp s t c.w ∧
      Goes c t y { c.after s with latches := c.pushed ((lanesOf c.em).map fun i => (i, val c i)) } ∧
      Orders c c.warp y ∧ Wrote c s y (c.kept (c.laneDest (val c) (one c))) ∧ y.fpstat = c.warp.fpstat ∧ y.bare = c.warp.bare

/-- An exact integer in n bits: modulo 2^n, or with .sat held to the row's type's range (01 R24, 04 R100). -/
def fitted (c : Issue) (n : Nat) (x : Int) : BitVec n :=
  if c.e.fb 4 1 = 1 then
    (if signedType (c.e.fb 0 4) then BitVec.ofInt n (min (max x (-(2 ^ (n - 1) : Int))) (2 ^ (n - 1) - 1))
     else BitVec.ofInt n (min (max x 0) (2 ^ n - 1)))
  else BitVec.ofInt n x

/-- The integer arithmetic rows of 04 R99 and R100: the exact result over the sources read under the row's type, fitted to the result. -/
def Obligations.IntegerArithmeticResults : Prop :=
  GivesWords .iadd formIadd (fun c i => [fitted c 32 (c.int c.e.a i + c.int c.e.b i)]) ∧
  GivesWords .isub formIsub (fun c i => [fitted c 32 (c.int c.e.a i - c.int c.e.b i)]) ∧
  GivesWords .iadd3 formIadd3 (fun c i => [fitted c 32 (c.int c.e.a i + c.int c.e.b i + c.int c.e.c i)]) ∧
  GivesWords .imul formImul (fun c i => [fitted c 32 (c.int c.e.a i * c.int c.e.b i)]) ∧
  GivesWords .imulh formImulh (fun c i => [fitted c 32 ((c.int c.e.a i * c.int c.e.b i) / 2 ^ 32)]) ∧
  GivesWords .imad formImad (fun c i => [fitted c 32 (c.int c.e.a i * c.int c.e.b i + c.int c.e.c i)]) ∧
  GivesWords .imadw formImadw (fun c i => words2 (fitted c 64 (c.int c.e.a i * c.int c.e.b i + c.int64 c.e.c i))) ∧
  GivesWords .iadd64 formIadd64 (fun c i => words2 (fitted c 64 (c.int64 c.e.a i + c.int64 c.e.b i))) ∧
  GivesWords .imin formImin (fun c i => [fitted c 32 (min (c.int c.e.a i) (c.int c.e.b i))]) ∧
  GivesWords .imax formImax (fun c i => [fitted c 32 (max (c.int c.e.a i) (c.int c.e.b i))]) ∧
  GivesWords .iabs formIabs (fun c i => [fitted c 32 (c.int c.e.a i).natAbs]) ∧
  GivesWords .lea formLea (fun c i => words2 (c.rd64 c.e.a i + BitVec.ofInt 64 (c.int c.e.b i * 2 ^ c.e.fb 4 3)))

/-- BOOL3 by its truth table, bit by bit (04 R103). -/
def Bool3Bits (tab : Nat) (a b c x : Word) : Prop :=
  ∀ j, j < 32 → x.getLsbD j = tab.testBit (a.getLsbD j |>.toNat |> (· + 2 * (b.getLsbD j).toNat + 4 * (c.getLsbD j).toNat))

/-- The comparisons, moves, selections and logic rows of 04 R99 to R103, and the counts of bits. -/
def Obligations.MoveCompareLogicResults : Prop :=
  GivesWords .nop formNop (fun _ _ => []) ∧
  GivesWords .mov formMov (fun c i => c.rdWords c.e.a i (sizeNames (c.e.fb 0 2))) ∧
  GivesWords .movk formMovk (fun c i =>
    if c.e.fb 0 2 = 0 then [c.e.k] else if c.e.fb 0 2 = 1 then words2 (c.e.k.signExtend 64) else [c.rd c.e.a i, c.e.k]) ∧
  GivesWords .sel formSel (fun c i => c.rdWords (if (c.rd c.e.c i).getLsbD 0 then c.e.a else c.e.b) i (sizeNames (c.e.fb 0 2))) ∧
  GivesWords .icmp formIcmp (fun c i => [bit32 (icond (c.e.fb 5 3) (c.int c.e.a i) (c.int c.e.b i))]) ∧
  GivesWords .icmp64 formIcmp64 (fun c i => [bit32 (icond (c.e.fb 5 3) (c.int64 c.e.a i) (c.int64 c.e.b i))]) ∧
  GivesWords .and formAnd (fun c i => [c.rd c.e.a i &&& c.rd c.e.b i]) ∧
  GivesWords .or formOr (fun c i => [c.rd c.e.a i ||| c.rd c.e.b i]) ∧
  GivesWords .xor formXor (fun c i => [c.rd c.e.a i ^^^ c.rd c.e.b i]) ∧
  GivesWords .andn formAndn (fun c i => [c.rd c.e.a i &&& ~~~(c.rd c.e.b i)]) ∧
  (∃ x : Nat → Word → Word → Word → Word, (∀ tab a b d, Bool3Bits tab a b d (x tab a b d)) ∧
    GivesWords .bool3 formBool3 (fun c i => [x c.e.x.toNat (c.rd c.e.a i) (c.rd c.e.b i) (c.rd c.e.c i)])) ∧
  GivesWords .popc formPopc (fun c i => [BitVec.ofNat 32 ((List.range 32).countP fun j => (c.rd c.e.a i).getLsbD j)]) ∧
  (∃ x : Word → Word, x 0 = 32 ∧ (∀ a, a ≠ 0 → a.getLsbD (31 - (x a).toNat) = true ∧ ∀ j, 32 - (x a).toNat ≤ j → j < 32 → a.getLsbD j = false) ∧
    GivesWords .clz formClz (fun c i => [x (c.rd c.e.a i)])) ∧
  (∃ x : Word → Word, x 0 = 32 ∧ (∀ a, a ≠ 0 → a.getLsbD (x a).toNat = true ∧ ∀ j, j < (x a).toNat → a.getLsbD j = false) ∧
    GivesWords .ctz formCtz (fun c i => [x (c.rd c.e.a i)])) ∧
  (∃ x : Word → Word, (∀ a j, j < 32 → (x a).getLsbD j = a.getLsbD (31 - j)) ∧ GivesWords .brev formBrev (fun c i => [x (c.rd c.e.a i)]))

/-- A shift by the count in b modulo the width, 64 bits wide or 32 (04 R99, 01 R24). -/
def shifted (c : Issue) (i : Nat) (f : (w : Nat) → BitVec w → Nat → BitVec w) : List Word :=
  if c.e.fb 0 2 = 1 then words2 (f 64 (c.rd64 c.e.a i) ((c.rd c.e.b i).toNat % 64))
  else [f 32 (c.rd c.e.a i) ((c.rd c.e.b i).toNat % 32)]

/-- The shifts and bit fields of 04 R99, R103 to R105. -/
def Obligations.ShiftFieldResults : Prop :=
  GivesWords .shl formShl (fun c i => shifted c i fun _ x n => x <<< n) ∧
  GivesWords .shr formShr (fun c i => shifted c i fun _ x n => x >>> n) ∧
  GivesWords .sar formSar (fun c i => shifted c i fun _ x n => x.sshiftRight n) ∧
  GivesWords .shf formShf (fun c i =>
    [if c.e.fb 0 1 = 0 then ((c.rd c.e.b i ++ c.rd c.e.a i) >>> ((c.rd c.e.c i).toNat % 32)).extractLsb' 0 32
     else ((c.rd c.e.b i ++ c.rd c.e.a i) <<< ((c.rd c.e.c i).toNat % 32)).extractLsb' 32 32]) ∧
  GivesWords .bfe formBfe (fun c i => [bfe (signedType (c.e.fb 0 4)) (c.rd c.e.a i) (c.rd c.e.b i)]) ∧
  GivesWords .bfi formBfi (fun c i => [bfi (c.rd c.e.a i) (c.rd c.e.b i) (c.rd c.e.c i)]) ∧
  GivesWords .bytex formBytex (fun c i =>
    [bytex (c.rd c.e.a i) (c.rd c.e.b i) (if c.e.x.toNat < 2 ^ 16 then (c.rd c.e.c i).toNat % 2 ^ 16 else c.e.x.toNat % 2 ^ 16)])

/-- The lane-movement instructions (04 R107 to R114): each reads every source before any lane is written. -/
def Obligations.LaneMovementResults : Prop :=
  GivesWords .shfl formShfl (fun c i =>
    [match shflLane (c.e.fb 0 2) (32 >>> c.e.fb 2 3) i (c.rd c.e.b i).toNat with
      | some j => if c.em.getLsbD j then c.rd c.e.a j else c.rd c.e.a i
      | none => c.rd c.e.a i]) ∧
  (∃ v : Issue → Word, (∀ c, v c = voteValue (c.e.fb 0 2) (maskOf ((lanesOf c.em).filter fun i => (c.rd c.e.a i).getLsbD 0)) c.em) ∧
    GivesLanes .vote formVote (fun c _ => [v c]) (fun c => [v c])) ∧
  GivesLanes .matchLanes formMatch
    (fun c i => [maskOf ((lanesOf c.em).filter fun j => c.rdWords c.e.a j (1 + c.e.fb 0 1) = c.rdWords c.e.a i (1 + c.e.fb 0 1))])
    (fun c => [maskOf ((lanesOf c.em).filter fun j =>
      c.rdWords c.e.a j (1 + c.e.fb 0 1) = c.rdWords c.e.a c.first (1 + c.e.fb 0 1))]) ∧
  (∃ r : Issue → Word, (∀ c, r c = (lanesOf c.em).foldl (fun x i => redOp (c.e.fb 4 3) (signedType (c.e.fb 0 4)) x (c.rd c.e.a i))
      (redIdentity (c.e.fb 4 3) (signedType (c.e.fb 0 4)))) ∧
    GivesLanes .redw formRedw (fun c _ => [r c]) (fun c => [r c])) ∧
  (∃ v : Issue → Nat → Word,
    (∀ c i, i ∈ lanesOf c.em → v c i = ((lanesOf c.em).filter fun j => if c.e.fb 7 1 = 1 then j < i else j ≤ i).foldl
      (fun x j => redOp (c.e.fb 4 3) (signedType (c.e.fb 0 4)) x (c.rd c.e.a j)) (redIdentity (c.e.fb 4 3) (signedType (c.e.fb 0 4)))) ∧
    GivesLanes .scanw formScanw (fun c i => [v c i]) (fun c => [redTotal c c.e])) ∧
  GivesWords .ksort formKsort (fun c i =>
    let p := (ksortPairs c c.e).getD ((lanesOf c.em).findIdx (· = i)) (0, 0)
    [p.1, p.2]) ∧
  GivesLanes .vtog formVtog
    (fun c _ => let l := if c.e.fb 0 1 = 1 then (c.rd c.e.b c.first).toNat % 32 else c.first
      if c.em.getLsbD l then c.rdWords c.e.a l (1 + c.e.fb 1 1) else List.replicate (1 + c.e.fb 1 1) 0)
    (fun c => let l := if c.e.fb 0 1 = 1 then (c.rd c.e.b c.first).toNat % 32 else c.first
      if c.em.getLsbD l then c.rdWords c.e.a l (1 + c.e.fb 1 1) else List.replicate (1 + c.e.fb 1 1) 0)

/-- A row computed once per lane on whole registers of a format: the sources after their modifiers and FTZ, the row's exact result rounded
once, the invalid flag of a signalling NaN and the flags of the row and of the rounding (05 R117, R119, 01 R30, R33). -/
def rounded (t : Fmt) (mode : Issue → Nat) (srcs : List FpSrc) (row : Nat → List Sys2Proof.Machine.Num → Sys2Proof.Machine.Num × FpFlags) (c : Issue) (i : Nat) : LaneOut :=
  let xs := srcs.map fun x => t.value (c.fpElem x i 0 t false)
  let z := row (mode c) (xs.map fun x => x.flush t c.ftz)
  let y := roundTo t z.1 (mode c) c.ftz false
  { words := fpWords t y.1, flags := sigFlag xs ||| z.2 ||| y.2 }

/-- The same for element k of packed operands. -/
def roundedHalf (srcs : List FpSrc) (row : Nat → List Sys2Proof.Machine.Num → Sys2Proof.Machine.Num × FpFlags) (c : Issue) (i k : Nat) : Nat × FpFlags :=
  let t := fmtOf (c.e.fb 0 4)
  let xs := srcs.map fun x => t.value (c.fpElem x i k t true)
  let z := row c.rnd (xs.map fun x => x.flush t c.ftz)
  let y := roundTo t z.1 c.rnd c.ftz false
  (y.1, sigFlag xs ||| z.2 ||| y.2)

/-- A row that gives an encoding from the encodings of a and b. -/
def encoded (t u : Fmt) (g : Issue → Nat → Nat → Nat × FpFlags) (c : Issue) (i : Nat) : LaneOut :=
  let r := g c (c.fpElem .a i 0 t false) (c.fpElem .b i 0 t false)
  { words := fpWords u r.1, flags := r.2 }

/-- The same for both halves of packed operands. -/
def encodedHalves (g : Issue → Fmt → Nat → Nat → Nat × FpFlags) (c : Issue) (i : Nat) : LaneOut :=
  let t := fmtOf (c.e.fb 0 4)
  pack2 (g c t (c.fpElem .a i 0 t true) (c.fpElem .b i 0 t true)) (g c t (c.fpElem .a i 1 t true) (c.fpElem .b i 1 t true))

/-- The sums and products of 05 R119, single, double and packed, and FDOT2: the exact result, rounded once; the functions of 01 R39 and
R40, correctly rounded under rne, whatever RND holds; minimum, maximum, comparison, rounding to integral and class (01 R34, 05 R120 to
R122). -/
def Obligations.FloatResults : Prop :=
  GivesFlagged .fadd formFadd (rounded .f32 Issue.rnd [.a, .b] rowAdd) ∧
  GivesFlagged .fmul formFmul (rounded .f32 Issue.rnd [.a, .b] fun _ => rowMul) ∧
  GivesFlagged .ffma formFfma (rounded .f32 Issue.rnd [.a, .b, .c] rowFma) ∧
  GivesFlagged .dadd formDadd (rounded .f64 Issue.rnd [.a, .b] rowAdd) ∧
  GivesFlagged .dmul formDmul (rounded .f64 Issue.rnd [.a, .b] fun _ => rowMul) ∧
  GivesFlagged .dfma formDfma (rounded .f64 Issue.rnd [.a, .b, .c] rowFma) ∧
  GivesFlagged .hadd2 formHadd2 (fun c i => pack2 (roundedHalf [.a, .b] rowAdd c i 0) (roundedHalf [.a, .b] rowAdd c i 1)) ∧
  GivesFlagged .hmul2 formHmul2 (fun c i =>
    pack2 (roundedHalf [.a, .b] (fun _ => rowMul) c i 0) (roundedHalf [.a, .b] (fun _ => rowMul) c i 1)) ∧
  GivesFlagged .hfma2 formHfma2 (fun c i => pack2 (roundedHalf [.a, .b, .c] rowFma c i 0) (roundedHalf [.a, .b, .c] rowFma c i 1)) ∧
  GivesFlagged .fdot2 formFdot2 (fun c i =>
    let t := fmtOf (c.e.fb 0 4)
    let h (x : FpSrc) (k : Nat) := t.value (c.fpElem x i k t true)
    let z := Fmt.f32.value (c.fpElem .c i 0 .f32 false)
    let ab := [h .a 0, h .b 0, h .a 1, h .b 1]
    let r := rowDot c.rnd (ab.map (fun x => x.flush t c.ftz) ++ [z.flush .f32 c.ftz])
    let y := roundTo .f32 r.1 c.rnd c.ftz false
    { words := [BitVec.ofNat 32 y.1], flags := sigFlag (ab ++ [z]) ||| r.2 ||| y.2 }) ∧
  GivesFlagged .frcp formFrcp (rounded .f32 (fun _ => 0) [.a] fun _ => rowFn fnRcp) ∧
  GivesFlagged .frsq formFrsq (rounded .f32 (fun _ => 0) [.a] fun _ => rowFn fnRsq) ∧
  GivesFlagged .fsqrt formFsqrt (rounded .f32 (fun _ => 0) [.a] fun _ => rowFn fnSqrt) ∧
  GivesFlagged .fexp2 formFexp2 (rounded .f32 (fun _ => 0) [.a] fun _ => rowFn fnExp2) ∧
  GivesFlagged .flog2 formFlog2 (rounded .f32 (fun _ => 0) [.a] fun _ => rowFn fnLog2) ∧
  GivesFlagged .fsin formFsin (rounded .f32 (fun _ => 0) [.a] fun _ => rowFn fnSin) ∧
  GivesFlagged .fcos formFcos (rounded .f32 (fun _ => 0) [.a] fun _ => rowFn fnCos) ∧
  GivesFlagged .ftanh formFtanh (rounded .f32 (fun _ => 0) [.a] fun _ => rowFn fnTanh) ∧
  GivesFlagged .drcp formDrcp (rounded .f64 (fun _ => 0) [.a] fun _ => rowFn fnRcp) ∧
  GivesFlagged .drsq formDrsq (rounded .f64 (fun _ => 0) [.a] fun _ => rowFn fnRsq) ∧
  GivesFlagged .fmin formFmin (encoded .f32 .f32 fun c => minMax .f32 c.ftz false) ∧
  GivesFlagged .fmax formFmax (encoded .f32 .f32 fun c => minMax .f32 c.ftz true) ∧
  GivesFlagged .dmin formDmin (encoded .f64 .f64 fun c => minMax .f64 c.ftz false) ∧
  GivesFlagged .dmax formDmax (encoded .f64 .f64 fun c => minMax .f64 c.ftz true) ∧
  GivesFlagged .hmin2 formHmin2 (encodedHalves fun c t => minMax t c.ftz false) ∧
  GivesFlagged .hmax2 formHmax2 (encodedHalves fun c t => minMax t c.ftz true) ∧
  GivesFlagged .fcmp formFcmp (encoded .f32 .f32 fun c => fcompare .f32 c.ftz (c.e.fb 12 3)) ∧
  GivesFlagged .dcmp formDcmp (encoded .f64 .f32 fun c => fcompare .f64 c.ftz (c.e.fb 12 3)) ∧
  GivesFlagged .hcmp2 formHcmp2 (encodedHalves fun c t => fcompare t c.ftz (c.e.fb 12 3)) ∧
  GivesFlagged .frnd formFrnd (encoded .f32 .f32 fun c a _ => frnd .f32 c.rnd c.ftz a) ∧
  GivesFlagged .drnd formDrnd (encoded .f64 .f64 fun c a _ => frnd .f64 c.rnd c.ftz a) ∧
  GivesWords .fclass formFclass (fun c i => [fclass .f32 (c.rdFp c.e.a i .f32 false)]) ∧
  GivesWords .dclass formDclass (fun c i => [fclass .f64 (c.rdFp c.e.a i .f64 false)])

/-- The conversions (05 R125 to R127) and the block-scaled formats (05 R128 to R130, 01 R36 to R38). I2F of zero is +0 and, as R127's own
example, of the n32 number 70,000 to f16: 65,504 with .sat, +infinity under rne without. -/
def Obligations.ConversionResults : Prop :=
  GivesFlagged .cvt formCvt (fun c i =>
    let t := fmtOf (c.e.fb 8 4)
    let x := t.value (c.rdFp c.e.a i t false)
    let y := roundTo (fmtOf (c.e.fb 0 4)) (x.flush t c.ftz) c.rnd c.ftz (c.e.fb 12 1 = 1)
    { words := typeWords (c.e.fb 0 4) y.1, flags := sigFlag [x] ||| y.2 }) ∧
  GivesFlagged .f2i formF2i (fun c i =>
    let t := fmtOf (c.e.fb 8 4)
    let y := toIntType ((t.value (c.rdFp c.e.a i t false)).flush t c.ftz) (signedType (c.e.fb 0 4)) (intBits (c.e.fb 0 4)) c.rnd
    { words := intWords (c.e.fb 0 4) y.1, flags := y.2 }) ∧
  GivesFlagged .i2f formI2f (fun c i =>
    let y := roundTo (fmtOf (c.e.fb 0 4)) (Sys2Proof.Machine.Num.ofInt (c.intSrc c.e.a i (c.e.fb 8 4)) 0 false) c.rnd false (c.e.fb 12 1 = 1)
    { words := typeWords (c.e.fb 0 4) y.1, flags := y.2 }) ∧
  GivesFlagged .packq formPackq (fun c i =>
    let g := groupSize (c.e.fb 0 4)
    { words := [BitVec.ofNat 32 ((List.range g).foldl (fun x k =>
        if c.em.getLsbD (i - i % g + k) then x + (c.packElem (i - i % g + k)).1 * 2 ^ (32 / g * k) else x) 0)],
      flags := (c.packElem i).2 }) ∧
  GivesFlagged .unpackq formUnpackq (fun c i =>
    let t := fmtOf (c.e.fb 0 4)
    let g := groupSize (c.e.fb 0 4)
    match c.blockScale i, t.value (((c.rd c.e.a i).toNat >>> (32 / g * (i % g))) % 2 ^ (32 / g)) with
    | none, _ => { words := [0x7FC00000] }
    | some _, .nan _ => { words := [0x7FC00000] }
    | some _, .inf n => { words := [if n then 0xFF800000 else 0x7F800000] }
    | some k, .fin n m x =>
      let y := roundTo .f32 (.fin n m (x + k)) c.rnd c.ftz (c.e.fb 12 1 = 1)
      { words := [BitVec.ofNat 32 y.1], flags := y.2 }) ∧
  (∀ s e c, s.ready? formScalex e = some c →
    c.untrapped ((lanesOf c.em).map fun i => (i, sigFlag [Fmt.f32.value (c.rdFp e.a i .f32 false)])) →
    ∃ t y, exec (.scalex e) s = .next t ∧ OnlyWarp s t c.w ∧ Orders c c.warp y ∧
      Wrote c s y (c.kept (c.laneDest
        (fun _ => [BitVec.ofNat 32 (scaleCode ((lanesOf c.em).map c.blockSrc) (emaxElem (e.fb 0 4)))])
        [BitVec.ofNat 32 (scaleCode ((lanesOf c.em).map c.blockSrc) (emaxElem (e.fb 0 4)))])) ∧
      Goes c t y { c.after s with latches := c.pushed ((lanesOf c.em).map fun i =>
        (i, [BitVec.ofNat 32 (scaleCode ((lanesOf c.em).map c.blockSrc) (emaxElem (e.fb 0 4)))])) } ∧
      y.fpstat = c.warp.fpstat |||
        (unionFlags ((lanesOf c.em).map fun i => (i, sigFlag [Fmt.f32.value (c.rdFp e.a i .f32 false)]))).setWidth 32 ∧
      y.bare = c.warp.bare) ∧
  (∀ t mode sat, t ∈ [Fmt.f16, .bf16, .f32, .f64] → roundTo t (Sys2Proof.Machine.Num.ofInt 0 0 false) mode false sat = (0, 0)) ∧
  roundTo .f16 (Sys2Proof.Machine.Num.ofInt 70000 0 false) 0 false true = (0x7BFF, flagOF ||| flagNX) ∧
  roundTo .f16 (Sys2Proof.Machine.Num.ofInt 70000 0 false) 0 false false = (0x7C00, flagOF ||| flagNX) ∧
  Fmt.f16.value 0x7BFF = Sys2Proof.Machine.Num.fin false 2047 5 ∧ 2047 * 2 ^ 5 = 65504

/-- The signs of 01 R31: a sum or difference of non-zero operands that is zero is +0, and -0 under rdn (mode 3); two zeros of like sign keep
it; the sign of a product, and of the instruction set's one quotient, 1 / x, is the exclusive-or of the operands'; rounding keeps a zero's sign. -/
def Obligations.ZeroSigns : Prop :=
  (∀ mode n m x k p y, m ≠ 0 → p ≠ 0 → (sumAll mode [.fin n m x, .fin k p y]).isZero = true →
    (sumAll mode [.fin n m x, .fin k p y]).neg = decide (mode = 3)) ∧
  (∀ mode n x y, sumAll mode [.fin n 0 x, .fin n 0 y] = .fin n 0 0 ∨ ∃ q, sumAll mode [.fin n 0 x, .fin n 0 y] = .fin n 0 q) ∧
  (∀ x y : Sys2Proof.Machine.Num, (x.mul y).isNan = false → (x.mul y).neg = (x.neg != y.neg)) ∧
  (∀ x : Sys2Proof.Machine.Num, x.isNan = false → (fnRcp x).1.neg = x.neg) ∧
  (∀ f n x mode ftz sat, roundTo f (.fin n 0 x) mode ftz sat = (f.signed n 0, 0))

/-! ### The checks of every instruction -/

/-- An instruction that executes: what exec answers where it passes its checks and a condition on the state and its operands holds. -/
def Completes (mk : Enc → Instr) (f : Form) (pre : State → Issue → Prop) (post : State → Issue → State → Prop) : Prop :=
  ∀ s e c, s.ready? f e = some c → pre s c → ∃ t, exec (mk e) s = .next t ∧ post s c t

/-- 02 R66: an opcode of a reserved row, whatever LEN, U and the fields hold, takes the trap of cause 0x01, sub-cause reserved opcode
(0x01). -/
def Obligations.ReservedOpcodesTrap : Prop :=
  ∀ (op : BitVec 9) (v : Bits128),
    (v.extractLsb' 3 9 = op → v.extractLsb' 0 2 ≠ 3 →
      (op ∈ ([(0x022, 0x03F), (0x047, 0x05F), (0x070, 0x077), (0x07F, 0x08F), (0x09A, 0x0BF), (0x0C6, 0x0DF), (0x0F1, 0x10F),
          (0x11C, 0x13F), (0x147, 0x15F), (0x16A, 0x17F), (0x189, 0x19F), (0x1AC, 0x1BF), (0x1D2, 0x1FF)] : List (Nat × Nat)).flatMap
          (fun r => (List.range (r.2 - r.1 + 1)).map fun n => BitVec.ofNat 9 (r.1 + n)) ↔ ∃ e, decodeRaw v = .reservedOpcode op e)) ∧
    (∀ e s, s.cur.isSome = true → (∀ u, s.cur = some u → ((s.warp? u.warp).bind fun w => w.split? u.entry).isSome = true) →
      ∃ c : Issue, c.e = e ∧ s.warp? c.w = some c.warp ∧ c.warp.split? c.k = some c.sp ∧ s.cur = some { warp := c.w, entry := c.k } ∧
        exec (.reservedOpcode op e) s = .next (c.trap (c.begin s) { cause := 0x01, sub := 0x01 }))

/-- An instruction of the opcode map that fails a check of 02 R69 takes the trap of that check, before any change of its own. -/
def Obligations.FailedChecksTrap : Prop :=
  ∀ (i : Instr) (s : State) (f : Form) (e : Enc) (c : Issue) (x : Trap), s.formNow i = some (f, e) → s.issue? f e = some c →
    c.precheck = some x → exec i s = .next (c.trap (c.begin s) x)

/-- 02 R67, 14 R322: below LEVEL 2 a system opcode other than TIME, BBMARK, LAUNCH, URET in a user handler, and RDSYS and WRSYS of a listed
user register takes cause 0x15, when LEN and U are legal. -/
def Obligations.PrivilegedOpcodesTrap : Prop :=
  ∀ (i : Instr) (f : Form) (e : Enc), i.form? = some (f, e) → ∀ s c, s.issue? f e = some c → f.lenU e = true → c.sp.level < 2 →
    0x1C0 ≤ f.op → f.op ∉ [0x1CF, 0x1D0, 0x1D1] → ¬ (f.op = 0x1C3 ∧ c.sp.level = 1) →
    ¬ ((f.op = 0x1C0 ∨ f.op = 0x1C1) ∧ (e.fb 12 1 = 1 ∨ e.fb 0 12 < 0x100)) →
    exec i s = .next (c.trap (c.begin s) { cause := 0x15 })

/-- 07 R163: a control-flow instruction of the list at the END of an active level of the split's depth takes loop fault, sub-cause bad end,
after step 9 of 02 R69. -/
def Obligations.BadEndTraps : Prop :=
  (∀ (i : Instr) (f : Form) (e : Enc), i.form? = some (f, e) →
    (f.badEnd = true ↔ i ∈ ([.bra e, .brx e, .switch e, .call e, .callx e, .ret e, .yields e, .loop e, .loopp e] : List Instr))) ∧
  (∀ (i : Instr) (f : Form) (e : Enc), i.form? = some (f, e) → ∀ s c, s.issue? f e = some c → f.badEnd = true →
    (∃ l ∈ c.sp.frame.loops, l.depth = c.sp.frame.depth ∧ l.stop = c.sp.pc) → f.lenU e = true → c.privileged = false →
    f.fieldsOk e = true → c.wordBeyond = false → f.operands e c.warp.vregs = none →
    ¬ (8 ≤ e.pred.toNat ∧ e.pred.toNat < 16 ∧ c.sp.frame.pipe.isNone) → c.staleLatch = none → c.poisoned = none →
    exec i s = .next (c.trap (c.begin s) { cause := 0x0B, sub := 0x08 }))

/-- 02 R55: W = 1 is legal only on direct-class instructions (opcodes 0x000 to 0x0DF) with U = 0; otherwise cause 0x01, sub-cause reserved
field. -/
def Obligations.LatchOnlyLegality : Prop :=
  (∀ (i : Instr) (f : Form) (e : Enc), i.form? = some (f, e) → f.direct = decide (f.op ≤ 0x0DF)) ∧
  (∀ (i : Instr) (s : State) (f : Form) (e : Enc) (c : Issue), s.formNow i = some (f, e) → s.issue? f e = some c → e.w = 1 →
    ¬ (f.op ≤ 0x0DF ∧ e.u = 0) → f.lenU e = true → c.privileged = false →
      exec i s = .next (c.trap (c.begin s) { cause := 0x01, sub := 0x05 }))

/-! ### Traps and returns -/

/-- The lanes that SMASK holds (19 R423): those the cause names, else the execution mask; the split's for U = 1, but for
causes that name the lanes that execute (01 R47, 06 R156, 08 R193), or where that is empty. -/
def trapMask (c : Issue) (t : Trap) : Word :=
  let m := t.lanes.getD c.em &&& c.sp.mask
  if (c.e.u = 1 ∧ t.exact = false) ∨ m = 0 then c.sp.mask else m

/-- 19 R423: entry to the supervisor handler. For cause 0x11 the die's log has one record more, of code 0x101, with the first address and
the sub-cause, and vector 32 is raised (26 R502, R508). -/
def Obligations.SupervisorTrapEntry : Prop :=
  ∀ (s : State) (f : Form) (e : Enc) (c : Issue) (t : Trap), s.issue? f e = some c → c.sp.level < 2 →
    ¬ (t.cause ∈ [0x0D, 0x0E, 0x13] ∧ c.warp.utvec ≠ 0 ∧ c.sp.level = 0) →
    let logged : State := s.log (dieOf c.warp.core) 0x101 c.warp.core c.warp.ctx (((t.va.map (·.2.toNat)).headD 0) + t.sub * 2 ^ 64)
    ∃ y sp, OnlyWarp (if t.cause = 0x11 then logged else s) (c.trap s t) c.w ∧
      (t.cause = 0x11 → (c.trap s t).msix = s.msix ++ [32]) ∧ (c.trap s t).warp? c.w = some y ∧ y.split? c.k = some sp ∧
      y = { c.now s with splits := y.splits } ∧ (∀ q, q ≠ c.k → y.split? q = c.warp.split? q) ∧
      sp.level = 2 ∧ sp.pc = (s.ctx c.warp.ctx).stvec ∧ sp.mask = trapMask c t ∧ sp.latches.valid = 0 ∧
      sp.frame = { c.sp.frame with loops := [] } ∧ sp.user = c.sp.user ∧ sp.wait = .ready ∧
      sp.sup.scause = BitVec.ofNat 32 (t.cause + 256 * t.sub + (if t.cause = 2 then 65536 * t.pos else 0)) ∧
      sp.sup.cause = t.cause ∧ sp.sup.spc = c.sp.pc ∧ sp.sup.snpc = c.next s ∧ sp.sup.smask = trapMask c t ∧ sp.sup.sact = c.sp.mask ∧
      sp.sup.held = c.sp.mask &&& ~~~ trapMask c t ∧
      sp.sup.sinfo.getLsbD 31 = decide (c.sp.level = 1) ∧ sp.sup.sinfo.getLsbD 30 = decide (t.cause ∉ [0x0D, 0x0E, 0x13]) ∧
      sp.sup.sinfo.getLsbD 17 = t.fetch ∧ sp.sup.sinfo.getLsbD 16 = t.write ∧
      sp.sup.sinfo.extractLsb' 0 16 = (if t.cause ∈ [0x0D, 0x0E, 0x13] then BitVec.ofNat 16 t.info else 0) ∧
      ∃ x, sp.sup.saved = some x ∧ x.latches = c.sp.latches ∧ x.loops = c.sp.frame.loops ∧ x.level = c.sp.level ∧
        ∀ q i, i < 32 → c.sp.mask.getLsbD i = true → Store.get x.ofile (laneKey q i) = Store.get c.warp.o (laneKey q i)

/-- 14 R321, R328: entry to the user handler, for FP exceptions, TRAP and BKPT at LEVEL 0 with a handler installed. -/
def Obligations.UserTrapEntry : Prop :=
  ∀ (s : State) (f : Form) (e : Enc) (c : Issue) (t : Trap), s.issue? f e = some c → c.sp.level = 0 → t.cause ∈ [0x0D, 0x0E, 0x13] → c.warp.utvec ≠ 0 →
    ∃ y sp, OnlyWarp s (c.trap s t) c.w ∧ (c.trap s t).warp? c.w = some y ∧ y.split? c.k = some sp ∧
      y = { c.now s with splits := y.splits } ∧ (∀ q, q ≠ c.k → y.split? q = c.warp.split? q) ∧
      sp.level = 1 ∧ sp.pc = c.warp.utvec ∧ sp.mask = c.sp.mask ∧ sp.latches.valid = 0 ∧ sp.frame = { c.sp.frame with loops := [] } ∧
      sp.sup = c.sp.sup ∧ sp.wait = .ready ∧
      sp.user.tcause = BitVec.ofNat 32 (t.cause + 256 * t.sub) ∧ sp.user.tpc = c.sp.pc ∧ sp.user.tnpc = c.next s ∧
      sp.user.tmask = t.lanes.getD c.em ∧ sp.user.tact = c.sp.mask ∧ sp.user.tinfo = BitVec.ofNat 32 t.info ∧
      ∃ x, sp.user.saved = some x ∧ x.latches = c.sp.latches ∧ x.loops = c.sp.frame.loops ∧ x.level = 0 ∧
        ∀ q i, i < 32 → c.sp.mask.getLsbD i = true → Store.get x.ofile (laneKey q i) = Store.get c.warp.o (laneKey q i)

/-- 19 R421: a trap at LEVEL 2 kills the context: it is marked killed and none of its warps is left. -/
def Obligations.LevelTwoTrapKills : Prop :=
  ∀ (s : State) (f : Form) (e : Enc) (c : Issue) (t : Trap), s.issue? f e = some c → c.sp.level = 2 →
    ((c.trap s t).ctx c.warp.ctx).killed = true ∧ ∀ w x, (c.trap s t).warp? w = some x → x.ctx ≠ c.warp.ctx

/-- 01 R47: an FP exception whose trap is enabled is taken after the instruction has completed: D is written and the flags are in FPSTAT,
and then the split enters its handler at cause 0x0D; stated of FADD without a user handler. -/
def Obligations.FpExceptionTrap : Prop :=
  ∀ s e c, s.ready? formFadd e = some c → ¬ c.untrapped (c.flags (rounded .f32 Issue.rnd [.a, .b] rowAdd c)) → c.sp.level = 0 →
    c.warp.utvec = 0 →
    ∃ t y sp, exec (.fadd e) s = .next t ∧ OnlyWarp s t c.w ∧ t.warp? c.w = some y ∧ y.split? c.k = some sp ∧
      Wrote c s y (c.kept (c.outs (rounded .f32 Issue.rnd [.a, .b] rowAdd c))) ∧
      y.fpstat = c.warp.fpstat ||| (unionFlags (c.flags (rounded .f32 Issue.rnd [.a, .b] rowAdd c))).setWidth 32 ∧ y.bare = c.warp.bare ∧
      sp.level = 2 ∧ sp.pc = (s.ctx c.warp.ctx).stvec ∧ sp.sup.scause = 0x0D ∧ sp.sup.spc = c.sp.pc ∧ sp.sup.snpc = c.next s

/-- TRAP and BKPT (06 R156): with lanes that execute, the trap of cause 0x0E or 0x13 with the code in INFO, by way of the user handler
where one is installed. -/
def Obligations.TrapAndBreakpointTake : Prop :=
  let taken (cause : Nat) (s : State) (c : Issue) (t : State) : Prop :=
    ∃ y sp, OnlyWarp s t c.w ∧ t.warp? c.w = some y ∧ y.split? c.k = some sp ∧ y.rest = (c.now s).rest ∧
      (if c.warp.utvec ≠ 0 ∧ c.sp.level = 0 then
        sp.level = 1 ∧ sp.pc = c.warp.utvec ∧ sp.user.tcause = BitVec.ofNat 32 cause ∧ sp.user.tinfo = BitVec.ofNat 32 (c.e.fb 0 16) ∧
          sp.user.tmask = c.em ∧ sp.user.tnpc = c.next s ∧ sp.user.tdest = 0x1FF
       else
        sp.level = 2 ∧ sp.pc = (s.ctx c.warp.ctx).stvec ∧ sp.sup.scause = BitVec.ofNat 32 cause ∧
          sp.sup.sinfo.extractLsb' 0 16 = BitVec.ofNat 16 (c.e.fb 0 16) ∧ sp.sup.snpc = c.next s ∧ sp.sup.sdest = 0x1FF)
  Completes .trap formTrap (fun _ c => c.em ≠ 0 ∧ c.sp.level < 2) (taken 0x0E) ∧
  Completes .bkpt formBkpt (fun _ c => c.em ≠ 0 ∧ c.sp.level < 2) (taken 0x13)

/-- 14 R330: URET restores latches, loop levels, operand file and LEVEL 0 and goes to TNPC. 19 R430: SRET restores the frame and the held
lanes and goes to SPC where REEXEC is set, else to SNPC. -/
def Obligations.HandlerReturns : Prop :=
  Completes .uret formUret
    (fun _ c => c.em ≠ 0 ∧ c.sp.level = 1 ∧ c.sp.user.tact &&& c.warp.lanes &&& ~~~ c.sp.mask = 0 ∧ c.warp.stack = [] ∧
      c.sp.mask ≠ 0 ∧ c.warp.settled = true ∧ ∃ x, c.sp.user.saved = some x ∧ x.pend = false ∧ x.loops = [] ∧ x.level = 0)
    (fun s c t => ∃ y sp x, OnlyWarp s t c.w ∧ t.warp? c.w = some y ∧ y.split? c.k = some sp ∧ c.sp.user.saved = some x ∧
      sp.pc = c.sp.user.tnpc ∧ sp.seq = c.sp.user.tnpcSeq ∧ sp.level = 0 ∧ sp.mask = c.sp.mask ∧ sp.latches = x.latches ∧ sp.frame.loops = [] ∧
      sp.user = { c.sp.user with saved := none } ∧ sp.sup = c.sp.sup ∧ y.v = c.warp.v ∧ y.g = (c.now s).g ∧
      (∀ q i, q < 8 → i < 32 → Store.get y.o (laneKey q i) =
        if c.sp.mask.getLsbD i then Store.get x.ofile (laneKey q i) else Store.get c.warp.o (laneKey q i))) ∧
  Completes .sret formSret
    (fun _ c => c.em ≠ 0 ∧ c.sp.sup.smask &&& c.warp.lanes &&& ~~~ c.sp.mask = 0 ∧ c.warp.stack = [] ∧ c.sp.mask ≠ 0 ∧
      c.warp.settled = true ∧ (∀ p ∈ c.warp.pend, p.held = none) ∧
      ∃ x, c.sp.sup.saved = some x ∧ x.pend = false ∧ x.loops = [])
    (fun s c t => ∃ y sp x, OnlyWarp s t c.w ∧ t.warp? c.w = some y ∧ y.split? c.k = some sp ∧ c.sp.sup.saved = some x ∧
      sp.pc = (if c.sp.sup.sinfo.getLsbD 30 then c.sp.sup.spc else c.sp.sup.snpc) ∧ sp.level = x.level ∧
      sp.mask = c.sp.mask ||| c.sp.sup.held ∧ sp.latches = x.latches ∧ sp.frame.loops = [] ∧
      sp.user = c.sp.user ∧ sp.sup = { c.sp.sup with saved := none, held := 0 } ∧ y.v = c.warp.v ∧ y.g = (c.now s).g ∧
      (∀ q i, q < 8 → i < 32 → Store.get y.o (laneKey q i) =
        if (c.sp.mask ||| c.sp.sup.held).getLsbD i then Store.get x.ofile (laneKey q i) else Store.get c.warp.o (laneKey q i)))

/-! ### Control flow -/

/-- The split has moved, with no other change: y is the warp afterwards. -/
def Moved (s : State) (c : Issue) (t : State) (sp : Split) : Prop :=
  ∃ y, OnlyWarp s t c.w ∧ y.rest = (c.now s).rest ∧ Orders c c.warp y ∧ Goes c t y sp

/-- BRA, BRX, CALL, CALLX and RET where no lanes part (06 R151, R152, R155): all of a split's lanes go to the one target, or none does and
the split goes on. A call pushes its successor and deepens the frame; RET pops it. -/
def Obligations.BranchesAndCalls : Prop :=
  let whole (c : Issue) : Prop := c.sp.mask ≠ 0 ∧ (c.taken = 0 ∨ c.taken = c.sp.mask)
  let oneTarget (c : Issue) : Prop := c.e.uni = true ∨ ∀ i ∈ lanesOf c.em, c.rd64 c.e.a i = c.rd64 c.e.a c.first
  let target (c : Issue) : DWord := c.rd64 c.e.a (if c.e.uni then 0 else c.first)
  let jump (s : State) (c : Issue) (a : DWord) : Split := if c.taken = 0 then c.after s else { c.issued s with pc := a, seq := false }
  let call (s : State) (c : Issue) (a : DWord) : Split :=
    if c.taken = 0 then c.after s
    else { c.issued s with
      pc := a, seq := false,
      frame := { c.sp.frame with
        depth := c.sp.frame.depth + 1, rstack := (c.next s :: c.sp.frame.rstack).take 8,
        soft := if c.sp.frame.rstack.length = 8 then c.sp.frame.soft - 1 else c.sp.frame.soft } }
  Completes .bra formBra (fun _ c => whole c) (fun s c t => Moved s c t (jump s c (c.sp.pc + 4 * c.e.x.signExtend 64))) ∧
  Completes .brx formBrx (fun _ c => whole c ∧ oneTarget c) (fun s c t => Moved s c t (jump s c (target c))) ∧
  Completes .call formCall (fun _ c => whole c ∧ c.sp.frame.depth < 8)
    (fun s c t => Moved s c t (call s c (c.sp.pc + 4 * c.e.x.signExtend 64))) ∧
  Completes .callx formCallx (fun _ c => whole c ∧ oneTarget c ∧ c.sp.frame.depth < 8) (fun s c t => Moved s c t (call s c (target c))) ∧
  Completes .ret formRet
    (fun _ c => c.em ≠ 0 ∧ c.em = c.sp.mask ∧ 1 ≤ c.sp.frame.depth ∧ c.sp.frame.depth ≤ 8 ∧ c.sp.frame.inner = none ∧ c.openJoin = false)
    (fun s c t => Moved s c t { c.issued s with
      pc := c.sp.frame.rstack.headD 0, seq := decide (c.sp.frame.soft < c.sp.frame.rstack.length),
      frame := { c.sp.frame with
        depth := c.sp.frame.depth - 1, rstack := c.sp.frame.rstack.drop 1,
        soft := min c.sp.frame.soft (c.sp.frame.rstack.length - 1) } })

/-- A divergence to two paths or more (06 R137): without a join address it traps, cause 0x0A sub-cause 0x02, with too full a stack cause
0x0C; otherwise a join record expecting all the split's lanes is pushed, the first path stays in the issuing entry, the next take the free
entries in their order, and the rest wait above the record, the earliest topmost. In an active loop each path keeps a live lane; one that
does not arrives at the loop's record (07 R162). -/
def Diverges (s s1 : State) (c : Issue) (r : Host.Outcome State Fault Refusal) (ps : List PathTo) (j : DWord) : Prop :=
  let free := (List.range 4).filter fun q => (c.warp.split? q).isNone
  let full : Prop := 32 < c.warp.stack.length + 1 + (ps.length - 1 - min (ps.length - 1) free.length)
  let of (p : PathTo) : Split := { c.issued s with pc := p.pc, seq := p.seq, mask := p.mask, frame := p.frame }
  2 ≤ ps.length →
    (j = 0 → r = .next (c.trap s1 { cause := 0x0A, sub := 0x02 })) ∧
    (j ≠ 0 → full → r = .next (c.trap s1 { cause := 0x0C, sub := 0x01 })) ∧
    (j ≠ 0 → ¬ full → c.warp.settled = true → (∀ p ∈ ps, c.sp.frame.loops = [] ∨ c.sp.live &&& p.mask ≠ 0) →
      ∃ t y, r = .next t ∧ OnlyWarp s1 t c.w ∧ t.warp? c.w = some y ∧ y.rest = (c.now s).rest ∧ y.pend = c.warp.pend ∧
        (∀ p, ps[0]? = some p → y.split? c.k = some (of p)) ∧
        (∀ n q p, free[n]? = some q → ps[n + 1]? = some p → y.split? q = some (of p)) ∧
        (∀ q, q ≠ c.k → (∀ n, free[n]? = some q → ps.length ≤ n + 1) → y.split? q = c.warp.split? q) ∧
        y.stack = (ps.drop (free.length + 1)).map (fun p => .path p.pc p.seq p.mask j p.frame c.sp.handler) ++
          .join j c.sp.mask 0 c.sp.frame c.sp.handler none :: c.warp.stack)

/-- The groups of taken lanes by target, ordered by their lowest lanes: each lane of the instruction is in the group of its own target,
and no two groups have one target (06 R152). -/
def ByTarget (c : Issue) (gs : List (DWord × Word)) : Prop :=
  (∀ i, i < 32 → ((∃ g ∈ gs, g.2.getLsbD i = true) ↔ i ∈ lanesOf c.em)) ∧
  (∀ g ∈ gs, g.2 ≠ 0 ∧ ∀ i, i < 32 → g.2.getLsbD i = true → c.rd64 c.e.a i = g.1) ∧
  gs.Pairwise fun a b => a.1 ≠ b.1 ∧ (lanesOf a.2).headD 32 < (lanesOf b.2).headD 32

/-- BRA, BRX, CALL, CALLX and SWITCH with lanes on several paths (06 R137, R138, R151 to R154): BRA and CALL part into the lanes that go and
those that stay, BRX and CALLX into the groups by target and those that stay, SWITCH into its cases in order, the default and those that
stay, the last two as one where the default target is the next instruction. A call's paths have the callee's frame. -/
def Obligations.BranchDiverges : Prop :=
  let stay (s : State) (c : Issue) : List PathTo :=
    if c.sp.mask &&& ~~~ c.taken = 0 then [] else [{ pc := c.next s, seq := true, mask := c.sp.mask &&& ~~~ c.taken, frame := c.sp.frame }]
  let join (c : Issue) : DWord := if c.e.f = 0 then 0 else c.sp.pc + 4 * c.e.f.signExtend 64
  let callee (s : State) (c : Issue) : Frame :=
    { c.sp.frame with
      depth := c.sp.frame.depth + 1, rstack := (c.next s :: c.sp.frame.rstack).take 8,
      soft := if c.sp.frame.rstack.length = 8 then c.sp.frame.soft - 1 else c.sp.frame.soft }
  let rel (c : Issue) : DWord := c.sp.pc + 4 * c.e.x.signExtend 64
  (∀ (s : State) (e : Enc) (c : Issue), s.ready? formBra e = some c → c.taken ≠ 0 →
    Diverges s (c.begin s) c (exec (.bra e) s) ({ pc := rel c, seq := false, mask := c.taken, frame := c.sp.frame } :: stay s c) (join c)) ∧
  (∀ (s : State) (e : Enc) (c : Issue), s.ready? formCall e = some c → c.taken ≠ 0 → c.sp.frame.depth < 8 →
    Diverges s (c.begin s) c (exec (.call e) s) ({ pc := rel c, seq := false, mask := c.taken, frame := callee s c } :: stay s c) (join c)) ∧
  (∀ (s : State) (e : Enc) (c : Issue) (gs : List (DWord × Word)), s.ready? formBrx e = some c → e.uni = false → ByTarget c gs →
    Diverges s (c.begin s) c (exec (.brx e) s)
      (gs.map (fun g => { pc := g.1, seq := false, mask := g.2, frame := c.sp.frame }) ++ stay s c) (join c)) ∧
  (∀ (s : State) (e : Enc) (c : Issue) (gs : List (DWord × Word)), s.ready? formCallx e = some c → e.uni = false → ByTarget c gs →
    c.em ≠ 0 → c.sp.frame.depth < 8 →
    Diverges s (c.begin s) c (exec (.callx e) s)
      (gs.map (fun g => { pc := g.1, seq := false, mask := g.2, frame := callee s c }) ++ stay s c) (join c)) ∧
  (∀ (s : State) (e : Enc) (c : Issue) (s1 : State) (tab : List Word), s.ready? formSwitch e = some c →
    (c.begin s).codeWords (fetcherOf c.w c.k c.warp c.sp) ((c.sp.pc &&& ~~~(31 : DWord)) + 32 * e.x.signExtend 64) 10 = (s1, none, tab) →
    let at_ (k : Nat) : DWord := (c.sp.pc &&& ~~~(31 : DWord)) + 32 * e.x.signExtend 64 + 4 * (tab.getD k 0).signExtend 64
    let chose (k : Nat) : Word := maskOf ((lanesOf c.em).filter fun i => c.switchCase tab i = k)
    let on : Prop := tab.getD 8 0 = 0 ∨ at_ 8 = c.next s1
    let cases : List PathTo := (List.range 8).map fun k => { pc := at_ k, seq := false, mask := chose k, frame := c.sp.frame }
    let next (m : Word) : PathTo := { pc := c.next s1, seq := true, mask := m, frame := c.sp.frame }
    let lanes (ps : List PathTo) : List PathTo := ps.filter fun p => p.mask ≠ 0
    let join : DWord := if tab.getD 9 0 = 0 then 0 else at_ 9
    (on → Diverges s s1 c (exec (.switch e) s) (lanes (cases ++ [next (c.sp.mask &&& ~~~ c.em ||| chose 8)])) join) ∧
    (¬ on → Diverges s s1 c (exec (.switch e) s)
      (lanes (cases ++ [{ pc := at_ 8, seq := false, mask := chose 8, frame := c.sp.frame }, next (c.sp.mask &&& ~~~ c.em)])) join))

/-- SWITCH (06 R153, R154) whose lanes all choose one case: its target, or for the default (8) the default target, or the next
instruction where the table's default is 0. The table is read through the instruction path, which writes no register and no memory. -/
def Obligations.SwitchSelects : Prop :=
  ∀ (s : State) (e : Enc) (c : Issue) (s1 : State) (tab : List Word) (k : Nat), s.ready? formSwitch e = some c → c.sp.mask ≠ 0 →
    c.em = c.sp.mask →
    (c.begin s).codeWords (fetcherOf c.w c.k c.warp c.sp) ((c.sp.pc &&& ~~~(31 : DWord)) + 32 * e.x.signExtend 64) 10 = (s1, none, tab) →
    (∀ i ∈ lanesOf c.em, c.switchCase tab i = k) →
    let target : DWord := (c.sp.pc &&& ~~~(31 : DWord)) + 32 * e.x.signExtend 64 + 4 * (tab.getD k 0).signExtend 64
    let on : Prop := k = 8 ∧ (tab.getD 8 0 = 0 ∨ target = c.next s1)
    ∃ t y, exec (.switch e) s = .next t ∧ OnlyWarp s1 t c.w ∧ s1.warps = (c.begin s).warps ∧ s1.mem = s.mem ∧ s1.wgs = s.wgs ∧
      y.rest = (c.now s).rest ∧ Orders c c.warp y ∧
      ((on → Goes c t y { c.issued s with pc := c.next s1, seq := true }) ∧ (¬ on → Goes c t y { c.issued s with pc := target, seq := false }))

/-- JOIN and YIELDS (06 R139, R151, R155): both invalidate the split's latches. A JOIN without a record of its own, and a YIELDS without a
stacked path, go on. Lanes that arrive at a record park there; with the last of them a split of all the lanes expected leaves the JOIN,
its latches invalid, its lanes' earlier operations ordered before all that follows (R141). YIELDS changes places with the oldest stacked
path, which runs on at LEVEL 0. -/
def Obligations.JoinsAndYields : Prop :=
  Completes .join formJoin (fun _ c => c.warp.joinRec c.sp.pc c.sp.frame.depth c.sp.mask = none)
    (fun s c t => Moved s c t { c.after s with latches := c.sp.latches.clear }) ∧
  Completes .yields formYields (fun _ c => c.warp.oldestPath = none)
    (fun s c t => Moved s c t { c.after s with latches := c.sp.latches.clear }) ∧
  (∀ (s : State) (e : Enc) (c : Issue) (i : Nat) (ex ar : Word) (f : Frame) (hd : Handler), s.ready? formJoin e = some c →
    c.warp.joinRec c.sp.pc c.sp.frame.depth c.sp.mask = some i → c.warp.stack[i]? = some (.join c.sp.pc ex ar f hd none) →
    c.warp.settled = true → c.warp.freeEntry.isSome = true → c.sp.mask &&& ~~~ ex = 0 →
    ∃ t y, exec (.join e) s = .next t ∧ OnlyWarp s t c.w ∧ t.warp? c.w = some y ∧ y.rest = (c.now s).rest ∧
      (ar ||| c.sp.mask ≠ ex →
        y.split? c.k = none ∧ y.pend = c.warp.pend ∧ (∀ q, q ≠ c.k → y.split? q = c.warp.split? q) ∧
        ∃ hd', y.stack = c.warp.stack.set i (.join c.sp.pc ex (ar ||| c.sp.mask) f hd' none)) ∧
      (ar ||| c.sp.mask = ex → f.loops = [] →
        ∃ n sp, y.split? n = some sp ∧ (n = c.k ∨ c.warp.split? n = none) ∧ sp.mask = ex ∧ sp.pc = c.next s ∧ sp.frame = f ∧
          sp.level = c.sp.level ∧ sp.latches.valid = 0 ∧ sp.wait = .ready ∧ y.stack = c.warp.stack.eraseIdx i ∧
          y.pend = (c.warp.pend.map fun p => if p.mask &&& ex = 0 then p else { p with mask := p.mask ||| ex }) ∧
          ∀ q, q ≠ c.k → q ≠ n → y.split? q = c.warp.split? q)) ∧
  (∀ (s : State) (e : Enc) (c : Issue) (i : Nat) (pc : DWord) (q : Bool) (m : Word) (j : DWord) (f : Frame) (hd : Handler),
    s.ready? formYields e = some c → c.warp.oldestPath = some i → c.warp.stack[i]? = some (.path pc q m j f hd) →
    c.warp.settled = true → f.loops = [] → c.sp.mask ≠ 0 →
    ∃ t y, exec (.yields e) s = .next t ∧ OnlyWarp s t c.w ∧ t.warp? c.w = some y ∧ y.rest = (c.now s).rest ∧ y.pend = c.warp.pend ∧
      y.split? c.k = some { Split.fresh pc m f { hd with level := 0 } s.nextId with seq := q } ∧
      y.stack = c.warp.stack.set i (.path (c.next s) true c.sp.mask j c.sp.frame c.sp.handler) ∧
      ∀ n, n ≠ c.k → y.split? n = c.warp.split? n)

/-- EXIT and DISCARD (06 R146, R155, 13 R318) of a warp without stacked records, outstanding operations or held faults: the executing lanes
leave every split, with them the lanes that only the frames of handlers left empty hold (log entry 12), a split left empty is freed,
and the rest of the split goes on. EXIT of a warp without a task changes that warp alone, where its gang is not being pre-empted.
The supervisor's kill of a handler's cause, an act of the model (log entry 32), ends the context for a watchdog kill, for another cause
the gang. -/
def Obligations.ExitEndsLanes : Prop :=
  let free (c : Issue) : Prop := c.em ≠ 0 ∧ c.warp.stack = [] ∧ c.warp.pend = [] ∧ c.warp.abandoned = [] ∧
    ∀ p ∈ c.warp.splits, p.2.frame.loops = []
  let calm (s : State) (c : Issue) : Prop := ∀ g, Tab.get? s.gangs c.warp.gang = some g → g.victim = false
  let gone (c : Issue) : Word := c.warp.leaving c.em
  let ends (d : Bool) (s : State) (c : Issue) (t : State) : Prop :=
    OnlyWarp ((c.begin s).endLanes c.w c.em d (some c.k)) t c.w ∧ c.em &&& ~~~ gone c = 0 ∧
    ((∀ p ∈ c.warp.splits, p.2.sup.held = 0) → gone c = c.em) ∧
    ∃ y, t.warp? c.w = some y ∧ y.stack = [] ∧ y.v = c.warp.v ∧ y.g = (c.now s).g ∧ y.o = c.warp.o ∧ y.fpstat = c.warp.fpstat ∧
      (∀ p ∈ y.splits, p.2.mask ≠ 0 ∧ p.2.mask &&& gone c = 0) ∧
      (c.em = c.sp.mask → y.split? c.k = none) ∧
      (calm s c →
        (c.em ≠ c.sp.mask → ∃ sp, y.split? c.k = some sp ∧ sp.mask = c.sp.mask &&& ~~~ c.em ∧ sp.pc = c.next s ∧
          sp.latches = c.sp.latches ∧ sp.frame = c.sp.frame) ∧
        ∀ p, p.1 ≠ c.k → (p ∈ y.splits ↔ p.2.mask ≠ 0 ∧ ∃ q ∈ c.warp.splits, p = (q.1, q.2.dropLanes (gone c))))
  Completes .exit formExit (fun _ c => free c)
    (fun s c t => ends false s c t ∧ (c.warp.task = none → calm s c → OnlyWarp s t c.w)) ∧
  Completes .discard formDiscard (fun _ c => free c ∧ c.warp.stage = .rasterFragment) (ends true) ∧
  (∀ (s : State) (w k : Nat) (x : Warp) (sp : Split), s.warp? w = some x → x.split? k = some sp → sp.level = 2 →
    sp.sup.saved.isSome = true →
    (sp.sup.cause = 0x14 → ((s.supervisorKill w k).ctx x.ctx).killed = true ∧ ∀ q y, (s.supervisorKill w k).warp? q = some y → y.ctx ≠ x.ctx) ∧
    (sp.sup.cause ≠ 0x14 → s.supervisorKill w k = s.killGang x.gang sp.sup.cause ∧
      ∀ g l y, Tab.get? s.gangs x.gang = some g → g.source = .launch l → Tab.get? s.launches l = some y →
        (Tab.get? (s.supervisorKill w k).launches l).map (·.failed) = some (some (y.failed.getD sp.sup.cause))))

/-- A call at depth 8 or more stores the return address that leaves the split into each calling lane's spill slot, and no other byte;
RET at depth 9 or more takes the slot of its lowest lane back into the split (06 R143, R144). The slots must lie in the allocation and be
owned by lanes. -/
def Obligations.CallSpills : Prop :=
  let ok (s : State) (c : Issue) (v : Nat) (x : Workgroup) : Prop :=
    s.wg? c.warp.wg = some x ∧ ∀ i ∈ lanesOf c.sp.mask, c.warp.spillSlot v i + 8 ≤ x.alloc ∧ x.owned (c.warp.spillSlot v i) 8 = false
  (∀ (mk : Enc → Instr) (f : Form) (target : Issue → DWord),
    (mk, f, target) ∈ ([(.call, formCall, fun c => c.sp.pc + 4 * c.e.x.signExtend 64),
      (.callx, formCallx, fun c => c.rd64 c.e.a (if c.e.uni then 0 else c.first))] : List ((Enc → Instr) × Form × (Issue → DWord))) →
    ∀ (s : State) (e : Enc) (c : Issue) (x : Workgroup), s.ready? f e = some c → c.sp.mask ≠ 0 → c.taken = c.sp.mask →
    (f.op = formCallx.op → e.uni = true ∨ ∀ i ∈ lanesOf c.em, c.rd64 e.a i = c.rd64 e.a c.first) →
    8 ≤ c.sp.frame.depth → c.sp.frame.depth + 1 ≤ 8 + c.warp.spillLevels → ok s c (c.sp.frame.depth - 7) x →
    ∃ t y x', exec (mk e) s = .next t ∧ t.warp? c.w = some y ∧ y.rest = (c.now s).rest ∧ Orders c c.warp y ∧ t.mem = s.mem ∧
      t.wg? c.warp.wg = some x' ∧ x' = { x with sp := x'.sp, bad := x'.bad } ∧ (∀ q, q ≠ c.warp.wg → t.wg? q = s.wg? q) ∧
      (∀ i ∈ lanesOf c.sp.mask, x'.sp.readNat (c.warp.spillSlot (c.sp.frame.depth - 7) i) 8 = (c.sp.frame.rstack.getD 7 0).toNat) ∧
      (∀ a, (∀ i ∈ lanesOf c.sp.mask, a < c.warp.spillSlot (c.sp.frame.depth - 7) i ∨ c.warp.spillSlot (c.sp.frame.depth - 7) i + 8 ≤ a) →
        x'.sp.read a = x.sp.read a) ∧
      Goes c t y { c.issued s with
        pc := target c, seq := false,
        frame := { c.sp.frame with
          depth := c.sp.frame.depth + 1, rstack := (c.next s :: c.sp.frame.rstack).take 8,
          soft := if c.sp.frame.rstack.length = 8 then c.sp.frame.soft - 1 else c.sp.frame.soft } }) ∧
  (∀ (s : State) (e : Enc) (c : Issue) (x : Workgroup), s.ready? formRet e = some c → c.em ≠ 0 → c.em = c.sp.mask →
    9 ≤ c.sp.frame.depth → c.sp.frame.inner = none → c.openJoin = false → ok s c (c.sp.frame.depth - 8) x →
    ∃ t, exec (.ret e) s = .next t ∧ Moved s c t { c.issued s with
      pc := c.sp.frame.rstack.headD 0, seq := decide (c.sp.frame.soft < c.sp.frame.rstack.length),
      frame := { c.sp.frame with
        depth := c.sp.frame.depth - 1, soft := min c.sp.frame.soft (c.sp.frame.rstack.length - 1) + 1,
        rstack := c.sp.frame.rstack.drop 1 ++
          [BitVec.ofNat 64 (x.sp.readNat (c.warp.spillSlot (c.sp.frame.depth - 8) (((lanesOf c.sp.mask).head?).getD 0)) 8)] } })

/-- The end step at the END of the innermost level (07 R160 to R162), where the level's loop record expects the lanes of `ex`, `ar` of them
arrived. With copies still in the body the split parks, its entry free. With the last of them the split of all the lanes goes on in it, its
latches invalid if any had parked, and the pass advances: another pass starts while the level has one left and a lane is live; else the level
and its record go and the split goes on behind END, the level's EXITMASK lanes live again. `valid` is what the instruction leaves of the
latch valid bits. -/
def EndSteps (s : State) (c : Issue) (valid : BitVec 4) (r : Host.Outcome State Fault Refusal) : Prop :=
  ∀ (n i : Nat) (l : Loop) (ex ar : Word) (rf : Frame) (rh : Handler), c.sp.frame.inner = some (n, l) → l.stop = c.sp.pc →
    c.warp.stack[i]? = some (.join l.stop ex ar rf rh (some l.depth)) → ex &&& c.sp.mask ≠ 0 →
    (∀ q, q < i → ∃ j x a f h d, c.warp.stack[q]? = some (.join j x a f h d) ∧ x &&& c.sp.mask = 0 ∧ a &&& ~~~ x = 0) →
    c.warp.settled = true →
    let old : Word := ((rf.loops[n]?).map (·.exitmask)).getD 0
    let l1 : Loop := if ar = 0 then l else { l with exitmask := l.exitmask ||| old }
    let left : Bool := l.started.toNat < l.count.toNat
    let stages : BitVec 8 := BitVec.ofNat 8 ((l.stagemask.toNat * 2 + (if left then 1 else 0)) % 2 ^ l.stages)
    let l2 : Loop := { l1 with
      started := if left then l.started + 1 else l.started, stagemask := if l.pipelined then stages else l.stagemask,
      rb := if l.pipelined then (l.rb + l.win - 1) % l.win else l.rb }
    let more : Bool := if l.pipelined then (l.stagemask.toNat * 2 + (if left then 1 else 0)) % 2 ^ l.stages ≠ 0 else left
    let mask : Word := if ar = 0 then c.sp.mask else ex
    let inside : List Loop := c.sp.frame.loops.set n l2
    let outside : List Loop := c.sp.frame.loops.take n
    let all : Prop := ar ||| c.sp.mask = ex
    let on (sp : Split) : Prop := sp.mask = mask ∧ sp.seq = true ∧ sp.level = c.sp.level ∧ sp.wait = .ready ∧
      sp.latches.valid = if ar = 0 then valid else 0
    ∃ t y, r = .next t ∧ OnlyWarp s t c.w ∧ t.warp? c.w = some y ∧ y.rest = (c.now s).rest ∧
      (¬ all → c.warp.freeEntry.isSome = true → y.split? c.k = none ∧ (∀ q, q ≠ c.k → y.split? q = c.warp.split? q) ∧
        ∃ hd, y.stack = c.warp.stack.set i
          (.join l.stop ex (ar ||| c.sp.mask) (c.sp.frame.setLoop n { l with exitmask := l.exitmask ||| old }) hd (some l.depth))) ∧
      (all → more = true → mask &&& ~~~ loopsExit inside ≠ 0 →
        (∃ sp, y.split? c.k = some sp ∧ on sp ∧ sp.pc = l.start ∧ sp.frame = { c.sp.frame with loops := inside }) ∧
        (∀ q, q ≠ c.k → y.split? q = c.warp.split? q) ∧ y.stack = c.warp.stack.set i (.join l.stop ex 0 rf rh (some l.depth))) ∧
      (all → (more = false ∨ mask &&& ~~~ loopsExit inside = 0) → (outside = [] ∨ mask &&& ~~~ loopsExit outside ≠ 0) →
        (∀ o ∈ outside.getLast?, o.depth = c.sp.frame.depth → o.stop ≠ l.stop) →
        (∃ sp, y.split? c.k = some sp ∧ on sp ∧ sp.pc = c.next s ∧ sp.frame = { c.sp.frame with loops := outside }) ∧
        (∀ q, q ≠ c.k → y.split? q = c.warp.split? q) ∧ y.stack = c.warp.stack.eraseIdx i)

/-- Declared loops (07 R169 to R176): LOOP and LOOPP with a count push a loop record for all the split's lanes and a level at the next
instruction, first pass started; with count 0 the body is passed over. BREAK takes its lanes out of the innermost level; LCGET reads and
LCSET writes a field; IPREF asks for lines and changes no register. An instruction at the END of the innermost level, here NOP, runs the end
step. -/
def Obligations.LoopInstructions : Prop :=
  let level (s : State) (c : Issue) (n : Word) (pipe : Option (Nat × Nat)) : Loop :=
    { pipelined := pipe.isSome, start := c.next s, stop := c.sp.pc + BitVec.ofNat 64 (4 * c.e.x.toNat), count := n, started := 1,
      exitmask := 0, depth := c.sp.frame.depth, stages := (pipe.map (·.1)).getD 0, stagemask := if pipe.isSome then 1 else 0,
      win := (pipe.map (·.2)).getD 0, rb := 0 }
  let declares (mk : Enc → Instr) (f : Form) (count : Issue → Word) (pipe : Enc → Option (Nat × Nat)) : Prop :=
    (∀ (s : State) (e : Enc) (c : Issue), s.ready? f e = some c → c.sp.mask ≠ 0 → c.loopTrap s ((pipe e).map (·.2)) = none → count c ≠ 0 →
      c.warp.settled = true →
      ∃ t y, exec (mk e) s = .next t ∧ OnlyWarp s t c.w ∧ t.warp? c.w = some y ∧ y.rest = (c.now s).rest ∧ y.pend = c.warp.pend ∧
        y.stack = .join (c.sp.pc + BitVec.ofNat 64 (4 * e.x.toNat)) c.sp.mask 0 c.sp.frame c.sp.handler (some c.sp.frame.depth) :: c.warp.stack ∧
        y.split? c.k = some { c.issued s with
          pc := c.next s, seq := true,
          frame := { c.sp.frame with loops := c.sp.frame.loops ++ [level s c (count c) (pipe e)] } } ∧
        ∀ q, q ≠ c.k → y.split? q = c.warp.split? q) ∧
    (∀ (s : State) (e : Enc) (c : Issue) (s1 : State) (d : BitVec 1024), s.ready? f e = some c →
      c.loopTrap s ((pipe e).map (·.2)) = none → count c = 0 → (c.begin s).fetchLine (fetcherOf c.w c.k c.warp c.sp) c.loopEnd = (s1, .line d) →
      ∃ t y, exec (mk e) s = .next t ∧ OnlyWarp s1 t c.w ∧ s1.warps = (c.begin s).warps ∧ y.rest = (c.now s).rest ∧ Orders c c.warp y ∧
        Goes c t y { c.issued s with pc := c.succ s1 c.loopEnd, seq := true })
  (∀ (s : State) (e : Enc) (c : Issue), s.ready? formNop e = some c → EndSteps s c (c.pushed (c.lanes.map fun i => (i, []))).valid (exec (.nop e) s)) ∧
  declares .loop formLoop (fun c => if c.e.fb 18 1 = 1 then BitVec.ofNat 32 (c.e.fb 0 18) else c.rd c.e.a 0) (fun _ => none) ∧
  declares .loopp formLoopp (fun c => if c.e.fb 18 1 = 1 then c.e.k else c.rd c.e.a 0) (fun e => some (e.fb 0 3 + 1, 8 * (e.fb 3 3 + 1))) ∧
  (∀ (s : State) (e : Enc) (c : Issue) (n : Nat) (l : Loop), s.ready? formBreak e = some c → c.sp.frame.inner = some (n, l) →
    c.sp.live &&& ~~~ c.em ≠ 0 →
    ∃ t, exec (.breakLoop e) s = .next t ∧
      Moved s c t { c.after s with frame := c.sp.frame.setLoop n { l with exitmask := l.exitmask ||| c.em } }) ∧
  (∀ (s : State) (e : Enc) (c : Issue) (ls : List Loop) (pend : Bool), s.ready? formLcget e = some c →
    (if lcSav e then c.savedFrame.map (fun x => (x.loops, x.pend)) else some (c.sp.frame.loops, false)) = some (ls, pend) →
    ∃ t y, exec (.lcget e) s = .next t ∧ OnlyWarp s t c.w ∧ Goes c t y (c.after s) ∧
      Orders c c.warp y ∧ Wrote c s y (c.lanes.map fun i => (i, [loopField ls pend (lcLevel e) (lcField e)])) ∧ y.fpstat = c.warp.fpstat ∧
      y.bare = c.warp.bare) ∧
  (∀ (s : State) (e : Enc) (c : Issue) (i : Nat) (l : Loop), s.ready? formLcset e = some c → lcSav e = false → lcField e ≠ 8 →
    c.sp.frame.loops[lcLevel e]? = some l → c.lanes.head? = some i → c.sp.live ≠ 0 →
    c.sp.mask &&& ~~~(loopsExit (c.sp.frame.setLoop (lcLevel e) (l.setField (lcField e) c.sp.mask (c.rd e.a i))).loops) ≠ 0 →
    ∃ t, exec (.lcset e) s = .next t ∧
      Moved s c t { c.after s with frame := c.sp.frame.setLoop (lcLevel e) (l.setField (lcField e) c.sp.mask (c.rd e.a i)) }) ∧
  (∀ (s : State) (e : Enc) (c : Issue) (i : Nat) (l : Loop) (x : Saved), s.ready? formLcset e = some c → lcSav e = true → lcField e ≠ 8 →
    c.sp.level = 1 → c.sp.user.saved = some x → x.loops[lcLevel e]? = some l → c.lanes.head? = some i →
    ∃ t, exec (.lcset e) s = .next t ∧
      Moved s c t (let x' : Saved := { x with loops := x.loops.set (lcLevel e) (l.setField (lcField e) c.sp.mask (c.rd e.a i)) }
        { c.after s with user := { c.sp.user with saved := some x' } })) ∧
  (∀ (s : State) (e : Enc) (c : Issue), s.ready? formIpref e = some c →
    ∃ t y, exec (.ipref e) s = .next t ∧ (∀ q, q ≠ c.w → t.warp? q = s.warp? q) ∧ y.rest = (c.now s).rest ∧ Orders c c.warp y ∧
      t.mem = s.mem ∧ t.wgs = s.wgs ∧ Goes c t y { c.issued s with pc := c.next t, seq := true })

/-- The system, memory and engine instructions of the list with no executing lane only go on (02 R70). -/
def Obligations.PredicatedOffGoesOn : Prop :=
  ∀ (i : Instr) (f : Form) (e : Enc), i.form? = some (f, e) →
    i ∈ ([.tbbind e, .ld e, .st e, .ldx e, .stx e, .clean e, .inval e, .cpy e, .cpyo e, .cpyr e, .waitc e, .qinit e, .qpop e, .atom e,
      .atomc e, .red e, .fence e, .afence e, .ticket e, .advance e, .tokpass e, .sample e, .sampleg e, .tfetch e, .istore e, .trace e,
      .exit e, .ret e, .ipref e, .trap e, .bkpt e, .uret e, .sret e, .tlbfill e, .tlbinv e, .dharv e, .walkpop e, .handover e, .tokdef e,
      .tokdefDel e, .crdef e, .crdefDel e, .crdefRd e, .crdefRdclr e, .resumew e, .haltw e, .rdwarp e, .wrwarp e, .time e, .bbmark e,
      .launch e] : List Instr) →
    ∀ s c, s.ready? f e = some c → c.em = 0 → c.warp.walker = false →
      ∃ t, exec i s = .next t ∧ Moved s c t (c.after s)

/-! ### Memory -/

/-- An operation of the issuing split counted on a path (or interlocked, path none), added in s1. -/
def counted (c : Issue) (s1 : State) (path : Option Path) (dsts : List DstWord) (body : OpBody) (granules : List (Nat × Nat) := [])
    (toks : List Nat := []) : State :=
  { s1 with
    warps := Tab.modify s1.warps c.w fun x => { x with pend := x.pend ++
      [{ id := s1.nextId, path, mask := c.sp.mask, done := false, dsts, granules, toks, held := none, user := decide (c.sp.level < 2),
         xfails := [], body }] },
    nextId := s1.nextId + 1 }

/-- A walker's access of physical addresses recorded at the stacks that admit it (26 R504). -/
def noted (c : Issue) (s : State) (vas : List (Nat × DWord)) : State :=
  s.noteAdmitted c.warp.ctx (vas.filterMap fun p => match placeOf p.2.toNat with | .stack n => some n | _ => none)

/-- The admission of an access has answered: lanes with their places, and the regions whose tokens a write needs. -/
def Admits (c : Issue) (s : State) (k : Access) (reqs : State → State × List LaneReq) (s1 : State) (lanes : List LaneAddr)
    (toks : List Nat) : Prop :=
  (reqs (c.begin s)).1.admission c k (reqs (c.begin s)).2 = (s1, .ok lanes toks)

/-- No register, other warp, byte of memory or scratchpad differs. -/
def Quiet (c : Issue) (s t : State) : Prop :=
  t.mem = s.mem ∧ t.wgs = s.wgs ∧ (∀ q, q ≠ c.w → t.warp? q = s.warp? q) ∧
    ∃ y, t.warp? c.w = some y ∧ y.v = c.warp.v ∧ y.g = (c.now s).g ∧ y.o = c.warp.o ∧ y.fpstat = c.warp.fpstat

/-- No register of any warp differs, nor a split of another warp: of those, translation bases may have come unbound with an entry that left
a TLB (09 R205), whose bits are then in memory (19 R426). -/
def Based (c : Issue) (s t : State) : Prop :=
  t.wgs = s.wgs ∧ (∀ q x, q ≠ c.w → s.warp? q = some x → ∃ y, t.warp? q = some y ∧ y = { x with tbs := y.tbs }) ∧
    ∃ y, t.warp? c.w = some y ∧ y.v = c.warp.v ∧ y.g = (c.now s).g ∧ y.o = c.warp.o ∧ y.fpstat = c.warp.fpstat

/-- Every request of an access is direct or finds its core's L1 TLB. -/
def HitsL1 (c : Issue) (s : State) (rs : List LaneReq) : Prop :=
  ∀ r ∈ rs, r.direct.isSome = true ∨ (tlbFind (s.core c.warp.core).l1 c.warp.ctx r.va.toNat).isSome = true

/-- TBBIND, LD, LDX and PREF (09 R206, R207, R212, R217; a walker's LDX, 19 R420): TBBIND binds the base from the TLBs, and leaves it unbound
with its VBASE where they miss; a load whose lanes are admitted is counted on G with the destinations of its lanes, and at its issue no
register changes, nor, where no entry need enter the L1 TLB, a byte of memory. -/
def Obligations.LoadsIssue : Prop :=
  let va (c : Issue) : DWord := c.rd64 c.e.a 0
  Completes .tbbind formTbbind (fun _ c => c.em ≠ 0 ∧ c.warp.walker = false) (fun s c t =>
    let s1 := if canonical (va c) then ((c.begin s).lookData c.warp.core c.warp.ctx (va c).toNat).1 else c.begin s
    Based c s t ∧ OnlyWarp s1 t c.w ∧
    ∃ x y, s1.warp? c.w = some x ∧ t.warp? c.w = some y ∧ (y.tbase (c.e.fb 0 3)).vbase = va c ∧
      y.rest = { x with tbs := y.tbs }.rest ∧ Orders c c.warp y ∧ Goes c t y { c.issued s with pc := c.next t, seq := true } ∧
      (∀ n, n ≠ c.e.fb 0 3 → y.tbase n = x.tbase n) ∧
      (∀ p, tlbFind (s.core c.warp.core).l1 c.warp.ctx (va c).toNat = some p → canonical (va c) = true →
        Quiet c s t ∧ y.tbase (c.e.fb 0 3) = .bind (va c) p (s.homeOf p.leaf (p.pa (va c).toNat)))) ∧
  (∀ (mk : Enc → Instr) (f : Form) (reqs : Issue → State → State × List LaneReq),
    (mk, f, reqs) ∈ ([(.ld, formLd, Issue.baseAccess), (.ldx, formLdx, fun c s => (s, c.flatAccess))] :
      List ((Enc → Instr) × Form × (Issue → State → State × List LaneReq))) →
    ∀ (s : State) (e : Enc) (c : Issue) (s1 : State) (lanes : List LaneAddr) (toks : List Nat), s.ready? f e = some c → c.em ≠ 0 →
      c.warp.walker = false → c.full .G = false → Admits c s { size := memBytes e, write := false } (reqs c) s1 lanes toks →
      ∃ t, exec (mk e) s = .next t ∧ Based c s t ∧
        ((reqs c (c.begin s)).1 = c.begin s → HitsL1 c s (reqs c (c.begin s)).2 → Quiet c s t) ∧
        Left c s (counted c s1 (some .G) (c.dsts e.d (lanes.map (·.lane)) (memNames e))
          (.load lanes (memBytes e) (e.fb 0 4) (decide (e.fb 10 1 = 1)) (loadAcq e))) t) ∧
  (∀ (s : State) (e : Enc) (c : Issue), s.ready? formLdx e = some c → c.em ≠ 0 → c.warp.walker = true → c.full .G = false →
    let vas := c.lanes.map fun i => (i, c.rd64 e.a i)
    (c.begin s).walkerCheck c.warp.core (decide (e.fb 0 5 = 3)) vas (memBytes e) false = .inl none →
    let lanes : List LaneAddr := vas.map fun p => { lane := p.1, va := p.2, pa := p.2.toNat }
    ∃ t, exec (.ldx e) s = .next t ∧ Quiet c s t ∧
      Left c s (counted c (noted c (c.begin s) vas) (some .G) (c.dsts e.d c.lanes (memNames e))
        (.load lanes (memBytes e) (e.fb 0 4) (decide (e.fb 10 1 = 1)) (loadAcq e))) t) ∧
  (∀ (s : State) (e : Enc) (c : Issue), s.ready? formPref e = some c →
    ∃ t y, exec (.pref e) s = .next t ∧ Based c s t ∧ t.warp? c.w = some y ∧
      y.rest = { c.now s with tbs := y.tbs }.rest ∧ Orders c c.warp y ∧ Goes c t y { c.issued s with pc := c.next t, seq := true })

/-- ST, STX, CLEAN and INVAL (09 R212, R215, R218; a walker's STX, 19 R420): a store whose lanes are admitted is counted on S with the bytes
its registers hold at issue, after its release action where it has one and with its task pinned where it must be; CLEAN and INVAL of a
range are counted on S, and do nothing for an empty one or below cluster scope. -/
def Obligations.StoresIssue : Prop :=
  let bytes (c : Issue) (lanes : List LaneAddr) : List (Nat × Byte) := lanes.flatMap fun l => c.dataBytes c.e.b l.lane l.pa
  let runs (c : Issue) (lanes : List LaneAddr) : List (Nat × Nat) := lanes.map fun l => (l.va.toNat, memBytes c.e)
  (∀ (mk : Enc → Instr) (f : Form) (reqs : Issue → State → State × List LaneReq),
    (mk, f, reqs) ∈ ([(.st, formSt, Issue.baseAccess), (.stx, formStx, fun c s => (s, c.flatAccess))] :
      List ((Enc → Instr) × Form × (Issue → State → State × List LaneReq))) →
    ∀ (s : State) (e : Enc) (c : Issue) (s1 s2 s3 : State) (lanes : List LaneAddr) (toks : List Nat), s.ready? f e = some c → c.em ≠ 0 →
      c.warp.walker = false → c.full .S = false →
      Admits c s { size := memBytes e, write := true, store := true } (reqs c) s1 lanes toks →
      Released c s1 s2 (storeRel e ≠ 5) (storeRel e) → WritesFrom c s2 s3 (runs c lanes) →
      ∃ t, exec (mk e) s = .next t ∧ Left c s (counted c (s3.askTokens c.warp.core toks) (some .S) [] (.store (bytes c lanes) (storeRel e) (decide (e.fb 10 1 = 1))) [] toks) t) ∧
  (∀ (s : State) (e : Enc) (c : Issue) (s2 s3 : State), s.ready? formStx e = some c → c.em ≠ 0 → c.warp.walker = true → c.full .S = false →
    let vas := c.lanes.map fun i => (i, c.rd64 e.a i)
    (c.begin s).walkerCheck c.warp.core false vas (memBytes e) true = .inl none →
    let lanes : List LaneAddr := vas.map fun p => { lane := p.1, va := p.2, pa := p.2.toNat }
    Released c (noted c (c.begin s) vas) s2 (storeRel e ≠ 5) (storeRel e) → WritesFrom c s2 s3 (runs c lanes) →
    let toks := (c.begin s).walkerRegions vas
    ∃ t, exec (.stx e) s = .next t ∧
      Left c s (counted c (s3.askTokens c.warp.core toks) (some .S) [] (.store (bytes c lanes) (storeRel e) (decide (e.fb 10 1 = 1))) [] toks) t) ∧
  (∀ (mk : Enc → Instr) (f : Form) (inval : Bool),
    (mk, f, inval) ∈ ([(.clean, formClean, false), (.inval, formInval, true)] : List ((Enc → Instr) × Form × Bool)) →
    ∀ (s : State) (e : Enc) (c : Issue), s.ready? f e = some c → c.em ≠ 0 →
      (((c.rd e.b 0) = 0 ∨ e.fb 0 3 < 2) → ∃ t, exec (mk e) s = .next t ∧ Moved s c t (c.after s)) ∧
      (c.rd e.b 0 ≠ 0 → 2 ≤ e.fb 0 3 → c.full .S = false →
        ∃ t, exec (mk e) s = .next t ∧ Quiet c s t ∧
          Left c s (counted c (c.begin s) (some .S) [] (.clean (c.rd64 e.a 0) (c.rd e.b 0).toNat inval (decide (e.fb 3 1 = 1)))) t))

/-- LDS, STS, LDR and STR (08 R186 to R188), where no earlier operation of the same lanes has still to touch the bytes
(10 R225). LDS reads its lanes' bytes at issue, poisoned ones as poisoned, into an interlocked result. STS writes them: the bytes at a lane's address (a + OFF) mod 2^32 become the lane's datum, the highest lane's where addresses agree, poisoned no more, and no other byte changes. LDR and STR
are counted on Q. -/
def Obligations.ScratchpadAccesses : Prop :=
  let offs (c : Issue) : List (Nat × Nat) := c.lanes.map fun i => (i, ((c.rd c.e.a i).toNat + c.e.fb 5 14) % 2 ^ 32)
  let behind (c : Issue) (s : State) : Bool :=
    (c.begin s).scratchBehind c.warp (c.begin s).nextId c.sp.mask ((offs c).map fun p => (c.warp.wg, p.2, memBytes c.e))
  let seen (c : Issue) (s : State) : State := (c.begin s).seeFlips c.warp.core
  (∀ (s : State) (e : Enc) (c : Issue) (x : Workgroup), s.ready? formLds e = some c → s.wg? c.warp.wg = some x →
    x.check (offs c) (memBytes e) false = none → c.lanes ≠ [] → behind c s = false →
    ∃ t, exec (.lds e) s = .next t ∧ Quiet c s t ∧
      Left c s (counted c (c.begin s) none (c.dsts e.d c.lanes (memNames e))
        (.words ((offs c).map fun p => (p.1, loadWords (memBytes e) (e.fb 0 4) (x.sp.readNat p.2 (memBytes e)), x.mark p.2 (memBytes e))))) t) ∧
  (∀ (s : State) (e : Enc) (c : Issue) (x : Workgroup), s.ready? formSts e = some c → s.wg? c.warp.wg = some x →
    x.check (offs c) (memBytes e) true = none → behind c s = false →
    ∃ t y x', exec (.sts e) s = .next t ∧ t.mem = s.mem ∧ Orders c c.warp y ∧ y.rest = (c.now s).rest ∧ Goes c t y (c.after s) ∧
      t.wg? c.warp.wg = some x' ∧ x' = { x with sp := x'.sp, bad := x'.bad } ∧ (∀ q, q ≠ c.warp.wg → t.wg? q = s.wg? q) ∧
      (∀ q, q ≠ c.w → t.warp? q = s.warp? q) ∧
      (∀ a, (∀ p ∈ offs c, a < p.2 ∨ p.2 + memBytes e ≤ a) → x'.sp.read a = x.sp.read a ∧ (a ∈ x'.bad ↔ a ∈ x.bad)) ∧
      (∀ p ∈ offs c, x'.mark p.2 (memBytes e) = 0) ∧
      (∀ p ∈ offs c, (∀ q ∈ offs c, q.2 = p.2 → q.1 ≤ p.1) → ∀ b ∈ c.dataBytes e.b p.1 p.2, x'.sp.read b.1 = b.2)) ∧
  (∀ (s : State) (e : Enc) (c : Issue), s.ready? formLdr e = some c → (seen c s).windowCheck c.warp (offs c) (memBytes e) false = none →
    c.lanes ≠ [] → c.full .Q = false →
    ∃ t, exec (.ldr e) s = .next t ∧ t.mem = s.mem ∧
      Left c s (counted c (seen c s) (some .Q) (c.dsts e.d c.lanes (memNames e)) (.ldr (offs c) (memBytes e) (e.fb 0 4))) t) ∧
  (∀ (s : State) (e : Enc) (c : Issue), s.ready? formStr e = some c → (seen c s).windowCheck c.warp (offs c) (memBytes e) true = none →
    c.lanes ≠ [] → c.full .Q = false →
    ∃ t, exec (.str e) s = .next t ∧ t.mem = s.mem ∧
      Left c s (counted c (seen c s) (some .Q) [] (.str ((offs c).flatMap fun p => c.dataBytes e.b p.1 p.2))) t)

/-- CPY, CPYO and CPYR (08 R189 to R191) that pass their checks, with room in the engine's queue: counted on C with the copy their operands
give, its granules engine-owned from the issue on; no byte of memory and no register changes yet. WAITC (R185): at or under its threshold
it goes on, above it the split waits, its latches invalid. -/
def Obligations.CopiesAndWaits : Prop :=
  (∀ (mk : Enc → Instr) (f : Form) (dir : Nat),
    (mk, f, dir) ∈ ([(.cpy, formCpy, 0), (.cpyo, formCpyo, 1), (.cpyr, formCpyr, 2)] : List ((Enc → Instr) × Form × Nat)) →
    ∀ (s : State) (e : Enc) (c : Issue) (s1 : State), s.ready? f e = some c → c.em ≠ 0 → (dir ≠ 2 → c.warp.walker = false) →
      let x := c.copyOf dir
      let s0 := if dir = 2 then (c.begin s).seeFlips c.warp.core else c.begin s
      let spans := s0.copySpans c.warp x
      let gs := (spans.flatMap fun q => (granulesOf q.2.1 q.2.2).map fun g => (q.1, g)).eraseDups
      s0.copyTrap c.warp x (c.rd e.b 0).toNat = none →
      (∀ q ∈ spans, ∀ g, s0.wg? q.1 = some g → g.ownedFor s0.timer c.warp.core q.2.1 q.2.2 = false) →
      (s.core c.warp.core).copies.length < 80 → c.full .C = false →
      (dir = 1 → WritesFrom c s0 s1
        ((List.range x.rows).map fun (r : Nat) => ((BitVec.ofInt 64 ((x.global.toNat : Int) + r * x.gpitch)).toNat, x.rowbytes))) →
      (dir ≠ 1 → s1 = s0) →
      let s2 : State := (s1.flipEngine gs).modCore c.warp.core fun y => { y with copies := y.copies ++ [(c.w, s1.nextId)] }
      ∃ t, exec (mk e) s = .next t ∧ Left c s (counted c s2 (some .C) [] (.copy x) gs) t) ∧
  Completes .waitc formWaitc (fun _ c => c.em ≠ 0 ∧ c.warp.counter (pathOf (c.e.fb 0 3)) ≤ c.threshold) (fun s c t => Moved s c t (c.after s)) ∧
  Completes .waitc formWaitc
    (fun _ c => c.em ≠ 0 ∧ c.threshold < c.warp.counter (pathOf (c.e.fb 0 3)) ∧ c.warp.waitHeld (pathOf (c.e.fb 0 3)) c.threshold = none)
    (fun s c t => Waits c s (c.begin s) t (.counter (pathOf (c.e.fb 0 3)) c.threshold))

/-! ### Queues, atomics, fences -/

/-- QINIT, QPUSH and QPOP (08 R194 to R200). QINIT binds the queue: HEAD and TAIL 0, CAP and SCOPE its own, no byte beyond the 32 of the
header changed. A push that finds room and nobody before it appends its handles; on an unbound or a full queue, or behind another push, it
waits, or with .try returns 0; a remote push is counted on Q. A pop with enough entries and nobody before it takes them; otherwise it waits,
its registers due from its own place among the operations, or with .try returns 0. -/
def Obligations.QueueInstructions : Prop :=
  (∀ (s : State) (e : Enc) (c : Issue) (x : Workgroup), s.ready? formQinit e = some c → c.em ≠ 0 → s.wg? c.warp.wg = some x →
    e.fb 0 4 < x.qcount → (e.fb 12 3 = 1 ∨ e.fb 12 3 = 2) → (c.rd e.a 0).toNat % 32 = 0 →
    (c.rd e.a 0).toNat + 32 + 4 * (e.fb 4 8 + 1) ≤ x.alloc → x.owned (c.rd e.a 0).toNat (32 + 4 * (e.fb 4 8 + 1)) = false →
    ((x.queue (e.fb 0 4)).bound = true → (x.header (e.fb 0 4)).count = 0 ∧ (x.queue (e.fb 0 4)).pushers = [] ∧
      (c.begin s).pushReleasing (x.queue (e.fb 0 4)) = false) →
    ∃ t y x', exec (.qinit e) s = .next t ∧ t.mem = s.mem ∧ y.rest = (c.now s).rest ∧ Orders c c.warp y ∧ Goes c t y (c.after s) ∧
      t.wg? c.warp.wg = some x' ∧ x'.header (e.fb 0 4) = { head := 0, tail := 0, cap := e.fb 4 8 + 1, scope := e.fb 12 3 } ∧
      (x'.queue (e.fb 0 4)).bound = true ∧ (x'.queue (e.fb 0 4)).header = (c.rd e.a 0).toNat ∧
      (∀ q, q ≠ e.fb 0 4 → x'.queue q = x.queue q) ∧
      (∀ a, a < (c.rd e.a 0).toNat ∨ (c.rd e.a 0).toNat + 32 ≤ a → x'.sp.read a = x.sp.read a)) ∧
  (∀ (s : State) (e : Enc) (c : Issue) (x : Workgroup) (s1 : State), s.ready? formQpush e = some c → c.em ≠ 0 → s.wg? c.warp.wg = some x →
    e.fb 5 1 = 0 → e.fb 0 4 < x.qcount → (x.queue (e.fb 0 4)).bound = true →
    x.queueFault (e.fb 0 4) (x.header (e.fb 0 4)).tail c.lanes.length c.em = none →
    c.pushRelease ((c.begin s).modQueue c.warp.wg (e.fb 0 4) fun q => q.beginRelease c.w c.k) (x.header (e.fb 0 4)).scope = (s1, none) →
    let sc := (x.header (e.fb 0 4)).scope
    let takes : Prop := (x.queue (e.fb 0 4)).pushers = [] ∧ c.lanes.length ≤ (x.header (e.fb 0 4)).cap - (x.header (e.fb 0 4)).count
    let done (s : State) : State := s.modQueue c.warp.wg (e.fb 0 4) fun q => q.endRelease c.w c.k
    (takes → ∃ t, exec (.qpush e) s = .next t ∧ Left c s (c.tryStatus (done (s1.append c.warp.wg (e.fb 0 4) sc c.handles)) 1) t) ∧
    (¬ takes → e.fb 4 1 = 1 → ∃ t, exec (.qpush e) s = .next t ∧ Left c s (c.tryStatus (done s1) 0) t) ∧
    (¬ takes → e.fb 4 1 = 0 → ∃ t, exec (.qpush e) s = .next t ∧
      Waits c s ((done s1).modQueue c.warp.wg (e.fb 0 4) fun q => q.joinPush c.w c.k) t
        (.push (e.fb 0 4) (some sc) (c.lanes.zip c.handles) c.waitAt))) ∧
  (∀ (s : State) (e : Enc) (c : Issue) (x : Workgroup), s.ready? formQpush e = some c → c.em ≠ 0 → s.wg? c.warp.wg = some x →
    e.fb 5 1 = 0 → e.fb 0 4 < x.qcount → (x.queue (e.fb 0 4)).bound = false →
    (e.fb 4 1 = 1 → ∃ t, exec (.qpush e) s = .next t ∧ Left c s (c.tryStatus (c.begin s) 0) t) ∧
    (e.fb 4 1 = 0 → ∃ t, exec (.qpush e) s = .next t ∧
      Waits c s ((c.begin s).modQueue c.warp.wg (e.fb 0 4) fun q => q.joinPush c.w c.k) t (.push (e.fb 0 4) none [] c.waitAt))) ∧
  (∀ (s : State) (e : Enc) (c : Issue) (x : Workgroup) (s1 : State) (n : Nat), s.ready? formQpush e = some c → c.em ≠ 0 →
    s.wg? c.warp.wg = some x → e.fb 0 4 < x.qcount → e.fb 5 1 = 1 → (c.rd e.b c.first).toNat < 4 →
    s.peerWg c.warp (c.rd e.b c.first).toNat = some n → c.full .Q = false → c.pushRelease (c.begin s) 2 = (s1, none) →
    ∃ t, exec (.qpush e) s = .next t ∧
      Left c s (counted c s1 (some .Q) (if e.fb 4 1 = 1 then c.dsts e.d c.lanes 1 else [])
        (.push (c.rd e.b c.first).toNat (e.fb 0 4) c.handles (decide (e.fb 4 1 = 1)) false)) t) ∧
  (∀ (s : State) (e : Enc) (c : Issue) (x : Workgroup), s.ready? formQpop e = some c → c.em ≠ 0 → s.wg? c.warp.wg = some x →
    e.fb 0 4 < x.qcount →
    ((x.queue (e.fb 0 4)).bound = true → x.queueFault (e.fb 0 4) (x.header (e.fb 0 4)).head c.lanes.length c.em = none) →
    let takes : Prop := (x.queue (e.fb 0 4)).bound = true ∧ c.lanes.length ≤ (x.header (e.fb 0 4)).count ∧ (x.queue (e.fb 0 4)).poppers = []
    (∀ s1, takes → (c.begin s).acquireAt c.warp.core (x.peekQueue (e.fb 0 4) c.lanes.length).2 = (s1, true) →
      ∃ t, exec (.qpop e) s = .next t ∧
        Left c s (counted c (s1.takeQueue c.warp.wg (e.fb 0 4) c.lanes.length) none (c.dsts e.d c.lanes (1 + e.fb 4 1))
          (.words (popWords c.lanes (x.peekQueue (e.fb 0 4) c.lanes.length).1))) t) ∧
    (¬ takes → e.fb 4 1 = 1 → ∃ t, exec (.qpop e) s = .next t ∧ Quiet c s t ∧
      Left c s (counted c (c.begin s) none ((c.dsts e.d c.lanes 2).filter fun d => d.word = 1) (.words (c.lanes.map fun i => (i, [0, 0], 0)))) t) ∧
    (¬ takes → e.fb 4 1 = 0 → ∃ t, exec (.qpop e) s = .next t ∧
      Waits c s (counted c ((c.begin s).modQueue c.warp.wg (e.fb 0 4) fun q => { q with poppers := q.poppers ++ [(c.w, c.k)] }) none
          (c.dsts e.d c.lanes 1) .slot) t
        (.pop (e.fb 0 4) c.lanes (c.begin s).nextId c.waitAt)))

/-- A queue is first in, first out (08 R198, R199): handles appended with room for them follow those held, in order; taking entries leaves the
rest; neither moves CAP, SCOPE or a byte outside the header and the ring. -/
def Obligations.QueueOrder : Prop :=
  ∀ (s : State) (g : Nat) (x : Workgroup) (q sc : Nat) (vals : List Word), s.wg? g = some x → (x.header q).sound = true →
    vals.length ≤ (x.header q).cap - (x.header q).count →
    (∃ x', (s.append g q sc vals).wg? g = some x' ∧ (x'.header q).head = (x.header q).head ∧
      (x'.header q).tail = ((x.header q).tail + vals.length) % 2 ^ 32 ∧ (x'.header q).cap = (x.header q).cap ∧
      (x'.header q).scope = (x.header q).scope ∧
      ((x.header q).head + (x.header q).count + vals.length ≤ 2 ^ 32 ∨ 2 ^ 32 % (x.header q).cap = 0 →
        ∀ n, n ≤ (x.header q).count →
          (x'.peekQueue q (n + vals.length)).1.take n = (x.peekQueue q n).1 ∧
          (x'.peekQueue q ((x.header q).count + vals.length)).1.drop (x.header q).count = vals.map fun v => (v, 0)) ∧
      ∀ a, a < (x.queue q).header ∨ (x.queue q).header + 32 + 4 * (x.header q).cap ≤ a → x'.sp.read a = x.sp.read a) ∧
    (∀ n, n ≤ (x.header q).count →
      ∃ x', (s.takeQueue g q n).wg? g = some x' ∧ (x'.header q).head = ((x.header q).head + n) % 2 ^ 32 ∧
        (x'.header q).tail = (x.header q).tail ∧ (x'.header q).count = (x.header q).count - n)

/-- How an atomic below global or flat addressing has been admitted: the state after it, the scope of its place, its lanes and tokens
(11 R249, R253, 19 R420). -/
def AtomAdmits (c : Issue) (s : State) (aop : Nat) (red : Bool) (s1 : State) (scope : Nat) (lanes : List LaneAddr) (toks : List Nat) : Prop :=
  c.em ≠ 0 ∧ c.e.fb 5 1 = 0 ∧
  (c.warp.walker = true ∧ c.e.fb 18 1 = 1 ∧
      s.walkerCheck c.warp.core false (c.lanes.map fun i => (i, c.rd64 c.e.a i)) (typeBytes (c.e.fb 0 4)) true = .inl none ∧
      (∀ i ∈ c.lanes, s.isPeer (c.rd64 c.e.a i).toNat = true → peerTakes aop (c.e.fb 0 4) red = true) ∧
      s1 = noted c s (c.lanes.map fun i => (i, c.rd64 c.e.a i)) ∧ scope = max 3 (c.e.fb 6 3) ∧ toks = s.walkerRegions (c.lanes.map fun i => (i, c.rd64 c.e.a i)) ∧
      lanes = (c.lanes.map fun i => (i, c.rd64 c.e.a i)).map (fun p => { lane := p.1, va := p.2, pa := p.2.toNat }) ∨
   c.warp.walker = false ∧ scope = c.e.fb 6 3 ∧
      (let k : Access := { size := typeBytes (c.e.fb 0 4), write := true, noView := true, noPeer := !peerTakes aop (c.e.fb 0 4) red }
       (c.e.fb 18 1 = 1 ∧ s.admission c k (flatReqs (c.lanes.map fun i => (i, c.rd64 c.e.a i))) = (s1, .ok lanes toks) ∨
        c.e.fb 18 1 ≠ 1 ∧ (s.useBase c.w (c.e.fb 15 3)).1.admission c k
          (baseReqs (s.useBase c.w (c.e.fb 15 3)).2 (typeBytes (c.e.fb 0 4)) (c.lanes.map fun i => (i, (c.rd c.e.a i).toInt))) =
            (s1, .ok lanes toks))))

/-- ATOM, ATOMC and RED (11 R246 to R253). On global memory, admitted, released where they release and their task pinned where it must be,
they are counted (ATOM and ATOMC on G, RED on S) after the column has given up its copies at cluster scope or wider. On the scratchpad they
are counted likewise, and each ATOMIC_ACT applies the lanes of one line in ascending order (11 R247); the scratchpad bytes beyond those
lanes' data stay. -/
def Obligations.AtomicsIssue : Prop :=
  let forms : List ((Enc → Instr) × Form × (Enc → Nat) × Path) :=
    [(.atom, formAtom, fun e => e.fb 11 4, .G), (.atomc, formAtomc, fun _ => 9, .G), (.red, formRed, fun e => e.fb 11 4, .S)]
  (∀ (mk : Enc → Instr) (f : Form) (aop : Enc → Nat) (path : Path), (mk, f, aop, path) ∈ forms →
    ∀ (s : State) (e : Enc) (c : Issue) (s1 s2 s3 s4 : State) (scope : Nat) (lanes : List LaneAddr) (toks : List Nat), s.ready? f e = some c →
      AtomAdmits c (c.begin s) (aop e) (path = .S) s1 scope lanes toks → c.full path = false →
      Released c s1 s2 (e.fb 9 2 / 2 % 2 = 1) (e.fb 6 3) →
      (2 ≤ scope → Pinned c s2 s3) → (scope < 2 → WritesFrom c s2 s3 (lanes.map fun l => (l.va.toNat, typeBytes (e.fb 0 4)))) →
      s3.yieldLines c.warp.core scope ((lanes.map fun l => l.pa / 128).foldl setAdd []) = (s4, true) →
      ∃ t, exec (mk e) s = .next t ∧ Left c s (counted c (s4.askTokens c.warp.core toks) (some path)
        (if path = .G then c.dsts e.d (lanes.map (·.lane)) (typeNames (e.fb 0 4)) else [])
        (.atomic lanes (e.fb 0 4) (aop e) (c.atomOperands (aop e = 9)).1 (c.atomOperands (aop e = 9)).2 scope
          (if e.fb 9 2 % 2 = 1 then e.fb 6 3 else 5) []) [] toks) t) ∧
  (∀ (mk : Enc → Instr) (f : Form) (aop : Enc → Nat) (path : Path), (mk, f, aop, path) ∈ forms →
    ∀ (s : State) (e : Enc) (c : Issue) (x : Workgroup) (s2 s3 : State), s.ready? f e = some c → c.em ≠ 0 → e.fb 5 1 = 1 →
      s.wg? c.warp.wg = some x → x.check (c.lanes.map fun i => (i, (c.rd e.a i).toNat)) (typeBytes (e.fb 0 4)) true = none →
      c.full path = false → Released c (c.begin s) s2 (e.fb 9 2 / 2 % 2 = 1) (e.fb 6 3) →
      (2 ≤ e.fb 6 3 → Pinned c s2 s3) → (e.fb 6 3 < 2 → s3 = s2) →
      let offs := c.lanes.map fun i => (i, (c.rd e.a i).toNat)
      let ops := c.atomOperands (aop e = 9)
      ∃ t, exec (mk e) s = .next t ∧
        Left c s (counted c s3 (some path) (if path = .G then c.dsts e.d c.lanes (typeNames (e.fb 0 4)) else [])
          (.atomLocal offs (e.fb 0 4) (aop e) ops.1 ops.2 (if e.fb 9 2 % 2 = 1 then e.fb 6 3 else 5))) t) ∧
  (∀ (g : Workgroup) (offs : List (Nat × Nat)) (ty aop : Nat) (b c : List (Nat × DWord)) (a : Nat), g.sp.wf = true →
    (∀ o ∈ offs, a < o.2 ∨ o.2 + typeBytes ty ≤ a) →
    (atomScratch g offs ty aop b c).1.sp.read a = g.sp.read a ∧ (a ∈ (atomScratch g offs ty aop b c).1.bad ↔ a ∈ g.bad)) ∧
  (∀ (s : State) (w op line : Nat) (x : Warp) (p : PendOp) (offs : List (Nat × Nat)) (ty aop : Nat) (b c : List (Nat × DWord)) (acq : Nat)
    (err : Bool) (g : Workgroup), s.warp? w = some x → x.op? op = some p → p.body = .atomLocal offs ty aop b c acq →
    s.wg? x.wg = some g →
    let now := offs.filter fun o => o.2 / 128 = line
    let later := offs.filter fun o => o.2 / 128 ≠ line
    now ≠ [] → s.scratchBehind x p.id p.mask (now.map fun o => (x.wg, o.2, typeBytes ty)) = false →
    ∃ t g', exec (.atomicAct w op ⟨line, err⟩) s = .next t ∧ t.wg? x.wg = some g' ∧ g'.sp = (atomScratch g now ty aop b c).1.sp ∧
      (later ≠ [] → t.mem = s.mem ∧ ∃ y q, t.warp? w = some y ∧ y.op? op = some q ∧ q.body = .atomLocal later ty aop b c acq))

/-- FENCE, AFENCE, TICKET, SERVED, ADVANCE, WAITMON and TOKPASS (11 R254 to R262) where nothing holds them back; SERVED and WAITMON
take the trap of 26 R502 where the value they read is poisoned. -/
def Obligations.FencesAndDispensers : Prop :=
  (∀ (s : State) (e : Enc) (c : Issue) (s1 s2 : State), s.ready? formFence e = some c → c.em ≠ 0 →
    Released c (c.begin s) s1 (e.fb 9 2 / 2 % 2 = 1) (e.fb 6 3) →
    (e.fb 9 2 / 2 % 2 = 1 → e.fb 5 1 = 1 → c.warp.pendingOn [.X] = false) →
    (e.fb 9 2 % 2 = 1 → c.warp.pendingOn [.G, .Q] = false ∧ s1.acquireAt c.warp.core (e.fb 6 3) = (s2, true)) →
    (e.fb 9 2 % 2 ≠ 1 → s2 = s1) →
    ∃ t, exec (.fence e) s = .next t ∧
      Left c s (if e.fb 9 2 % 2 = 1 ∧ e.fb 5 1 = 1 then s2.modCore c.warp.core fun x => { x with tex := [] } else s2) t) ∧
  (∀ (s : State) (e : Enc) (c : Issue) (s1 : State), s.ready? formAfence e = some c → c.em ≠ 0 → c.warp.undrained = false →
    (c.begin s).cleanColumn c.warp.core (fun _ => true) = (s1, true) →
    ∃ t, exec (.afence e) s = .next t ∧ Left c s ((s1.dropColLines c.warp.core fun _ _ => true).modCore c.warp.core fun x => { x with l1 := [] }) t ∧ (t.core c.warp.core).lines = [] ∧
      (t.core c.warp.core).l1 = []) ∧
  (let admits (c : Issue) (s : State) (write : Bool) (s1 : State) (l : LaneAddr) (ls : List LaneAddr) (toks : List Nat) : Prop :=
     c.em ≠ 0 ∧ c.warp.walker = false ∧
     s.admission c { size := 16, write, noView := true, noPeer := true, dispenser := true } (flatReqs [(0, c.rd64 c.e.a 0)]) =
       (s1, .ok (l :: ls) toks)
   (∀ (s : State) (e : Enc) (c : Issue) (s1 s2 s3 : State) (l : LaneAddr) (ls : List LaneAddr) (toks : List Nat), s.ready? formTicket e = some c →
     admits c (c.begin s) true s1 l ls toks → c.full .G = false → Pinned c s1 s2 →
     s2.yieldLines c.warp.core (e.fb 6 3) [l.pa / 128] = (s3, true) →
     ∃ t, exec (.ticket e) s = .next t ∧
       Left c s (counted c (s3.askTokens c.warp.core toks) (some .G) (c.dsts e.d [0] 2) (.ticket l.pa (e.fb 6 3)) [] toks) t) ∧
   (∀ (s : State) (e : Enc) (c : Issue) (s1 s2 s3 s4 : State) (l : LaneAddr) (ls : List LaneAddr) (toks : List Nat),
     s.ready? formAdvance e = some c → admits c (c.begin s) true s1 l ls toks → c.full .S = false → Released c s1 s2 True (e.fb 6 3) →
     Pinned c s2 s3 → s3.yieldLines c.warp.core (e.fb 6 3) [l.pa / 128] = (s4, true) →
     ∃ t, exec (.advance e) s = .next t ∧
       Left c s (counted c (s4.askTokens c.warp.core toks) (some .S) [] (.advance l.pa (e.fb 6 3)) [] toks) t) ∧
   (∀ (s : State) (e : Enc) (c : Issue) (s1 s2 : State) (l : LaneAddr) (ls : List LaneAddr) (toks : List Nat) (v m : Nat),
     s.ready? formServed e = some c → admits c (c.clearLatches (c.begin s)) false s1 l ls toks →
     c.warp.crosses c.sp.mask [(locOf (l.pa + 8), 8)] = false →
     s1.ownRead c.warp.core none (e.fb 6 3) (l.pa + 8) 8 = (s2, some (v, m)) →
     (m ≠ 0 → exec (.served e) s = .next (c.trap s2 { cause := if m = 2 then 0x12 else 0x11, sub := if m = 2 then 0x05 else 0x01 })) ∧
     (m = 0 → servedBy (BitVec.ofNat 64 v) (c.rd64 e.b 0) = true → ∀ s3, s2.acquireAt c.warp.core (e.fb 6 3) = (s3, true) →
       ∃ t, exec (.served e) s = .next t ∧ Left c s s3 t fun sp => { sp with latches := c.sp.latches.clear }) ∧
     (m = 0 → servedBy (BitVec.ofNat 64 v) (c.rd64 e.b 0) = false →
       ∃ t, exec (.served e) s = .next t ∧ Waits c s s2 t (.served l.pa (e.fb 6 3) (c.rd64 e.b 0))))) ∧
  (∀ (s : State) (e : Enc) (c : Issue) (s1 s2 s3 : State) (l : LaneAddr) (ls : List LaneAddr) (toks : List Nat) (v m : Nat),
    s.ready? formWaitmon e = some c → c.em ≠ 0 → c.warp.walker = false →
    (c.clearLatches (c.begin s)).admission c { size := typeBytes (e.fb 0 4), write := false, noView := true, noPeer := true }
      (flatReqs [(0, c.rd64 e.a 0)]) = (s1, .ok (l :: ls) toks) →
    (externalMonitor l.pa (e.fb 6 3) = true → Pinned c s1 s2) → (externalMonitor l.pa (e.fb 6 3) = false → s2 = s1) →
    s2.lineHeld c.w c.warp.core [l.pa / 128] = false → c.warp.crosses c.sp.mask [(locOf l.pa, typeBytes (e.fb 0 4))] = false →
    s2.ownRead c.warp.core c.warp.task (e.fb 6 3) l.pa (typeBytes (e.fb 0 4)) = (s3, some (v, m)) →
    let b : DWord := BitVec.ofNat 64 (c.rdType e.b 0 (e.fb 0 4) (typeNames (e.fb 0 4)) % 2 ^ atomBits (e.fb 0 4))
    (m ≠ 0 → exec (.waitmon e) s = .next (c.trap s3 { cause := if m = 2 then 0x12 else 0x11, sub := if m = 2 then 0x05 else 0x01 })) ∧
    (m = 0 → monitorHolds (e.fb 11 3) (e.fb 0 4) v b.toNat = true → ∀ s4, s3.acquireAt c.warp.core (e.fb 6 3) = (s4, true) →
      ∃ t, exec (.waitmon e) s = .next t ∧
        Left c s (s4.modWarp c.w fun w => w.put (.g e.d.toNat) 0 1) t fun sp => { sp with latches := c.sp.latches.clear }) ∧
    (m = 0 → monitorHolds (e.fb 11 3) (e.fb 0 4) v b.toNat = false →
      ∃ t, exec (.waitmon e) s = .next t ∧
        Waits c s (counted c s3 none [{ lane := 0, word := 0, reg := .g e.d.toNat }] .slot) t
          (.monitor l.pa (e.fb 6 3) (e.fb 11 3) (e.fb 0 4) s3.nextId b
            (if e.fb 14 5 = 0 then none else some (s3.timer + 1000 * 2 ^ (e.fb 14 5 - 1))) c.waitAt))) ∧
  (∀ (s : State) (e : Enc) (c : Issue) (s1 s2 : State) (ls : List LaneAddr) (toks : List Nat), s.ready? formTokpass e = some c → c.em ≠ 0 →
    c.warp.walker = false →
    (c.begin s).admission c { size := 1, write := false, rows3 := true } (flatReqs [(0, c.rd64 e.a 0)]) = (s1, .ok ls toks) → Pinned c s1 s2 →
    let status (s3 t : State) (v : Word) : Prop := Left c s (s3.modWarp c.w fun w => w.put (.g e.d.toNat) 0 v) t
    let found := s2.regions.find? fun r => r.2.base.toNat ≤ (c.rd64 e.a 0).toNat && (c.rd64 e.a 0).toNat < r.2.base.toNat + 2 ^ r.2.k
    (found = none → ∃ t, exec (.tokpass e) s = .next t ∧ status s2 t 3) ∧
    (∀ n r, found = some (n, r) →
      (r.holder ≠ some c.warp.core → ∃ t, exec (.tokpass e) s = .next t ∧ status s2 t 2) ∧
      (∀ s3, r.holder = some c.warp.core → c.warp.pendingOn [.S] = false → s2.passToken n (s2.nextHolder r) = (s3, true) →
        ∃ t, exec (.tokpass e) s = .next t ∧ status s3 t (if (s3.nextHolder r).isSome then 0 else 1))))

/-! ### Engines and graphics -/

/-- An operation that its engine takes (12 R280): every run lies in the allocation, no granule of it is engine-owned, the queue has room and,
for MBYP, the slot is free or the warp's. -/
def EngineTakes (c : Issue) (s : State) (runs : List (Nat × Nat)) (claims : Bool) : Prop :=
  ∃ x, s.wg? c.warp.wg = some x ∧ (∀ r ∈ runs, r.1 + r.2 ≤ x.alloc ∧ x.owned r.1 r.2 = false) ∧
    (s.engine c.warp.engineKey).queue.length < 32 ∧
    (claims = true → ∀ b, (s.engine c.warp.engineKey).bypass = some b → b.holder = none ∨ b.holder = some c.w)

/-- The state in which the engine has taken an operation: its granules engine-owned, the operation last in the queue and in the open batch. -/
def engineTaken (c : Issue) (s : State) (runs : List (Nat × Nat)) (o : MatrixOp) : State :=
  let gs := (runs.flatMap fun r => granulesOf r.1 r.2).foldl setAdd []
  let s1 : State := s.flipEngine (gs.map fun g => (c.warp.wg, g))
  let s2 : State := (s1.modEngine c.warp.engineKey fun x => { x with queue := x.queue ++ [{ o with granules := gs }] }).bump
  s2.modWarp c.w fun w => { w with openOps := w.openOps ++ [o.id] }

/-- MMA and MMAS (12 R275, R282, R283): with operands whose shapes and types agree with the tile, the operation joins its engine's queue and
the open batch; A is a map, or for MMA the bypass slot the warp holds. -/
def Obligations.MatrixMultiplyIssues : Prop :=
  let full (c : Issue) : Prop := c.notFull = false ∧ c.em ≠ 0 ∧ c.e.fb 0 4 < c.warp.accs
  let fits (c : Issue) (b : MapDesc) (ra ka : Nat) (aScl aSparse sparse : Bool) (ta : Nat) : Prop :=
    shapeOk c.e (c.warp.kind (c.e.fb 0 4)) = true ∧ ra = (regionSize (c.e.fb 12 2)).1 ∧ b.rows = ka ∧ b.cols = (regionSize (c.e.fb 12 2)).2 ∧
      aSparse = sparse ∧ b.sparse = false ∧ typesOk (c.warp.kind (c.e.fb 0 4)) ta b.ty sparse = true ∧
      ((aScl = true ∨ b.scl = true) → ka % 32 = 0)
  let holds (c : Issue) (s : State) : Bool :=
    match (s.engine c.warp.engineKey).bypass with | some x => x.holder = some c.w | none => false
  (∀ (mk : Enc → Instr) (f : Form) (sparse : Bool), (mk, f, sparse) ∈ ([(.mma, formMma, false), (.mmas, formMmas, true)] :
      List ((Enc → Instr) × Form × Bool)) →
    ∀ (s : State) (e : Enc) (c : Issue) (a b : MapDesc), s.ready? f e = some c → full c → (sparse = false → e.fb 16 1 = 0) →
      Tab.get? c.warp.maps (e.fb 4 4) = some a → Tab.get? c.warp.maps (e.fb 8 4) = some b → fits c b a.rows a.cols a.scl a.sparse sparse a.ty →
      let runs := a.runs ((regionSize (e.fb 12 2)).1 * (a.cols / 32)) ++ b.runs ((regionSize (e.fb 12 2)).2 * (a.cols / 32))
      EngineTakes c (c.begin s) runs false →
      ∃ t, exec (mk e) s = .next t ∧ Left c s (engineTaken c (c.begin s) runs
        { c.matrixOp (c.begin s) (if sparse then 1 else 0) with mapA := some a, mapB := some b, ty := a.ty, releases := holds c s }) t) ∧
  (∀ (s : State) (e : Enc) (c : Issue) (x : Bypass) (b : MapDesc), s.ready? formMma e = some c → full c → e.fb 16 1 = 1 →
    (s.engine c.warp.engineKey).bypass = some x → x.holder = some c.w → Tab.get? c.warp.maps (e.fb 8 4) = some b →
    fits c b x.rows x.cols false false false x.ty →
    EngineTakes c (c.begin s) (b.runs ((regionSize (e.fb 12 2)).2 * (x.cols / 32))) false →
    ∃ t, exec (.mma e) s = .next t ∧ Left c s (engineTaken c (c.begin s) (b.runs ((regionSize (e.fb 12 2)).2 * (x.cols / 32)))
      { c.matrixOp (c.begin s) 0 with mapB := some b, bypass := true, ty := x.ty, releases := true }) t)

/-- MAP, MZERO, MLDA, MDRAIN, MBYP, MFENCE and MWAIT (12 R270, R278, R281, R284 to R288). MAP builds a map from its four g registers. MZERO and
MLDA give the tile its kind at issue; MBYP claims the slot. MFENCE closes the batch under the next number modulo 8; MWAIT goes on once none of
what it waits for is left, and else waits. -/
def Obligations.MatrixTilesAndBatches : Prop :=
  let full (c : Issue) : Prop := c.notFull = false ∧ c.em ≠ 0
  let acc (c : Issue) : Prop := full c ∧ c.e.fb 0 4 < c.warp.accs
  let kinds (c : Issue) (k : Nat) (s : State) : State := s.modWarp c.w fun w => { w with kinds := Tab.set w.kinds (c.e.fb 0 4) k }
  let region (c : Issue) (d : MapDesc) (kind : Nat) : Prop :=
    shapeOk c.e kind = true ∧ d.rows = (regionSize (c.e.fb 12 2)).1 ∧ d.cols = (regionSize (c.e.fb 12 2)).2 ∧ d.sparse = false ∧ d.scl = false
  (∀ (s : State) (e : Enc) (c : Issue), s.ready? formMap e = some c → full c →
    let g (k : Nat) : Word := c.warp.gReg (e.a.toNat + k)
    mapBad (g 0) (g 2) (g 3) (mapOf (g 0) (g 1) (g 2) (g 3)) = false →
    ∃ t y, exec (.map e) s = .next t ∧ OnlyWarp s t c.w ∧ Orders c c.warp y ∧ Goes c t y (c.after s) ∧
      y.rest = { c.now s with maps := Tab.set c.warp.maps (e.fb 0 4) (mapOf (g 0) (g 1) (g 2) (g 3)) }.rest) ∧
  (∀ (s : State) (e : Enc) (c : Issue), s.ready? formMzero e = some c → acc c → EngineTakes c (c.begin s) [] false →
    ∃ t, exec (.mzero e) s = .next t ∧ Left c s (kinds c (e.fb 4 2) (engineTaken c (c.begin s) []
      { c.matrixOp (c.begin s) 2 with shape := 0, mo := 0, no := 0, tileKind := e.fb 4 2 })) t) ∧
  (∀ (s : State) (e : Enc) (c : Issue) (d : MapDesc), s.ready? formMlda e = some c → acc c → Tab.get? c.warp.maps (e.fb 4 4) = some d →
    region c d (e.fb 16 2) → ((e.fb 16 2 = 0 ∧ d.ty ∈ [4, 5, 6]) ∨ (e.fb 16 2 = 1 ∧ d.ty = 0) ∨ (e.fb 16 2 = 2 ∧ d.ty = 7)) →
    EngineTakes c (c.begin s) (d.runs 0) false →
    ∃ t, exec (.mlda e) s = .next t ∧ Left c s (kinds c (e.fb 16 2) (engineTaken c (c.begin s) (d.runs 0)
      { c.matrixOp (c.begin s) 3 with mapA := some d, tileKind := e.fb 16 2, ty := d.ty })) t) ∧
  (∀ (s : State) (e : Enc) (c : Issue) (d : MapDesc), s.ready? formMdrain e = some c → acc c → Tab.get? c.warp.maps (e.fb 4 4) = some d →
    region c d (c.warp.kind (e.fb 0 4)) → d.ty ∈ drainTypes (c.warp.kind (e.fb 0 4)) → (c.warp.kind (e.fb 0 4) ≠ 0 → e.fb 17 2 = 0) →
    EngineTakes c (c.begin s) (d.runs 0) false →
    ∃ t, exec (.mdrain e) s = .next t ∧ Left c s (engineTaken c (c.begin s) (d.runs 0) { c.drainOp (c.begin s) 4 d.ty with mapA := some d }) t) ∧
  (∀ (s : State) (e : Enc) (c : Issue), s.ready? formMbyp e = some c → acc c → shapeOk e (c.warp.kind (e.fb 0 4)) = true →
    e.fb 4 4 ∈ bypTypes (c.warp.kind (e.fb 0 4)) → (c.warp.kind (e.fb 0 4) ≠ 0 → e.fb 17 2 = 0) → EngineTakes c (c.begin s) [] true →
    ∃ t, exec (.mbyp e) s = .next t ∧ Left c s
      ((engineTaken c (c.begin s) [] (c.drainOp (c.begin s) 5 (e.fb 4 4))).modEngine c.warp.engineKey fun x =>
        { x with bypass := some { holder := some c.w, ty := e.fb 4 4, rows := (regionSize (e.fb 12 2)).1,
                                  cols := (regionSize (e.fb 12 2)).2, data := match x.bypass with | some b => b.data | none => [] } }) t) ∧
  (∀ (s : State) (e : Enc) (c : Issue), s.ready? formMfence e = some c → full c → c.warp.closed.length < 8 →
    ∃ t y, exec (.mfence e) s = .next t ∧ OnlyWarp s t c.w ∧ Goes c t y (c.after s) ∧ y.bseq = c.warp.bseq + 1 ∧ y.openOps = [] ∧
      y.getReg (.g e.d.toNat) 0 = BitVec.ofNat 32 (c.warp.bseq % 8) ∧ (∀ n, n ≠ e.d.toNat → y.getReg (.g n) 0 = (c.now s).getReg (.g n) 0) ∧
      y.closed = (c.warp.closed ++ [(c.warp.bseq % 8, c.warp.openOps)]).filter fun b => b.2.any (s.opOpen c.warp)) ∧
  Completes .mwait formMwait (fun s c => full c ∧ c.warp.abandonedIn c.waitOps = none ∧ c.waitOps.any (s.opOpen c.warp) = false)
    (fun s c t => Moved s c t (c.after s)) ∧
  Completes .mwait formMwait (fun s c => full c ∧ c.warp.abandonedIn c.waitOps = none ∧ c.waitOps.any (s.opOpen c.warp) = true)
    (fun s c t => Waits c s (c.begin s) t (.matrix c.waitOps))

/-- The matrix instructions need every lane of the warp live in the split (12 R268): otherwise, whatever the predicate, illegal convergence,
cause 0x0A sub-cause 0x01. -/
def Obligations.MatrixNeedsFullWarp : Prop :=
  ∀ (i : Instr) (f : Form) (e : Enc), i.form? = some (f, e) →
    i ∈ ([.map e, .mma e, .mmas e, .mzero e, .mlda e, .mdrain e, .mbyp e, .mfence e, .mwait e] : List Instr) →
    ∀ s c, s.ready? f e = some c → (c.sp.mask ≠ BitVec.allOnes 32 ∨ c.sp.live ≠ BitVec.allOnes 32) →
      exec i s = .next (c.trap (c.begin s) { cause := 0x0A, sub := 0x01 })

/-- TLDT and TSTT that may reach their attachment (13 R298): the pass, its tile size, and the lanes' coordinates in range. -/
def TileReaches (c : Issue) (s : State) (write : Bool) (p : Pass) (ts : Nat) : Prop :=
  c.warp.stage.isTile = true ∧ c.em ≠ 0 ∧ (c.e.fb 5 1 = 1 → c.warp.stage = .rasterFragment) ∧
  (c.e.fb 0 4 < 8 ∨ c.e.fb 0 4 = 8 ∧ write = false ∧ c.e.fb 5 1 = 1) ∧
  ∃ n x g, c.taskOf s = some (n, x, g, p) ∧ ts = passTs g p ∧ (c.e.fb 0 4 ≠ 8 → c.e.fb 0 4 < p.natt) ∧
    ∀ q ∈ c.coords, coordBad ts p.samples q.2 = false

/-- TLDT, TSTT, ORDBEGIN, ORDEND, VOUT and EMIT (13 R298, R301, R302, R316, R317) where nothing holds them back. -/
def Obligations.TileInstructions : Prop :=
  let item (c : Issue) (o : Tab VertexOut) (i : Nat) : Tab VertexOut :=
    Tab.set o i (((Tab.get? o i).getD { pos := none, attrs := [], prim := 0 }).put (c.e.fb 0 2) (c.e.fb 2 5)
      (c.rdWords c.e.a i (if c.e.fb 0 2 = 2 then 1 else 4)))
  (∀ (s : State) (e : Enc) (c : Issue) (p : Pass) (ts : Nat), s.ready? (formTldtN (s.attWidth e)) e = some c → TileReaches c (c.begin s) false p ts →
    c.full .X = false →
    let n := if e.fb 0 4 = 8 then 4 else attNames (p.esize (e.fb 0 4))
    ∃ t, exec (.tldt e) s = .next t ∧ Quiet c s t ∧ Left c s (counted c (c.begin s) (some .X) (c.dsts e.d c.lanes n)
      (.tldt (e.fb 0 4) (c.coords.map fun q => (q.1, if e.fb 0 4 = 8 then 0 else wordOff p ts (e.fb 0 4) q.2)) n)) t) ∧
  (∀ (s : State) (e : Enc) (c : Issue) (p : Pass) (ts : Nat) (s1 : State), s.ready? (formTsttN (s.attWidth e)) e = some c → TileReaches c (c.begin s) true p ts →
    c.full .S = false → Pinned c (c.begin s) s1 →
    ∃ t, exec (.tstt e) s = .next t ∧ Left c s (counted c s1 (some .S) []
      (.tstt (e.fb 0 4) (c.coords.map fun q => (q.1, wordOff p ts (e.fb 0 4) q.2))
        (c.lanes.map fun i => (i, BitVec.ofNat 128 (natOfWords (c.rdWords e.b i (attNames (p.esize (e.fb 0 4)))))))
        (decide (e.fb 4 1 = 1)))) t) ∧
  (∀ (s : State) (e : Enc) (c : Issue), s.ready? formOrdbegin e = some c → c.warp.stage = .rasterFragment → c.em ≠ 0 →
    (∀ i ∈ lanesOf c.em, ∀ f, Tab.get? c.warp.frags i = some f → f.holds = false) →
    ((c.begin s).sectionsFree c.warp c.em = true →
      ∃ t, exec (.ordbegin e) s = .next t ∧ Left c s ((c.begin s).setSections c.w c.em true) t) ∧
    ((c.begin s).sectionsFree c.warp c.em = false →
      ∃ t y, exec (.ordbegin e) s = .next t ∧ OnlyWarp s t c.w ∧ t.warp? c.w = some y ∧ y.rest = (c.now s).rest ∧ y.pend = c.warp.pend ∧
        y.stack = c.warp.stack ∧ y.split? c.k = some { c.issued s with wait := .ordered c.em, age := c.sp.age } ∧
        ∀ q, q ≠ c.k → y.split? q = c.warp.split? q)) ∧
  (∀ (s : State) (e : Enc) (c : Issue) (s1 : State), s.ready? formOrdend e = some c → c.warp.stage = .rasterFragment → c.em ≠ 0 →
    Released c (c.begin s) s1 True 1 →
    ∃ t, exec (.ordend e) s = .next t ∧ Left c s (s1.setSections c.w c.em false) t) ∧
  (∀ (s : State) (e : Enc) (c : Issue), s.ready? formVout e = some c → c.warp.stage = .rasterVertex → c.warp.voutDone = false → c.em ≠ 0 →
    c.full .S = false →
    ∃ t, exec (.vout e) s = .next t ∧ Left c s
      (if e.fb 0 2 = 3 then (counted c (c.begin s) (some .S) [] .vout).handVout c.w
       else (counted c (c.begin s) (some .S) [] .vout).modWarp c.w fun w => { w with vout := c.lanes.foldl (item c) w.vout }) t) ∧
  (∀ (s : State) (e : Enc) (c : Issue) (s1 : State) (n : Nat) (k : Task) (g : Graph) (p : Pass) (ring : Nat) (x : Workgroup),
    s.ready? formEmit e = some c → c.warp.stage ≠ .compute → c.em ≠ 0 → c.taskOf (c.begin s) = some (n, k, g, p) →
    c.emitRing g p = some ring → s.wg? c.warp.wg = some x →
    (∀ i ∈ c.lanes, (c.rd e.a i).toNat + 16 * (e.fb 0 2 + 1) ≤ x.alloc ∧ (c.rd e.a i).toNat % 16 = 0 ∧
      x.owned (c.rd e.a i).toNat (16 * (e.fb 0 2 + 1)) = false) →
    (e.fb 5 1 = 1 → c.warp.recDepth ≠ p.maxdepth) → c.full .S = false → Pinned c (c.begin s) s1 →
    let recs := c.lanes.map fun i => BitVec.ofNat 512 (x.sp.readNat (c.rd e.a i).toNat (16 * (e.fb 0 2 + 1)))
    let depth := if e.fb 5 1 = 1 then c.warp.recDepth + 1 else 0
    (s1.ringTakes k.graph ring recs.length = true →
      ∃ t, exec (.emit e) s = .next t ∧
        Left c s (counted c (s1.appendRecs k.graph ring recs depth) (some .S) [] (.emit k.graph ring [] depth)) t) ∧
    (s1.ringTakes k.graph ring recs.length = false →
      exec (.emit e) s = .next ((counted c s1 (some .S) [] (.emit k.graph ring recs depth)).modWarp c.w fun w =>
        w.modSplit c.k fun sp => { sp with wait := .ring s1.nextId c.waitAt, age := c.sp.age })))

/-- SAMPLE, SAMPLEG, TFETCH, ISTORE and TRACE (13 R308, R309, R315): counted on X, S or T with the operands their registers hold at issue; no
register and, but for a pinned task of ISTORE or TRACE, no byte of memory changes at issue. -/
def Obligations.TextureAndTraceIssue : Prop :=
  let reads (mk : Enc → Instr) (f : Form) (body : Issue → OpBody) : Prop :=
    ∀ (s : State) (e : Enc) (c : Issue), s.ready? f e = some c → c.warp.walker = false → c.em ≠ 0 → c.full .X = false →
      ∃ t, exec (mk e) s = .next t ∧ Quiet c s t ∧ Left c s (counted c (c.begin s) (some .X) (c.dsts e.d c.lanes 4) (body c)) t
  let words (c : Issue) (spec : BitVec 9) (n : Nat) : List (Nat × List Word) := c.lanes.map fun i => (i, c.rdWords spec i n)
  let one (c : Issue) (spec : BitVec 9) : List (Nat × Word) := c.lanes.map fun i => (i, c.rd spec i)
  reads .sample formSample (fun c => .sample c.lanes (words c c.e.a 4) (one c c.e.b) c.e.f.toNat false (c.warp.tbase (c.e.fb 0 3)).vbase
    (c.warp.tbase (c.e.fb 3 3)).vbase c.em) ∧
  reads .sampleg formSampleg (fun c => .sample c.lanes (words c c.e.a 8) (one c c.e.b) c.e.f.toNat true (c.warp.tbase (c.e.fb 0 3)).vbase
    (c.warp.tbase (c.e.fb 3 3)).vbase c.em) ∧
  reads .tfetch formTfetch (fun c => .tfetch c.lanes (words c c.e.a 4) (one c c.e.b) (c.warp.tbase (c.e.fb 0 3)).vbase) ∧
  (∀ (s : State) (e : Enc) (c : Issue) (s1 : State), s.ready? formIstore e = some c → c.warp.walker = false → c.em ≠ 0 → c.full .S = false →
    let runs := (c.begin s).storeRuns c.warp c.lanes (words c e.a 4) (one c e.d) (c.warp.tbase (e.fb 0 3)).vbase
    WritesFrom c (c.begin s) s1 (runs.map fun r => (r.2.1.toNat, r.2.2)) →
    ∃ t, exec (.istore e) s = .next t ∧ (s1 = c.begin s → Quiet c s t) ∧ Left c s (counted c s1 (some .S) []
      (.istore c.lanes (words c e.a 4) (words c e.b 4) (one c e.d) (c.warp.tbase (e.fb 0 3)).vbase
        (runs.map fun r => (virtLoc c.warp.ctx r.2.1, r.2.2)))) t) ∧
  (let ray (c : Issue) (rec : List (Nat × DWord)) : OpBody :=
     .trace c.lanes (words c c.e.a 8) (c.lanes.map fun i => (i, c.rd64 c.e.b i)) (one c c.e.c) rec (c.e.k.toNat % 65536) c.e.f.toNat
   (∀ (s : State) (e : Enc) (c : Issue) (s1 s2 : State) (ls : List LaneAddr) (toks : List Nat), s.ready? formTrace e = some c →
     c.warp.walker = false → c.em ≠ 0 → e.fb 0 1 = 1 → (∀ i ∈ c.lanes, (c.rd64 e.d i).toNat % 32 = 0) → c.full .T = false →
     (c.begin s).admission c { size := 32, write := true, store := true } (flatReqs (c.lanes.map fun i => (i, c.rd64 e.d i))) =
       (s1, .ok ls toks) → Pinned c s1 s2 →
     ∃ t, exec (.trace e) s = .next t ∧ Left c s (counted c s2 (some .T) [] (ray c (c.lanes.map fun i => (i, c.rd64 e.d i)))) t) ∧
   (∀ (s : State) (e : Enc) (c : Issue) (x : Workgroup), s.ready? formTrace e = some c → c.warp.walker = false → c.em ≠ 0 → e.fb 0 1 ≠ 1 →
     s.wg? c.warp.wg = some x →
     (∀ i ∈ c.lanes, (c.rd e.d i).toNat % 32 = 0 ∧ (c.rd e.d i).toNat + 32 ≤ x.alloc ∧ x.owned (c.rd e.d i).toNat 32 = false) →
     c.full .T = false →
     let gs := (c.lanes.flatMap fun i => (granulesOf (c.rd e.d i).toNat 32).map fun q => (c.warp.wg, q)).eraseDups
     ∃ t, exec (.trace e) s = .next t ∧ t.mem = s.mem ∧ Left c s (counted c ((c.begin s).flipEngine gs) (some .T) []
       (ray c (c.lanes.map fun i => (i, BitVec.ofNat 64 (c.rd e.d i).toNat))) gs) t))

/-! ### System instructions -/

/-- The instruction leaves with words put into its destination, from s1. -/
def Answers (c : Issue) (s s1 t : State) (vs : List Nat) : Prop :=
  Left c s (s1.modWarp c.w fun w => c.putWords w c.e.d.toNat 0 (vs.map (BitVec.ofNat 32))) t

/-- RDSYS, WRSYS, TIME and BBMARK (14 R324, R332 to R334, 19 R422). RDSYS puts the register's word into D; WRSYS writes it under its access
code: FPSTAT and FPTRAP keep 5 bits, USAVE bits [31:10], of SINFO only REEXEC changes, and registers that cannot be written do not. -/
def Obligations.SystemRegisters : Prop :=
  Completes .rdsys formRdsys (fun _ c => c.e.fb 12 1 = 0) (fun s c t => ∃ y, OnlyWarp s t c.w ∧ Goes c t y (c.after s) ∧ Orders c c.warp y ∧
    Wrote c s y (c.lanes.map fun i => (i, [c.sysReg s (c.e.fb 0 12) i])) ∧ y.fpstat = c.warp.fpstat ∧ y.bare = c.warp.bare) ∧
  Completes .rdsys formRdsys (fun _ c => c.e.fb 12 1 = 1 ∧ c.sp.level = 1) (fun s c t => ∃ y, OnlyWarp s t c.w ∧ Goes c t y (c.after s) ∧ Orders c c.warp y ∧
    Wrote c s y (c.lanes.map fun i => (i, [c.readDest s (c.e.fb 13 2) i])) ∧ y.fpstat = c.warp.fpstat ∧ y.bare = c.warp.bare) ∧
  (∀ (c : Issue) (s : State) (i : Nat), c.sysReg s 0x000 i = c.sp.user.tcause ∧ c.sysReg s 0x005 i = c.sp.user.tmask ∧
    c.sysReg s 0x009 i = c.warp.fpstat ∧ c.sysReg s 0x00A i = c.warp.fptrap ∧ c.sysReg s 0x021 i = BitVec.ofNat 32 c.warp.core ∧
    c.sysReg s 0x024 i = BitVec.ofNat 32 c.warp.ctx ∧ c.sysReg s 0x030 i = BitVec.ofNat 32 (c.warp.counter .G) ∧
    c.sysReg s 0x100 i = c.sp.sup.scause ∧ c.sysReg s 0x105 i = c.sp.sup.smask ∧ c.sysReg s 0x10A i = c.sp.sup.sinfo ∧
    c.sysReg s 0x112 i = BitVec.ofNat 32 (s.winNat (0xA00 + 32 * c.warp.ctx + 24) 4) ∧ c.sysReg s 0x120 i = c.warp.callspill) ∧
  (let writes (n : Nat) (f : Issue → Warp → Word → Warp) : Prop :=
     Completes .wrsys formWrsys (fun _ c => c.em ≠ 0 ∧ c.e.fb 12 1 = 0 ∧ c.e.fb 0 12 = n) (fun s c t => ∃ y, OnlyWarp s t c.w ∧
       y.rest = (f c (c.now s) (c.rd c.e.a c.first)).rest ∧ Orders c c.warp y ∧ Goes c t y (c.after s))
   writes 0x009 (fun _ w v => { w with fpstat := v &&& 0x1F }) ∧ writes 0x00A (fun _ w v => { w with fptrap := v &&& 0x1F }) ∧
   writes 0x00B (fun _ w v => { w with utvec := w.utvec.extractLsb' 32 32 ++ v }) ∧
   writes 0x00C (fun _ w v => { w with utvec := v ++ w.utvec.extractLsb' 0 32 }) ∧
   writes 0x00D (fun _ w v => { w with usave := v &&& 0xFFFFFC00 }) ∧ writes 0x10D (fun _ w v => { w with ssave := v &&& 0xFFFFFC00 }) ∧
   writes 0x120 (fun _ w v => { w with callspill := v &&& 0xFF9FFF00 }) ∧
   ∀ n ∈ [0x006, 0x007, 0x008, 0x020, 0x021, 0x022, 0x023, 0x024, 0x025, 0x030, 0x031, 0x032, 0x033, 0x034, 0x035, 0x106, 0x107],
     writes n (fun _ w _ => w)) ∧
  (∀ (s : State) (e : Enc) (c : Issue), s.ready? formWrsys e = some c → c.em ≠ 0 → e.fb 12 1 = 0 →
    exec (.wrsys e) s = .next (c.leave (c.writeReg (c.begin s) (e.fb 0 12) (c.rd e.a c.first)))) ∧
  Completes .wrsys formWrsys (fun _ c => c.em ≠ 0 ∧ c.e.fb 12 1 = 0 ∧ c.e.fb 0 12 = 0x10A) (fun s c t => Moved s c t
    (let f : SupFrame := { c.sp.sup with sinfo := (c.sp.sup.sinfo &&& 0xBFFFFFFF) ||| (c.rd c.e.a c.first &&& 0x40000000) }
     { c.after s with sup := f })) ∧
  Completes .wrsys formWrsys (fun _ c => c.em ≠ 0 ∧ c.e.fb 12 1 = 1 ∧ c.sp.level = 1)
    (fun s c t => ∃ y, OnlyWarp s t c.w ∧ t.warp? c.w = some y ∧
      Orders c c.warp y ∧
      y.rest = (c.writeDest (c.now s) (c.e.fb 13 2) ((lanesOf c.em).map fun i => (i, c.rd c.e.a i))).rest) ∧
  Completes .time formTime (fun _ c => c.em ≠ 0) (fun s c t => ∃ y, OnlyWarp s t c.w ∧ Goes c t y (c.after s) ∧ Orders c c.warp y ∧
    Wrote c s y [(0, [BitVec.ofNat 32 s.timer, BitVec.ofNat 32 (s.timer / 2 ^ 32)])] ∧ y.fpstat = c.warp.fpstat ∧ y.bare = c.warp.bare) ∧
  Completes .bbmark formBbmark (fun _ c => c.em ≠ 0) (fun s c t =>
    let d := dieOf c.warp.core
    t.mem = s.mem ∧ (t.die d).written = ((s.die d).written + 1) % 2 ^ 64 ∧
      Tab.get? (t.die d).flow ((s.die d).written % 4096) = some
        { time := s.timer % 2 ^ 48, event := 0xF00 + c.e.fb 0 8, source := c.warp.core, ctx := c.warp.ctx,
          data := BitVec.ofNat 128 (if c.e.a = 0x10F then 0 else natOfWords (c.rdWords c.e.a 0 4)) } ∧
      (∀ q, q ≠ c.w → t.warp? q = s.warp? q) ∧ ∃ y, y.rest = (c.now s).rest ∧ Orders c c.warp y ∧ Goes c t y (c.after s))

/-- TLBFILL, TLBINV, DHARV and WALKPOP (19 R431 to R433). TLBFILL that installs a page puts it into its die's L2 TLB and answers 0; with a
leaf that is not valid it answers 1. TLBINV removes every translation in its scope and goes on once the context's earlier accesses
are performed; DHARV harvests and keeps them. WALKPOP claims the oldest miss of the walker's context. -/
def Obligations.TranslationInstructions : Prop :=
  let va (c : Issue) : DWord := c.warp.gPair c.e.a.toNat
  let leaf (c : Issue) : DWord := c.warp.gPair (c.e.a.toNat + 2)
  let ptepa (c : Issue) : Nat := (c.warp.gPair (c.e.a.toNat + 4)).toNat
  Completes .tlbfill formTlbfill
    (fun s c => c.em ≠ 0 ∧ c.e.fb 8 1 = 0 ∧ c.e.fb 9 2 = 0 ∧ pteBit (leaf c) 0 = true ∧ leafOk (leaf c) (c.e.fb 0 2) = true ∧
      (∀ n, placeOf (pteFrame (leaf c)) = .stack n → s.inHandover n = false) ∧ ¬ (pteBit (leaf c) 9 = true ∧ pteFrame (leaf c) = 0))
    (fun s c t => Answers c s ((c.begin s).install (dieOf c.warp.core) c.warp.ctx (va c) (c.e.fb 0 2) (leaf c) (ptepa c) none) t [0] ∧
      ∃ p ∈ (t.die (dieOf c.warp.core)).l2, p.ctx = c.warp.ctx ∧ p.leaf = leaf c ∧ p.size = c.e.fb 0 2 ∧ p.ptepa = ptepa c ∧ p.a = false ∧
        p.d = false ∧ p.vpn = (va c).toNat / sizeBytes (c.e.fb 0 2) * (sizeBytes (c.e.fb 0 2) / 4096)) ∧
  Completes .tlbfill formTlbfill (fun _ c => c.em ≠ 0 ∧ c.e.fb 8 1 = 0 ∧ pteBit (leaf c) 0 = false)
    (fun s c t => Answers c s (c.begin s) t [1]) ∧
  (∀ (s : State) (e : Enc) (c : Issue) (s1 : State) (n : Nat), s.ready? formTlbfill e = some c → c.em ≠ 0 →
    c.fillGo (c.begin s) = (s1, .status n) → ∃ t, exec (.tlbfill e) s = .next t ∧ Answers c s s1 t [n]) ∧
  Completes .tlbinv formTlbinv
    (fun s c => c.em ≠ 0 ∧ (∀ n, c.sp.wait ≠ .stall (.tlb n)) ∧
      ((((c.begin s).removeTlb fun t => t.inScope c.warp.ctx c.invScope).staleMisses fun m =>
        m.ctx = c.warp.ctx && pageInScope m.page c.invScope)).accessesDone c.warp.ctx
        ((((c.begin s).removeTlb fun t => t.inScope c.warp.ctx c.invScope).staleMisses fun m =>
          m.ctx = c.warp.ctx && pageInScope m.page c.invScope)).nextId = true)
    (fun s c t => Left c s (((c.begin s).removeTlb fun t => t.inScope c.warp.ctx c.invScope).staleMisses fun m =>
        m.ctx = c.warp.ctx && pageInScope m.page c.invScope) t ∧
      (∀ d, ∀ p ∈ (t.die d).l2, p.inScope c.warp.ctx c.invScope = false) ∧
      (∀ k, ∀ p ∈ (t.core k).l1 ++ (t.core k).itlb, p.inScope c.warp.ctx c.invScope = false)) ∧
  Completes .dharv formDharv (fun _ c => c.em ≠ 0) (fun s c t =>
    Left c s ((c.begin s).harvestAll fun t => t.inScope c.warp.ctx c.invScope) t ∧
      (∀ d, ∀ p ∈ (t.die d).l2, p.inScope c.warp.ctx c.invScope = true → p.a = false ∧ p.d = false) ∧
      ∀ k, ∀ p ∈ (t.core k).l1 ++ (t.core k).itlb, p.inScope c.warp.ctx c.invScope = true → p.a = false ∧ p.d = false) ∧
  (∀ (s : State) (e : Enc) (c : Issue) (i : Nat) (m : Miss), s.ready? formWalkpop e = some c → c.em ≠ 0 → c.warp.walker = true →
    (s.die (dieOf c.warp.core)).oldestMiss (fun m => m.ctx = c.warp.ctx) = some (i, m) →
    let b (x : Bool) (k : Nat) : Nat := if x then 2 ^ k else 0
    let page : DWord := BitVec.ofNat 64 (m.page * 4096)
    let low : Word := page.extractLsb' 0 32 ||| BitVec.ofNat 32 (i + b m.fetch 6 + b m.write 7 + b m.hint 8 + b m.user 9)
    let core : Nat := match m.reqs with | r :: _ => r.core | [] => c.warp.core
    ∃ t, exec (.walkpop e) s = .next t ∧ Answers c s
      ((c.begin s).modDie (dieOf c.warp.core) fun d => { d with miss := Tab.modify d.miss i fun m => { m with claim := some c.w } }) t
      [low.toNat, (page.extractLsb' 32 32).toNat, core, 0])

/-- A word for HANDOVER's completion: none, or the place its B names, admitted for a store (20 R445). -/
def HandoverWord (c : Issue) (s s1 : State) (word : Option Nat) : Prop :=
  c.e.b = 0x10F ∧ s1 = s ∧ word = none ∨
  c.e.b ≠ 0x10F ∧ ∃ lanes toks, word = lanes.head?.map (fun l => physOf l.pa) ∧
    s.admission c { size := 8, write := true, store := true, noView := true } (flatReqs [(0, c.rd64 c.e.b 0)]) = (s1, .ok lanes toks)

/-- HANDOVER, TOKDEF and TOKDEF.del (20 R445, R451). HANDOVER answers 3 for a malformed operand or a failed stack, 0 for the present owner, 1
for another die's stack, 2 for a release to nobody while a page of the stack is mapped, and else begins the drain and answers 0. -/
def Obligations.OwnershipInstructions : Prop :=
  let a (c : Issue) : Nat := (c.rd c.e.a 0).toNat
  let n (c : Issue) : Nat := a c % 8
  let dest (c : Issue) : Nat := a c / 16 % 4
  let good (s : State) (c : Issue) : Prop :=
    c.em ≠ 0 ∧ a c / 64 = 0 ∧ a c / 8 % 2 = 0 ∧ dest c ≠ 3 ∧ (s.home (n c)).failed = false ∧ s.inHandover (n c) = false
  Completes .handover formHandover
    (fun s c => c.em ≠ 0 ∧ (a c / 64 ≠ 0 ∨ a c / 8 % 2 = 1 ∨ dest c = 3 ∨ (s.home (n c)).failed = true))
    (fun s c t => Answers c s (c.begin s) t [3]) ∧
  (∀ (s : State) (e : Enc) (c : Issue) (s1 : State) (word : Option Nat), s.ready? formHandover e = some c → good s c →
    HandoverWord c (c.begin s) s1 word →
    let o := (s.home (n c)).owner.owner
    (dest c = o → ∃ t, exec (.handover e) s = .next t ∧ Answers c s
      (match word with | some pa => s1.unitWrite (cellsOf pa 8 (s1.home (n c)).owner.word) (dieOf c.warp.core) | none => s1) t [0]) ∧
    (dest c ≠ o → o ≠ 2 → o ≠ dieOf c.warp.core → ∃ t, exec (.handover e) s = .next t ∧ Answers c s s1 t [1]) ∧
    (dest c ≠ o → (o = 2 ∨ o = dieOf c.warp.core) → dest c = 2 → s1.stackMapped (n c) = true →
      ∃ t, exec (.handover e) s = .next t ∧ Answers c s s1 t [2]) ∧
    (dest c ≠ o → (o = 2 ∨ o = dieOf c.warp.core) → (dest c = 2 → s1.stackMapped (n c) = false) →
      ∃ t, exec (.handover e) s = .next t ∧ Answers c s (s1.startHandover (n c) (dest c) word none) t [0] ∧
        (t.home (n c)).handover = some { step := 1, src := o, dst := dest c, word, pass := none, before := s1.nextId } ∧
        (t.home (n c)).owner.pend = true ∧ (t.home (n c)).owner.target = dest c ∧ (t.home (n c)).owner.owner = o)) ∧
  (∀ (s : State) (e : Enc) (c : Issue), s.ready? formTokdef e = some c → c.em ≠ 0 →
    (∀ s1 v, c.tokdefGo (c.begin s) (c.rd64 e.a 0) (c.rd e.b 0).toNat = (s1, some v) → ∃ t, exec (.tokdef e) s = .next t ∧ Answers c s s1 t [v]) ∧
    (∀ s1, c.tokdefGo (c.begin s) (c.rd64 e.a 0) (c.rd e.b 0).toNat = (s1, none) → exec (.tokdef e) s = .next (c.stall s1 .xlat)) ∧
    ((c.rd e.b 0).toNat < 12 ∨ 30 < (c.rd e.b 0).toNat ∨ (c.rd64 e.a 0).toNat % 2 ^ (c.rd e.b 0).toNat ≠ 0 →
      ∃ t, exec (.tokdef e) s = .next t ∧ Answers c s (c.begin s) t [4])) ∧
  (∀ (s : State) (e : Enc) (c : Issue), s.ready? formTokdefDel e = some c → c.em ≠ 0 →
    (s.regions.find? (fun r => r.2.base = c.rd64 e.a 0) = none → ∃ t, exec (.tokdefDel e) s = .next t ∧ Answers c s (c.begin s) t [3]) ∧
    (∀ k r s1, s.regions.find? (fun r => r.2.base = c.rd64 e.a 0) = some (k, r) → (∀ m, placeOf r.pbase = .stack m → s.inHandover m = false) →
      (c.begin s).passToken k none = (s1, true) →
      ∃ t, exec (.tokdefDel e) s = .next t ∧ Answers c s (s1.dropRegion k) t [0] ∧ Tab.get? t.regions k = none))

/-- CRDEF and its forms (21 R452, R465, R467). -/
def Obligations.ElectrumInstructions : Prop :=
  let words (c : Issue) : List Word := (List.range 8).map fun k => c.warp.gReg (c.e.a.toNat + k)
  let id (c : Issue) : Nat := (c.rd c.e.b 0).toNat
  Completes .crdef formCrdef (fun s c => c.em ≠ 0 ∧ s.crStatus (words c) = 0) (fun s c t =>
    Answers c s { c.begin s with electrum := Tab.set s.electrum (((words c).getD 6 0).toNat % 16) (regionOf (words c)) } t [0] ∧
      Tab.get? t.electrum (((words c).getD 6 0).toNat % 16) = some (regionOf (words c))) ∧
  Completes .crdef formCrdef (fun s c => c.em ≠ 0 ∧ s.crStatus (words c) ≠ 0)
    (fun s c t => Answers c s (c.begin s) t [s.crStatus (words c)] ∧ t.electrum = s.electrum) ∧
  (∀ (mk : Enc → Instr) (f : Form), (mk, f) ∈ ([(.crdefDel, formCrdefDel), (.crdefRd, formCrdefRd), (.crdefRdclr, formCrdefRdclr)] :
      List ((Enc → Instr) × Form)) →
    Completes mk f (fun _ c => c.em ≠ 0 ∧ 15 < id c) (fun s c t => Answers c s (c.begin s) t [3]) ∧
    Completes mk f (fun s c => c.em ≠ 0 ∧ id c ≤ 15 ∧ Tab.get? s.electrum (id c) = none) (fun s c t => Answers c s (c.begin s) t [1])) ∧
  (∀ (s : State) (e : Enc) (c : Issue) (r : ElRegion), s.ready? formCrdefRd e = some c → c.em ≠ 0 → id c ≤ 15 →
    Tab.get? s.electrum (id c) = some r →
    ∃ t, exec (.crdefRd e) s = .next t ∧ Answers c s (c.begin s) t
      [0, r.encodes.toNat % 2 ^ 32, r.encodes.toNat / 2 ^ 32, r.drift.toNat, r.errmax.toNat]) ∧
  (∀ (s : State) (e : Enc) (c : Issue) (r : ElRegion), s.ready? formCrdefRdclr e = some c → c.em ≠ 0 → id c ≤ 15 →
    Tab.get? s.electrum (id c) = some r →
    ∃ t, exec (.crdefRdclr e) s = .next t ∧ Answers c s
      { c.begin s with electrum := Tab.set s.electrum (id c) { r with encodes := 0, drift := 0, errmax := 0xFFFFFC01 } } t
      [0, r.encodes.toNat % 2 ^ 32, r.encodes.toNat / 2 ^ 32, r.drift.toNat, r.errmax.toNat]) ∧
  (∀ (s : State) (e : Enc) (c : Issue) (r : ElRegion), s.ready? formCrdefDel e = some c → c.em ≠ 0 → id c ≤ 15 →
    Tab.get? s.electrum (id c) = some r →
    (r.deleting = false → s.tlbEntries (fun p => pteBit p.leaf 56 && (p.leaf.toNat >>> 52) % 16 = id c) ≠ [] →
      ∃ t, exec (.crdefDel e) s = .next t ∧ Answers c s (c.begin s) t [4]) ∧
    (s.tlbEntries (fun p => pteBit p.leaf 56 && (p.leaf.toNat >>> 52) % 16 = id c) = [] →
      (∀ k, (s.core k).lines = []) → (∀ k, ∀ p ∈ s.clusters, p.1 = k → ∀ l ∈ p.2, inView (id c) l.1 = false) →
      ∃ t, exec (.crdefDel e) s = .next t ∧ Tab.get? t.electrum (id c) = none ∧ t.mem = s.mem ∧
        (∀ q, q ≠ c.w → t.warp? q = s.warp? q)))

/-- HALTW, RESUMEW, RDWARP, WRWARP and LAUNCH (16 R371, 19 R434, R435). -/
def Obligations.WarpControlInstructions : Prop :=
  let named (c : Issue) (s : State) : Option (Nat × Warp) := s.warpOf c.warp.wg (c.rd c.e.a 0).toNat
  (∀ (mk : Enc → Instr) (f : Form) (one : Bool), (mk, f, one) ∈ ([(.haltw, formHaltw, true), (.resumew, formResumew, false)] :
      List ((Enc → Instr) × Form × Bool)) →
    Completes mk f (fun s c => c.em ≠ 0 ∧ named c (c.begin s) = none) (fun s c t => Answers c s (c.begin s) t [2]) ∧
    (∀ (s : State) (e : Enc) (c : Issue) (k : Nat) (x : Warp), s.ready? f e = some c → c.em ≠ 0 → named c (c.begin s) = some (k, x) →
      (k = c.w → ∃ t, exec (mk e) s = .next t ∧ Answers c s (c.begin s) t [3]) ∧
      (k ≠ c.w → x.halted = one → ∃ t, exec (mk e) s = .next t ∧ Answers c s (c.begin s) t [1]))) ∧
  (∀ (s : State) (e : Enc) (c : Issue) (k : Nat) (x : Warp), s.ready? formHaltw e = some c → c.em ≠ 0 → named c (c.begin s) = some (k, x) →
    k ≠ c.w → x.halted = false → ((c.begin s).stopWarp k).drained k = true →
    let s1 := (((c.begin s).stopWarp k).withdrawPushes k).modWarp k fun y =>
      { y with halted := true, stopping := match Tab.get? s.gangs x.gang with | some g => g.victim | none => false }
    ∃ t y x', exec (.haltw e) s = .next t ∧ Answers c s s1 t [0] ∧ ((c.begin s).stopWarp k).warp? k = some x' ∧ t.warp? k = some y ∧
      y.halted = true ∧ y.v = (x'.interlock fun _ => true).v ∧ y.g = (x'.interlock fun _ => true).g ∧ (∀ p ∈ y.pend, p.done = false)) ∧
  (∀ (s : State) (e : Enc) (c : Issue) (k : Nat) (x : Warp), s.ready? formResumew e = some c → c.em ≠ 0 → named c (c.begin s) = some (k, x) →
    k ≠ c.w → x.halted = true →
    if c.warp.undrained then exec (.resumew e) s = .next (c.stall (c.begin s) .drain)
    else ∃ t, exec (.resumew e) s = .next t ∧ Answers c s ((c.begin s).modWarp k fun y => { y with halted := false }) t [0]) ∧
  (∀ (s : State) (e : Enc) (c : Issue) (k : Nat) (x : Warp), s.ready? formRdwarp e = some c → c.em ≠ 0 →
    c.haltedWarp (c.begin s) = some (k, x) →
    ∃ t y, exec (.rdwarp e) s = .next t ∧ OnlyWarp s t c.w ∧ Goes c t y (c.after s) ∧ Orders c c.warp y ∧
      Wrote c s y (c.lanes.map fun i => (i, [x.record s.free (wordOffset (c.rd e.b i))])) ∧ y.fpstat = c.warp.fpstat ∧ y.bare = c.warp.bare) ∧
  (∀ (s : State) (e : Enc) (c : Issue) (k : Nat) (x : Warp), s.ready? formWrwarp e = some c → c.em ≠ 0 →
    c.haltedWarp (c.begin s) = some (k, x) → k ≠ c.w →
    ∃ t y, exec (.wrwarp e) s = .next t ∧ y.rest = (c.now s).rest ∧ Orders c c.warp y ∧ Goes c t y (c.after s) ∧ t.warp? k = some (c.lanes.foldl (fun y i => y.putRecord (wordOffset (c.rd e.b i)) (c.rd e.d i)) x) ∧
      (∀ q, q ≠ c.w → q ≠ k → t.warp? q = s.warp? q) ∧ t.mem = s.mem) ∧
  (∀ (s : State) (e : Enc) (c : Issue) (s1 s2 s3 : State) (lanes : List LaneAddr) (toks : List Nat), s.ready? formLaunch e = some c → c.em ≠ 0 →
    (c.begin s).admission c { size := 64, write := false } (flatReqs [(0, c.rd64 e.a 0)]) = (s1, .ok lanes toks) → Pinned c s1 s2 →
    Released c s2 s3 True 3 →
    ((32 ≤ (c.rd e.b 0).toNat ∨ Tab.get? s3.slots (c.rd e.b 0).toNat = none) → ∃ t, exec (.launch e) s = .next t ∧ Answers c s s3 t [2]) ∧
    (∀ x, (c.rd e.b 0).toNat < 32 → Tab.get? s3.slots (c.rd e.b 0).toNat = some x →
      (x.enabled = false ∨ x.devappend = false ∨ x.ctx ≠ c.warp.ctx → ∃ t, exec (.launch e) s = .next t ∧ Answers c s s3 t [2]) ∧
      (∀ s4 v, x.enabled = true → x.devappend = true → x.ctx = c.warp.ctx →
        s3.frontReadAt ((lanes.head?.map (·.pa)).getD 0) 64 = (s4, .ok v) →
        (v % 256 < 2 ∨ 4 < v % 256 → ∃ t, exec (.launch e) s = .next t ∧ Answers c s s4 t [3]) ∧
        (∀ s5 st, 2 ≤ v % 256 → v % 256 ≤ 4 → s4.appendRecord (c.rd e.b 0).toNat x v = (s5, some st) →
          ∃ t, exec (.launch e) s = .next t ∧ Answers c s s5 t [st]))))

/-! ### Values in memory -/

/-- The integer operations of 11 R250 on the old value and b, signed for type i and unsigned for n; .inc and .dec; floating-point sums as
one rounding under rne without FTZ, and minima and maxima; ATOMC writes where the old value equals b, bit for bit; lanes apply one after
another, each to what those before it left. What is made of a poisoned value is poisoned; what an exchange or ATOMC writes is not. -/
def Obligations.AtomicValues : Prop :=
  (∀ ty old b, ty < 4 → old < 2 ^ atomBits ty → b < 2 ^ atomBits ty →
    let int (x : Nat) : Int := if ty % 2 = 0 then (BitVec.ofNat (atomBits ty) x).toInt else x
    atomBits ty = (if ty < 2 then 32 else 64) ∧ atomNew 0 ty old b = (old + b) % 2 ^ atomBits ty ∧
      int (atomNew 1 ty old b) = min (int old) (int b) ∧ int (atomNew 2 ty old b) = max (int old) (int b) ∧
      (∀ j, (atomNew 3 ty old b).testBit j = (old.testBit j && b.testBit j) ∧ (atomNew 4 ty old b).testBit j = (old.testBit j || b.testBit j) ∧
        (atomNew 5 ty old b).testBit j = (old.testBit j ^^ b.testBit j)) ∧
      atomNew 6 ty old b = b) ∧
  (∀ old b, atomNew 7 1 old b = (if b ≤ old then 0 else old + 1) ∧ atomNew 8 1 old b = if old = 0 ∨ b < old then b else old - 1) ∧
  (∀ p ∈ [(4, Fmt.f32), (7, Fmt.f64)], ∀ old b,
    let x := (p.2.value old).flush p.2 false
    let y := (p.2.value b).flush p.2 false
    atomNew 0 p.1 old b = (roundTo p.2 (rowAdd 0 [x, y]).1 0 false false).1 ∧
      atomNew 1 p.1 old b = (minMax p.2 false false old b).1 ∧ atomNew 2 p.1 old b = (minMax p.2 false true old b).1) ∧
  (∀ ty old b c, atomWrite 9 ty old b c = if old = b then some c else none) ∧
  (∀ aop ty old b c, aop ≠ 9 → atomWrite aop ty old b c = some (atomNew aop ty old b)) ∧
  (∀ g p q ty aop b c,
    let r := atomScratch g p ty aop b c
    let u := atomScratch r.1 q ty aop b c
    atomScratch g (p ++ q) ty aop b c = (u.1, r.2 ++ u.2)) ∧
  ∀ g i a ty aop b c,
    let n := typeBytes ty
    let g' := (atomScratch g [(i, a)] ty aop b c).1
    (atomScratch g [(i, a)] ty aop b c).2 = [(i, g.sp.readNat a n, g.mark a n)] ∧
      (∀ x, atomWrite aop ty (g.sp.readNat a n) (laneVal b i) (laneVal c i) = some x →
        g'.sp.readNat a n = x % 2 ^ (8 * n) ∧ g'.mark a n = if aop = 6 ∨ aop = 9 then 0 else g.mark a n) ∧
      (atomWrite aop ty (g.sp.readNat a n) (laneVal b i) (laneVal c i) = none → g' = g)

/-- Bytes of device memory through a column and at the home (09 R209, 10 R222, R233). A datum within one line that a core writes through its
column, where the line is present under the name by which it is reached, is what the core reads there next, and memory itself does not
change yet. The writeback of a dirty line puts its dirty bytes, and no others, into memory and leaves the line clean; bytes performed at the
home are in memory, and no others. Both of a line that no cluster unit holds, with hot-page sampling off; the line written back in no token
region whose token the core holds. -/
def Obligations.MemoryBytes : Prop :=
  let unsampled (s : State) : Prop := ∀ d, s.winNat (0xE00 + 16 * d + 12) 1 % 2 = 0
  let alone (s : State) (key : Nat) : Prop := (∀ cl, s.clusterLine cl key = none) ∧ ∀ c ∈ s.clusters, ∀ l ∈ c.2, s.sameLine l.1 key = false
  (∀ (s : State) (core name n v : Nat) (alloc : Bool) (l : Line), 0 < n → name % 128 + n ≤ 128 → physOf name < 2 ^ 37 →
    s.colLine core (name / 128) = some l →
    let t := s.writeCol core (cellsOf name n v) alloc
    t.mem = s.mem ∧ ∀ keep, ∃ m, (t.readCol core none name n keep).2 = some (v % 2 ^ (8 * n), m)) ∧
  (∀ (s : State) (core key : Nat) (l : Line), 128 * physKey key < 2 ^ 37 → s.colLine core key = some l → alone s key → unsampled s →
    s.heldToken core key = false →
    let t := s.writeback core key
    (∀ k, k < 128 → t.mem.read (128 * physKey key + k) = if l.dirty.getLsbD k then lineByte l.data k else s.mem.read (128 * physKey key + k)) ∧
      (∀ a, a / 128 ≠ physKey key → t.mem.read a = s.mem.read a) ∧ ∃ l', t.colLine core key = some l' ∧ l'.dirty = 0 ∧ l'.data = l.data) ∧
  ∀ (s : State) (name n v die : Nat), 0 < n → name % 128 + n ≤ 128 → physOf name < 2 ^ 37 → alone s (name / 128) → unsampled s →
    let t := s.writeHome (cellsOf name n v) die
    let pa := physOf name
    t.mem.readNat pa n = v % 2 ^ (8 * n) ∧ (∀ a, a < pa ∨ pa + n ≤ a → t.mem.read a = s.mem.read a) ∧ t.cores = s.cores ∧
      t.clusters = s.clusters ∧ t.warps = s.warps

/-! ### Results and completions -/

/-- An outstanding operation of a warp. -/
def Outstanding (s : State) (w op : Nat) (x : Warp) (p : PendOp) : Prop := s.warp? w = some x ∧ x.op? op = some p

/-- The words that an operation's results go to are apart, in lanes of the warp. -/
def Apart (p : PendOp) : Prop := (p.dsts.Pairwise fun a b => a.names b.reg b.lane = false) ∧ ∀ d ∈ p.dsts, d.lane < 32

/-- The results of some lanes (lane, words, poison) are in the registers that operation p names: each destination word of a lane with a
result holds its word and mark, every other register word is as it was. -/
def InRegs (p : PendOp) (vals : List (Nat × List Word × Nat)) (x y : Warp) : Prop :=
  (Apart p → ∀ d ∈ p.dsts, ∀ v, vals.find? (fun v => v.1 = d.lane) = some v →
    y.getReg d.reg d.lane = v.2.1.getD d.word 0 ∧ y.poison d.reg d.lane = v.2.2) ∧
  ∀ r lane, lane < 32 → (∀ d ∈ p.dsts, d.lane < 32 ∧ (d.names r lane = false ∨ vals.find? (fun v => v.1 = d.lane) = none)) →
    y.getReg r lane = x.getReg r lane ∧ y.poison r lane = x.poison r lane

/-- Operation p of the warp w has its results in its registers and is over: it is outstanding no longer, and no counter has risen. -/
def Landed (s1 : State) (w : Nat) (p : PendOp) (vals : List (Nat × List Word × Nat)) (t : State) : Prop :=
  ∀ x, s1.warp? w = some x → ∃ y, t.warp? w = some y ∧ y.op? p.id = none ∧ (∀ q, y.counter q ≤ x.counter q) ∧ InRegs p vals x y

/-- So from s1 on, in which the operation's effect is done, with its granules back at the lanes. -/
def Finished (s1 : State) (w : Nat) (p : PendOp) (vals : List (Nat × List Word × Nat)) (t : State) : Prop :=
  t = (s1.modWarp w fun y => y.applyResult p vals).completeOp w p ∧ Landed s1 w p vals t

/-- Part of operation p of the warp w is done from s1 on: its results are in their registers, and the operation, still outstanding, has what
is left to do. -/
def Advanced (s1 : State) (w : Nat) (p : PendOp) (vals : List (Nat × List Word × Nat)) (left : OpBody → OpBody) (t : State) : Prop :=
  t = s1.modWarp w (fun y => (y.applyResult p vals).modOp p.id fun q => { q with body := left q.body }) ∧
  ∀ x, s1.warp? w = some x → ∃ y, t.warp? w = some y ∧ (∀ q, y.counter q = x.counter q) ∧ InRegs p vals x y ∧
    ∀ q, x.op? p.id = some q → ∃ q', y.op? p.id = some q' ∧ q'.body = left q.body

/-- Lanes of an atomic have been applied from s1 on; with the last of them, once the acquire side is performed, it is over. -/
def AtomGoes (s1 : State) (w : Nat) (x : Warp) (p : PendOp) (vals : List (Nat × List Word × Nat)) (body : OpBody) (last : Bool) (acq : Nat)
    (t : State) : Prop :=
  let s2 := s1.modWarp w fun y => (y.applyResult p vals).modOp p.id fun q => { q with body }
  (last = false → Advanced s1 w p vals (fun _ => body) t) ∧ (last = true → ∀ s3, s2.acquireAt x.core acq = (s3, true) → t = s3.completeOp w p)

/-- The lanes of a list traced in order, the last one from s1 on. -/
def Traced (f : Nat → State → State × RayRes) (ls : List Nat) (s s1 : State) : Prop :=
  match ls with
  | [] => s1 = s
  | l :: rest => ∃ s2 hit boxes, f l s = (s2, .ok hit boxes) ∧ Traced f rest s2 s1

/-- The events that apply a result or perform a store, where nothing older of the warp holds the operation back: LDS_RESULT, LDR_RESULT,
STR_PERFORMED, LOAD_DATA_APPLIED, STORE_PERFORMED, PEER_COMPLETION, ATOMIC_ACT, TLDT_RESULT, TEXTURE_RESULT, TRACE_COMPLETE. A load, a store
and an atomic do the part of them that lies in one line, LDR and STR that at one workgroup, CLEAN and INVAL a page, an ISTORE or a texture
read its next lane. -/
def Obligations.ResultEvents : Prop :=
  let mark (m : Nat) (vals : List (Nat × List Word)) : List (Nat × List Word × Nat) := vals.map fun v => (v.1, v.2, m)
  let able (s : State) (x : Warp) (p : PendOp) (runs : Nat → List (Nat × Nat)) (g : Nat) : Prop :=
    g ∈ p.body.targets ∧ x.qFirstAt p.id g = true ∧ s.windowHeld x p.id (runs g) = false ∧
      s.scratchBehind x p.id p.mask ((runs g).filterMap fun r => (s.windowTarget x r.1 1).map fun a => (a.1, a.2, r.2)) = false
  (∀ (s : State) (w op : Nat) (err : Bool) (x : Warp) (p : PendOp) (vals : List (Nat × List Word × Nat)), Outstanding s w op x p → p.body = .words vals →
    p.path = none → ∃ t, exec (.ldsResult w ⟨op, err⟩) s = .next t ∧ OnlyWarp (s.errorIf err) t w ∧ t.nextId = s.nextId ∧
      Landed (s.errorIf err) w p (vals.map fun v => (v.1, v.2.1, max v.2.2 (poisonIf err))) t) ∧
  (∀ (s : State) (w op : Nat) (err : Bool) (x : Warp) (p : PendOp) (offs : List (Nat × Nat)) (size ty : Nat), Outstanding s w op x p →
    p.body = .ldr offs size ty →
    let runs (g : Nat) : List (Nat × Nat) := (offs.filter fun q => q.2 / 2 ^ 21 = g).map fun q => (q.2, size)
    (∃ g, able s x p runs g) → ∃ g, able s x p runs g ∧
      let rest := offs.filter fun q => q.2 / 2 ^ 21 ≠ g
      let vals := (offs.filter fun q => q.2 / 2 ^ 21 = g).map fun q =>
        (q.1, loadWords size ty (s.windowNat x q.2 size), max (s.windowMark x q.2 size) (poisonIf err))
      ∃ t, exec (.ldrResult w ⟨op, err⟩) s = .next t ∧ t.mem = s.mem ∧
        (rest = [] → Finished (s.errorIf err) w p vals t) ∧
        (rest ≠ [] → Advanced (s.errorIf err) w p vals (fun _ => .ldr rest size ty) t)) ∧
  (∀ (s : State) (w op : Nat) (x : Warp) (p : PendOp) (bytes : List (Nat × Byte)), Outstanding s w op x p → p.body = .str bytes →
    let runs (g : Nat) : List (Nat × Nat) := (bytes.filter fun q => q.1 / 2 ^ 21 = g).map fun q => (q.1, 1)
    (∃ g, able s x p runs g) → ∃ g, able s x p runs g ∧
      let here := bytes.filter fun q => q.1 / 2 ^ 21 = g
      let rest := bytes.filter fun q => q.1 / 2 ^ 21 ≠ g
      let s1 := s.windowWrite x here
      ∃ t, exec (.strPerformed w op) s = .next t ∧ t.mem = s.mem ∧
        (rest = [] → t = s1.completeOp w p) ∧
        (rest ≠ [] → t = s1.modWarp w fun y => y.modOp p.id fun q => { q with body := .str rest }) ∧
        ∀ n g, s.wg? n = some g → ∃ g', t.wg? n = some g' ∧
          (∀ a, (∀ b ∈ here, s.windowTarget x b.1 1 ≠ some (n, a)) → g'.sp.read a = g.sp.read a) ∧
          ∀ a v, (∃ b ∈ here, s.windowTarget x b.1 1 = some (n, a)) → (∀ b ∈ here, s.windowTarget x b.1 1 = some (n, a) → b.2 = v) →
            g'.sp.read a = v) ∧
  (∀ (s : State) (w op line : Nat) (x : Warp) (p : PendOp) (peer err : Bool), Outstanding s w op x p → (peer = true → err = false) →
    let mine (name : Nat) : Bool := name / 128 = line && (if peer then s.isPeer name else !s.isPeer name)
    (∀ lanes size ty na acq s1 vals, p.body = .load lanes size ty na acq →
      let here := lanes.filter fun l => mine l.pa
      let rest := lanes.filter fun l => !mine l.pa
      let i : Instr := if peer then .peerCompletion w ⟨op, line⟩ else .loadDataApplied w ⟨op, line⟩ err
      here ≠ [] → x.behind p = false → s.lineHeld w x.core (OpBody.load here size ty na acq).lineKeys = false →
      let s0 : State := if err then (if x.walker then s.noteError.spoilHome line (s.errMask line) else s.readError x.core line) else s
      s0.readLanes x here size ty (!na) (x.queued p) = (s1, some vals) →
      (rest = [] → ∀ s2, s1.acquireAt x.core acq = (s2, true) → ∃ t, exec i s = .next t ∧ Finished s2 w p vals t) ∧
      (rest ≠ [] → ∃ t, exec i s = .next t ∧ Advanced s1 w p vals (fun _ => .load rest size ty na acq) t)) ∧
    (∀ bytes rel na s1, p.body = .store bytes rel na →
      let here := bytes.filter fun b => mine b.1
      let rest := bytes.filter fun b => !mine b.1
      let i : Instr := if peer then .peerCompletion w ⟨op, line⟩ else .storePerformed w ⟨op, line⟩
      here ≠ [] → x.behind p = false → s.lineHeld w x.core [line] (if p.body.isRelease then some p.id else none) = false →
      s.hasTokens x.core p.toks = true → s.storeBytes x here rel na = (s1, true) →
      (rest = [] → ∃ t, exec i s = .next t ∧ Finished (s1.noteWrite p.toks) w p [] t) ∧
      (rest ≠ [] → ∃ t, exec i s = .next t ∧ Advanced (s1.noteWrite p.toks) w p [] (fun _ => .store rest rel na) t)) ∧
    ∀ lanes ty aop b c scope acq taken s1 s2 vals, p.body = .atomic lanes ty aop b c scope acq taken →
      let here := lanes.filter fun l => mine l.pa
      let rest := lanes.filter fun l => !mine l.pa
      let i : Instr := if peer then .peerCompletion w ⟨op, line⟩ else .atomicAct w op ⟨line, err⟩
      (peer = false → Tab.get? taken line = none ∧ (atOf scope ≠ .home ∨ ∃ k, placeOf (128 * line) = .grotto k)) →
      here ≠ [] → x.behind p = false → s.lineHeld w x.core [line] = false → s.atomicHeld x.core p.id [line] = false →
      s.hasTokens x.core p.toks = true → s.yieldLines x.core scope [line] = (s1, true) →
      (s1.atomError err x.core scope line).atomAct x.core x.task scope here ty aop b c = (s2, some vals) →
      ∃ t, exec i s = .next t ∧
        AtomGoes (s2.noteWrite p.toks) w x p vals (.atomic rest ty aop b c scope acq taken) rest.isEmpty acq t) ∧
  (∀ (s : State) (w op line : Nat) (x : Warp) (p : PendOp), Outstanding s w op x p →
    (∀ base len inval icache s1 name s2, p.body = .clean base len inval icache → x.behind p = false → s.maintPage w x p base = (s1, some name) →
      let n := min len (4096 - base.toNat % 4096)
      (name = none → s2 = s1) → (∀ a, name = some a → s1.maintain x base n a inval icache = (s2, true)) →
      ∃ t, exec (.storePerformed w ⟨op, line⟩) s = .next t ∧ (len ≤ n → Finished s2 w p [] t) ∧
        (n < len → Advanced s2 w p [] (fun _ => .clean (base + BitVec.ofNat 64 n) (len - n) inval icache) t)) ∧
    (∀ att offs data blend, p.body = .tstt att offs data blend → x.tileBehind op = false →
      ∃ t, exec (.storePerformed w ⟨op, line⟩) s = .next t ∧ Finished (s.tsttDo x att offs data blend) w p [] t) ∧
    (p.body = .vout ∨ (∃ g r d, p.body = .emit g r [] d) → ∃ t, exec (.storePerformed w ⟨op, line⟩) s = .next t ∧ Finished s w p [] t)) ∧
  (∀ (s : State) (w op line : Nat) (err : Bool) (x : Warp) (p : PendOp), Outstanding s w op x p → x.behind p = false →
    s.hasTokens x.core p.toks = true → s.lineHeld w x.core [line] = false → s.atomicHeld x.core p.id [line] = false →
    (∀ pa scope s1 s2 s3 v m any, p.body = .ticket pa scope → pa / 128 = line → s.yieldLines x.core scope [line] = (s1, true) →
      (s1.atomError err x.core scope line).placeRead x.core none scope pa 8 = (s2, some (v, m)) →
      s2.placeWrite x.core none scope (cellsOf pa 8 ((v + 1) % 2 ^ 64)) = (s3, true) →
      ∃ t, exec (.atomicAct w op ⟨any, err⟩) s = .next t ∧ Finished ((s3.stainPlace x.core scope pa 8 0 m).noteWrite p.toks) w p [(0, wordsOf 2 v, m)] t) ∧
    (∀ pa scope s1 s2 s3 v m any, p.body = .advance pa scope → pa / 128 = line → s.yieldLines x.core scope [line] = (s1, true) →
      (s1.atomError err x.core scope line).placeRead x.core none scope (pa + 8) 8 = (s2, some (v, m)) →
      s2.placeWrite x.core none scope (cellsOf (pa + 8) 8 ((v + 1) % 2 ^ 64)) = (s3, true) →
      ∃ t, exec (.atomicAct w op ⟨any, err⟩) s = .next t ∧ Finished ((s3.stainPlace x.core scope (pa + 8) 8 0 m).noteWrite p.toks) w p [] t) ∧
    ∀ lanes ty aop b c scope acq taken s1, p.body = .atomic lanes ty aop b c scope acq taken → atOf scope = .home →
      (∀ k, placeOf (128 * line) ≠ .grotto k) → Tab.get? taken line = none →
      let mine (l : LaneAddr) : Bool := l.pa / 128 = line && !s.isPeer l.pa
      let here := lanes.filter mine
      here ≠ [] → s.atomHeld scope line here ty = [] → s.yieldLines x.core scope [line] = (s1, true) →
      let s2 := here.foldl (fun (s : State) l => s.holdPort l.pa) ((((s1.recall line none).atomError err x.core scope line).mergeCheck (physKey line) 0).request (dieOf x.core) line true)
      let copy := s2.homeCopy line 0
      let read := (copy.data, (here.map fun l => copy.mark (l.pa % 128) (typeBytes ty)).foldl max 0)
      exec (.atomicAct w op ⟨line, err⟩) s = .next (s2.modWarp w fun y => y.modOp p.id fun q =>
        { q with body := .atomic (here ++ lanes.filter fun l => !mine l) ty aop b c scope acq (Tab.set taken line read) })) ∧
  (∀ (s : State) (w op line : Nat) (err : Bool) (x : Warp) (p : PendOp) (lanes : List LaneAddr) (ty aop scope acq : Nat)
      (b c : List (Nat × DWord)) (taken : Tab (BitVec 1024 × Nat)) (read : BitVec 1024 × Nat), Outstanding s w op x p →
    p.body = .atomic lanes ty aop b c scope acq taken → Tab.get? taken line = some read →
    let mine (l : LaneAddr) : Bool := l.pa / 128 = line && !s.isPeer l.pa
    let rest := lanes.filter fun l => !mine l
    let r := atomLine read.1 (lanes.filter mine) ty aop b c
    let s1 := if r.2.1 = 0 then s else s.homeWrite line r.2.1 r.1
    ∃ t, exec (.atomicAct w op ⟨line, err⟩) s = .next t ∧
      AtomGoes (s1.noteWrite p.toks) w x p (r.2.2.map fun v => (v.1, wordsOf (typeNames ty) v.2, read.2))
        (.atomic rest ty aop b c scope acq (Tab.erase taken line)) rest.isEmpty acq t) ∧
  (∀ (s : State) (w op : Nat) (x : Warp) (p : PendOp) (n : Nat) (k : Task) (pass : Pass) (att names : Nat) (offs : List (Nat × Nat)),
    Outstanding s w op x p → p.body = .tldt att offs names → s.tileOf x = some (n, k, pass) → x.tileBehind op = false →
    ∃ t, exec (.tldtResult w op) s = .next t ∧ t.mem = s.mem ∧
      Finished s w p (mark 0 (offs.map fun q => (q.1,
        if att = 8 then ((Tab.get? x.frags q.1).map (·.words)).getD [0, 0, 0, 0] else wordsOf names (k.tm.readNat q.2 (pass.esize att))))) t) ∧
  (∀ (s : State) (w op line : Nat) (x : Warp) (p : PendOp) (lane : Nat) (rest : List Nat) (s1 : State) (vs : List Nat),
    Outstanding s w op x p → p.held = none → s.asleep (96 + 4 * x.core + x.part / 4) = false → p.body.texLanes = lane :: rest →
    s.texLane w x p lane = (s1, .ok vs) →
    let i : Instr := if p.path = some .X then .textureResult w op else .storePerformed w ⟨op, line⟩
    (p.path = some .X ∨ ∃ a d e f g, p.body = .istore (lane :: rest) a d e f g) →
    ∃ t, exec i s = .next t ∧
      (rest = [] → Landed s1 w p [(lane, vs.map (BitVec.ofNat 32), 0)] t ∧
        t = (s1.modWarp w fun y => (y.applyResult p [(lane, vs.map (BitVec.ofNat 32), 0)]).modOp p.id fun q =>
          { q with body := q.body.withLanes [] }).completeOp w p) ∧
      (rest ≠ [] → Advanced s1 w p [(lane, vs.map (BitVec.ofNat 32), 0)] (·.withLanes rest) t)) ∧
  (∀ (s : State) (w op : Nat) (x : Warp) (p : PendOp) (lanes : List Nat) (rays : List (Nat × List Word)) (root : List (Nat × DWord))
      (rmask : List (Nat × Word)) (rec : List (Nat × DWord)) (k f : Nat) (s1 : State),
    Outstanding s w op x p → p.body = .trace lanes rays root rmask rec k f → p.held = none → s.asleep (288 + x.core) = false →
    s.laneBusy op p.granules = false →
    Traced (fun i s => s.traceLane w x p (valOfLane rays i []) (valOfLane root i 0) (valOfLane rmask i 0) (valOfLane rec i 0) k f) lanes s s1 →
    ∃ t, exec (.traceComplete w op) s = .next t ∧ Finished s1 w p [] t)

/-! ### Waits that end -/

/-- The split of entry k, which waited in its instruction, has left it and is ready; its age is that of the instruction's issue (03 R90). -/
def Resumed (s1 : State) (w k : Nat) (t : State) : Prop :=
  OnlyWarp s1 t w ∧ ∀ x sp, s1.warp? w = some x → x.split? k = some sp → ∃ y, t.warp? w = some y ∧ y.rest = x.rest ∧
    (sp.mask ≠ 0 → (∀ n l, sp.frame.inner = some (n, l) → l.stop ≠ sp.pc) → x.settled = true →
      y.stack = x.stack ∧
      y.split? k = some { sp with pc := s1.succAt x.core x.codeCtx sp.pc, seq := true, wait := .ready } ∧
      ∀ q, q ≠ k → y.split? q = x.split? q)

/-- A split of a warp that may run waits for what is given. -/
def WaitsAt (s : State) (w k : Nat) (x : Warp) (wt : Wait) : Prop :=
  s.warp? w = some x ∧ x.runs = true ∧ ∃ sp, x.split? k = some sp ∧ sp.wait = wt

/-- From s1 on the split of entry k is ready to issue its instruction again, and nothing else has moved. -/
def Retried (s1 : State) (w k : Nat) (t : State) : Prop :=
  OnlyWarp s1 t w ∧ t.nextId = s1.nextId ∧ ∀ x sp, s1.warp? w = some x → x.split? k = some sp → ∃ y, t.warp? w = some y ∧ y.rest = x.rest ∧
    y.pend = x.pend ∧ y.stack = x.stack ∧ y.split? k = some { sp with wait := .ready } ∧ ∀ n, n ≠ k → y.split? n = x.split? n

/-- The results of a wait are in the registers that the wait's place among the operations names, and the place is gone: s2 from s1. -/
def Filled (s1 : State) (w slot : Nat) (vals : List (Nat × List Word × Nat)) (s2 : State) : Prop :=
  s2 = s1.fillSlot w slot vals ∧ ∀ x p, s1.warp? w = some x → x.op? slot = some p → Landed s1 w p vals s2

/-- The events that end a wait whose condition holds (08 R180, R185, R198, R199, 11 R258, R260, R261, 12 R288, 13 R302, R316): the split
resumes; and WARP_END (06 R146), TOKEN_HANDOFF_IDLE and TOKEN_HANDOFF_TIMEOUT (20 R450). That a waiting push or pop goes on waiting while its
granules are engine-owned is the model's choice (assumption 103). -/
def Obligations.WaitsEnd : Prop :=
  (∀ (s : State) (w k q : Nat) (scope : Option Nat) (at_ : WaitAt) (x : Warp) (vals : List (Nat × Word)) (g : Workgroup),
    WaitsAt s w k x (.push q scope vals at_) → s.wg? x.wg = some g → (g.queue q).bound = true →
    (scope = none → (g.queue q).pushers.find? s.waitsUnbound = some (w, k, false) →
      ∃ t, exec (.qpushWake w k) s = .next t ∧ Retried (s.modQueue x.wg q fun e => e.leavePush w k) w k t) ∧
    (∀ sc, scope = some sc → (g.queue q).pushAt w k = some 0 → (g.header q).sound = true → vals.length ≤ (g.header q).cap - (g.header q).count →
      g.queueOwned q (g.header q).tail vals.length = false →
      ∃ t, exec (.qpushWake w k) s = .next t ∧
        Resumed ((s.append x.wg q sc (vals.map (·.2))).modQueue x.wg q fun e => e.leavePush w k) w k t)) ∧
  (∀ (s : State) (w k q slot : Nat) (x : Warp) (lanes : List Nat) (at_ : WaitAt) (g : Workgroup) (s1 : State), WaitsAt s w k x (.pop q lanes slot at_) →
    s.wg? x.wg = some g → (g.queue q).bound = true → (g.queue q).poppers.head? = some (w, k) → (g.header q).sound = true →
    g.queueOwned q (g.header q).head lanes.length = false → lanes.length ≤ (g.header q).count →
    s.acquireAt x.core (g.peekQueue q lanes.length).2 = (s1, true) →
    ∃ t s2, exec (.qpopWake w k) s = .next t ∧
      Filled ((s1.takeQueue x.wg q lanes.length).modQueue x.wg q fun e => e.leavePop w k) w slot
        (popWords lanes (g.peekQueue q lanes.length).1) s2 ∧ Resumed s2 w k t) ∧
  (∀ (s : State) (w k : Nat) (x : Warp) (p : Path) (thr : Nat), WaitsAt s w k x (.counter p thr) → x.counter p ≤ thr →
    ∃ t, exec (.waitcWake w k) s = .next t ∧ Resumed s w k t) ∧
  (∀ (s : State) (w k : Nat) (x : Warp) (sp : Split), s.warp? w = some x → x.split? k = some sp → sp.wait = .stall .granules →
    ∃ t, exec (.granuleWaitEnd w k) s = .next t ∧ Retried s w k t) ∧
  (∀ (s : State) (w k : Nat) (x : Warp) (ids : List Nat), WaitsAt s w k x (.matrix ids) → x.abandonedIn ids = none →
    (∀ n ∈ ids, s.opOpen x n = false) → ∃ t, exec (.mwaitWake w k) s = .next t ∧ Resumed s w k t) ∧
  (∀ (s : State) (w k pa scope : Nat) (x : Warp) (ticket : DWord) (s1 : State) (v m : Nat), WaitsAt s w k x (.served pa scope ticket) →
    s.ownRead x.core none scope (pa + 8) 8 = (s1, some (v, m)) →
    (∀ sp, x.split? k = some sp → m ≠ 0 →
      exec (.servedWake w k) s = .next (s1.waitTrap w k { cause := if m = 2 then 0x12 else 0x11, sub := if m = 2 then 0x05 else 0x01 } sp.waitAt)) ∧
    (m = 0 → servedBy (BitVec.ofNat 64 v) ticket = true → ∀ s2, s1.acquireAt x.core scope = (s2, true) →
      ∃ t, exec (.servedWake w k) s = .next t ∧ Resumed s2 w k t) ∧
    (m = 0 → servedBy (BitVec.ofNat 64 v) ticket = false → exec (.servedWake w k) s = .next s1)) ∧
  (∀ (s : State) (w k pa scope cond ty slot : Nat) (x : Warp) (b : DWord) (limit : Option Nat) (at_ : WaitAt), WaitsAt s w k x (.monitor pa scope cond ty slot b limit at_) →
    ((∀ d, limit = some d → s.timer < d) → s.lineHeld w x.core [pa / 128] = false → (s.linkFull = true ∨ hostKey (pa / 128) = false) →
      ∀ s1 v m, s.ownRead x.core x.task scope pa (typeBytes ty) = (s1, some (v, m)) → ∀ i ∈ ([.waitmonWake w k, .waitmonReread w k] : List Instr),
        (m ≠ 0 → exec i s = .next ((s1.dropSlot w slot).waitTrap w k { cause := if m = 2 then 0x12 else 0x11, sub := if m = 2 then 0x05 else 0x01 } at_)) ∧
        (m = 0 → monitorHolds cond ty v b.toNat = true → ∀ s2, s1.acquireAt x.core scope = (s2, true) →
          ∃ t s3, exec i s = .next t ∧ Filled s2 w slot [(0, [1], 0)] s3 ∧ Resumed s3 w k t) ∧
        (m = 0 → monitorHolds cond ty v b.toNat = false → exec i s = .next s1)) ∧
    (∀ d, limit = some d → d ≤ s.timer →
      ∃ t s1, exec (.waitmonTimeout w k) s = .next t ∧ Filled s w slot [(0, [0], 0)] s1 ∧ Resumed s1 w k t)) ∧
  (∀ (s : State) (w k : Nat) (x : Warp) (lanes : Word), WaitsAt s w k x (.ordered lanes) → s.sectionsFree x lanes = true →
    ∃ t, exec (.ordbeginGrant w k) s = .next t ∧
      Resumed (((s.setSections w lanes true).modWarp w fun x => x.modSplit k fun sp => { sp with age := s.nextId }).bump) w k t) ∧
  (∀ (s : State) (w k op graph ring depth : Nat) (x : Warp) (p : PendOp) (recs : List (BitVec 512)) (at_ : WaitAt), WaitsAt s w k x (.ring op at_) →
    x.op? op = some p → p.body = .emit graph ring recs depth → s.ringTakes graph ring recs.length = true →
    ∃ t, exec (.emitAppend w k) s = .next t ∧
      Resumed ((s.appendRecs graph ring recs depth).modWarp w fun y => y.modOp op fun q => { q with body := .emit graph ring [] depth }) w k t) ∧
  (∀ (s : State) (w : Nat) (x : Warp), s.warp? w = some x → x.lanes = 0 → (∀ p ∈ x.pend, p.path = none) →
    ∃ t, exec (.warpEnd w) s = .next t ∧ t.warp? w = none ∧ (∀ q, q ≠ w → t.warp? q = s.warp? q) ∧
      (t.engine x.engineKey).queue = (s.engine x.engineKey).queue ∧
      (x.walker = false → (∃ q y, q ≠ w ∧ s.warp? q = some y ∧ y.gang = x.gang) → t.mem = s.mem ∧ t.wgs = s.wgs ∧ t.gangs = s.gangs)) ∧
  (∀ (s : State) (n : Nat) (r : Region) (s1 : State), Tab.get? s.regions n = some r → r.waiting ≠ [] →
    (∀ k, placeOf r.pbase = .stack k → s.handoverAt k 4 = false) → s.passToken n (s.nextHolder r) = (s1, true) →
    (r.holder = none ∨ r.lastWrite + 366 ≤ s.timer → exec (.tokenHandoffIdle n) s = .next s1) ∧
    ((∃ a ∈ r.waiting, a.2 + 8000 ≤ s.timer) → exec (.tokenHandoffTimeout n) s = .next s1) ∧
    ∃ r', Tab.get? s1.regions n = some r' ∧ r'.holder = s.nextHolder r ∧ (∀ c, s.nextHolder r = some c → Tab.get? r'.waiting c = none))

/-! ### Engines, caches and units -/

/-- The copy engine, remote pushes and the matrix engine at their events (08 R189 to R191, R198, 12 R276 to R286). -/
def Obligations.EngineEvents : Prop :=
  (∀ (s : State) (w op : Nat) (x : Warp) (p : PendOp) (y : Copy), Outstanding s w op x p → p.body = .copy y →
    (y.started = false → (w, op) ∈ (s.core x.core).running → s.laneBusy op p.granules = false →
      ∃ t z, exec (.copyStart w op) s = .next t ∧ OnlyWarp s t w ∧ t.warp? w = some z ∧ z.op? op = some { p with body := .copy { y with started := true } } ∧
        z.bare = { x.bare with pend := z.bare.pend } ∧ z.v = x.v ∧ z.g = x.g ∧ z.o = x.o) ∧
    (y.started = true → p.held = none → s.copyHeld p = false → y.finishing = false → ∀ s1 z bs, s.copyMove w x p y = (s1, z, .ok bs) →
      exec (.copyStart w op) s = .next (s1.modWarp w fun x => x.modOp op fun p => { p with body := .copy z }))) ∧
  (∀ (s : State) (w op : Nat) (x : Warp) (p : PendOp) (y z : Copy) (s1 : State) (bs : List Byte), Outstanding s w op x p →
    p.body = .copy y → y.started = true → p.held = none → s.copyHeld p = false → s.copyRest w x p y y.bound = (s1, z, .ok bs) →
    ∃ t, exec (.copyComplete w op) s = .next t ∧
      Finished ((s1.modWarp w fun x => x.modOp op fun p => { p with body := .copy z }).modCore x.core fun k =>
        { k with copies := k.copies.filter fun c => c ≠ (w, op) }) w p [] t) ∧
  (let arrives (s : State) (w : Nat) (_x : Warp) (p : PendOp) (wg q : Nat) (vals : List Word) (g : Workgroup) (i : Instr) : Prop :=
     (g.queue q).bound = true → (g.header q).sound = true → vals.length ≤ (g.header q).cap - (g.header q).count →
       ∃ t, exec i s = .next t ∧
         Finished ((s.append wg q (max 2 (g.header q).scope) vals).modQueue wg q fun e =>
           { e with pushers := e.pushers.filter fun r => r ≠ (w, p.id, true) }) w p ((List.range 32).map fun i => (i, [1], 0)) t
   (∀ (s : State) (w op target q wg : Nat) (x : Warp) (p : PendOp) (vals : List Word) (try_ : Bool) (g : Workgroup), Outstanding s w op x p →
     p.body = .push target q vals try_ false → s.peerWg x target = some wg → s.wg? wg = some g → p.held = none → x.halted = false →
     (∀ y, Tab.get? s.gangs x.gang = some y → y.saved = none) → x.qFirst p = true →
     ¬ ((g.queue q).bound = true ∧ g.queueOwned q (g.header q).tail vals.length = true) →
     ((g.queue q).pushers = [] → arrives s w x p wg q vals g (.remotePushArrival w op)) ∧
     ((g.queue q).bound = false →
       (try_ = true → ∃ t, exec (.remotePushArrival w op) s = .next t ∧ Finished s w p ((List.range 32).map fun i => (i, [0], 0)) t) ∧
       (try_ = false → ∃ t g', exec (.remotePushArrival w op) s = .next t ∧ t.mem = s.mem ∧ t.wg? wg = some g' ∧ g'.sp = g.sp ∧
         (g'.queue q).pushers = (g.queue q).pushers ++ [(w, p.id, true)]))) ∧
   (∀ (s : State) (w op target q q' wg : Nat) (x : Warp) (p : PendOp) (vals : List Word) (try_ : Bool) (g : Workgroup), s.wg? wg = some g →
     (g.queue q).pushers.head? = some (w, op, true) → Outstanding s w op x p → p.body = .push target q' vals try_ true →
     ¬ ((g.queue q).bound = true ∧ g.queueOwned q (g.header q).tail vals.length = true) →
     arrives s w x p wg q vals g (.remotePushAppend wg q))) ∧
  (∀ (s : State) (eng : Nat) (o : MatrixOp) (rest : List MatrixOp) (x : Warp) (g : Workgroup), (s.engine eng).queue = o :: rest →
    s.opWarp eng o.warp = some x → s.wg? x.wg = some g →
    let back (t : State) (q : Nat) : Prop := s.claimed s.nextId (x.wg, q) = false → ∃ g', t.wg? x.wg = some g' ∧ q ∉ g'.engine
    (o.started = false → s.asleep eng = false → s.throttle = 0 → s.laneBusy o.id (o.granules.map fun g => (x.wg, g)) = false →
      (∃ t, exec (.matrixOpStart eng false) s = .next t ∧ (t.engine eng).queue = { o with started := true } :: rest ∧
        (t.engine eng).bypass = (s.engine eng).bypass ∧ t.warps = s.warps ∧ t.wgs = s.wgs) ∧
      (s.warp? o.warp = some x → o.places ≠ [] → ∃ t y h, exec (.matrixOpStart eng true) s = .next t ∧ (t.engine eng).queue = rest ∧ t.mgmt.uncorr = s.mgmt.uncorr + 1 ∧
        t.warp? o.warp = some y ∧ y.abandoned = x.abandoned ++ [(o.id, h)] ∧ h.cause = 0x11 ∧ h.sub = 0x02)) ∧
    (o.started = true → o.readDone = false → o.kind = 0 → s.warp? o.warp = some x → ∀ line, o.badLine g = some line →
      ∃ t y h, exec (.matrixReadComplete eng) s = .next t ∧ (t.engine eng).queue = rest ∧ t.mgmt.uncorr = s.mgmt.uncorr + 1 ∧
        t.warp? o.warp = some y ∧ y.abandoned = x.abandoned ++ [(o.id, h)] ∧ h.cause = 0x11 ∧ h.sub = 0x02 ∧ h.addr = BitVec.ofNat 64 line) ∧
    (o.started = true → o.readDone = false → o.kind = 0 → o.badLine g = none → o.tileKind < 2 → 32 * o.mo + (regionSize o.shape).1 ≤ 64 →
      32 * o.no + (regionSize o.shape).2 ≤ 64 → ∀ b, o.mapB = some b →
      ∃ t y, exec (.matrixReadComplete eng) s = .next t ∧ t.opWarp eng o.warp = some y ∧ (t.engine eng).queue = { o with readDone := true } :: rest ∧
        (∀ m n, m < (regionSize o.shape).1 → n < (regionSize o.shape).2 →
          y.tileGet o.acc o.tileKind (32 * o.mo + m) (32 * o.no + n) =
            accumulate o.tileKind o.ty b.ty (x.tileGet o.acc o.tileKind (32 * o.mo + m) (32 * o.no + n)) b.rows
              (fun k => o.elemA g.sp (match (s.engine eng).bypass with | some b => b.data | none => []) m k) (fun k => b.elem g.sp k n)
              (fun k => match o.mapA with | some a => a.code g.sp m k b.rows | none => 127) (fun k => b.code g.sp n k b.rows) % 2 ^ 32) ∧
        (∀ a r c, r < 64 → c < 64 → (a ≠ o.acc ∨ ∀ m n, m < (regionSize o.shape).1 → n < (regionSize o.shape).2 → (r, c) ≠ (32 * o.mo + m, 32 * o.no + n)) →
          y.tileGet a o.tileKind r c = x.tileGet a o.tileKind r c) ∧
        y = { x with acc := y.acc } ∧ (∃ g', t.wg? x.wg = some g' ∧ g'.sp = g.sp) ∧ ∀ q ∈ o.granules, back t q) ∧
    (o.started = true → (o.kind ≤ 1 ∨ o.kind = 3) → o.readDone = true →
      ∃ t, exec (.matrixOpComplete eng) s = .next t ∧ (t.engine eng).queue = rest ∧ t.wgs = s.wgs ∧ t.mem = s.mem) ∧
    (o.started = true → o.kind = 2 → s.warp? o.warp = some x →
      ∃ t y, exec (.matrixOpComplete eng) s = .next t ∧ (t.engine eng).queue = rest ∧ t.warp? o.warp = some y ∧
        (∀ r c, r < 64 → c < 64 → y.tileGet o.acc 0 r c = 0) ∧ ∀ a r c, a ≠ o.acc → r < 64 → c < 64 → y.tileGet a 0 r c = x.tileGet a 0 r c) ∧
    (o.started = true → o.kind = 4 → ∀ d, o.mapA = some d →
      ∃ t g', exec (.matrixOpComplete eng) s = .next t ∧ (t.engine eng).queue = rest ∧ t.wg? x.wg = some g' ∧
        g'.sp = (o.converted x).foldl (fun sp p => sp.writeNat (d.at p.1 p.2.1) (typeBytes d.ty) p.2.2) g.sp ∧
        (∀ a, (∀ p ∈ o.converted x, a < d.at p.1 p.2.1 ∨ d.at p.1 p.2.1 + typeBytes d.ty ≤ a) → g'.sp.read a = g.sp.read a) ∧
        (∀ q ∈ o.granules, back t q) ∧ t.mem = s.mem) ∧
    (o.started = true → o.kind = 5 → ∀ b, (s.engine eng).bypass = some b →
      ∃ t b', exec (.matrixOpComplete eng) s = .next t ∧ (t.engine eng).queue = rest ∧ (t.engine eng).bypass = some b' ∧ b'.holder = b.holder ∧
        b'.data = (o.converted x).foldl (fun m p => Store.set m (64 * p.1 + p.2.1) (BitVec.ofNat 64 p.2.2)) [] ∧ t.mem = s.mem))

/-- Instruction lines, refused requests, writebacks, walkers, harvests, handovers and error records at their events (07 R176, 11 R248, 19
R416, R419, 20 R442, 21 R461, 25 R495, 26 R501, R503). -/
def Obligations.UnitEvents : Prop :=
  (∀ (s : State) (core line : Nat) (err : Bool) (f : Fill) (s1 : State) (d : BitVec 1024) (m : Nat),
    (s.core core).fills.find? (fun g => g.line = line) = some f → s.codeRead core line = (s1, some (d, m)) →
    let x := s1.core core
    let key := physKey line
    ∃ t, exec (.icacheFill core line err) s = .next t ∧ t.warps = s1.warps ∧ t.mem = s1.mem ∧
      (f.stale = true → (t.core core).icache = x.icache ∧ (t.core core).ibad = x.ibad) ∧
      (f.stale = false → Tab.get? (t.core core).icache key = some d ∧ (key ∈ (t.core core).ibad ↔ err = true ∨ m ≠ 0) ∧
        (x.icache.length ≤ 512 → (t.core core).icache.length ≤ 512) ∧
        ∀ k, k ≠ key → (Tab.get? (t.core core).icache k = Tab.get? x.icache k ∨ 512 ≤ x.icache.length ∧ Tab.get? (t.core core).icache k = none)) ∧
      (line ∉ x.fillWait.head? → ∀ g ∈ (t.core core).fills, g.line ≠ line) ∧ (t.core core).fillWait = x.fillWait.drop 1) ∧
  (∀ (s : State) (line : Nat) (l : List (Nat × Nat)), Tab.get? s.refusals line = some l →
    let asks := l.filter fun r => s.stillAsks r.1
    let busy := s.atomicBusy line || s.snoops.any fun p => p.line = line
    ∃ t, exec (.homeRetry line) s = .next t ∧ t = { s with refusals := t.refusals } ∧ (asks = [] → Tab.get? t.refusals line = none) ∧
      (∀ r rest, asks = r :: rest → Tab.get? t.refusals line = some ((if busy then (r.1, min 8 (r.2 + 1)) else r) :: rest)) ∧
      ∀ n, n ≠ line → Tab.get? t.refusals n = Tab.get? s.refusals n) ∧
  (∀ (s : State) (core line : Nat), s.writebackHeld core line = [] →
    ((viewOf line).isSome = true → exec (.electrumWriteback core line) s = .next (s.writeback core line)) ∧
    (viewOf line = none → ∀ l, s.colLine core line = some l → l.dirty ≠ 0 → exec (.homeWriteback core line false) s = .next (s.writeback core line))) ∧
  (∀ (s : State) (die i : Nat) (m : Miss) (core : Nat), die < 2 → (s.die die).oldestMiss (fun _ => true) = some (i, m) →
    core / 12 = die → s.walkerFree core = true →
    ((∃ r rs, m.reqs = r :: rs ∧ r.core = core) ∨
      (∀ r rs, m.reqs = r :: rs → r.core / 12 ≠ die ∨ s.walkerFree r.core = false) ∧ ∀ k, k / 12 = die → s.walkerFree k = true → core ≤ k) →
    ∃ t x sp, exec (.walkerStart die) s = .next t ∧ t.warp? s.nextId = some x ∧ x.walker = true ∧ x.core = core ∧ x.ctx = m.ctx ∧
      x.splits = [(0, sp)] ∧ sp.pc = (s.ctx m.ctx).walkentry ∧ sp.level = 2 ∧ sp.mask = 0xFFFFFFFF ∧ sp.wait = .ready ∧
      (∀ q, q ≠ s.nextId → t.warp? q = s.warp? q) ∧ t.mem = s.mem) ∧
  (∀ (s : State) (ctx : Nat), ctx < 32 → (s.ctx ctx).harvestLast + 100000 * ((s.ctx ctx).harvest.toNat % 1024) ≤ s.timer →
    ∃ t, exec (.harvestInterval ctx) s = .next t ∧ (t.ctx ctx).harvestLast = s.timer ∧
      (∀ d, ∀ p ∈ (t.die d).l2, p.ctx = ctx → p.a = false ∧ p.d = false) ∧
      ∀ k, ∀ p ∈ (t.core k).l1 ++ (t.core k).itlb, p.ctx = ctx → p.a = false ∧ p.d = false) ∧
  (∀ (s : State) (n : Nat) (h : Handover), (s.home n).handover = some h →
    let at_ (t : State) (k : Nat) : Prop := exec (.handoverDrain n) s = .next t ∧ (t.home n).handover = some { h with step := k }
    (h.step = 1 → s.stackBusy n h.src h.before = false → ∃ t, at_ t 2 ∧ t.mem = s.mem ∧ t.warps = s.warps) ∧
    (h.step = 2 → h.src = 2 → ∃ t, at_ t 3 ∧ t.mem = s.mem) ∧
    (h.step = 2 → h.src ≠ 2 → ∀ s1, s.emptyDie n h.src = (s1, true) →
      exec (.handoverDrain n) s = .next (s1.modHome n fun x => { x with handover := some { h with step := 3 } })) ∧
    (h.step = 3 → ∃ t, at_ t 4 ∧ (∀ d, ∀ e ∈ (t.die d).l2, inStack n (pteFrame e.leaf) = false) ∧
      ∀ k, ∀ e ∈ (t.core k).l1 ++ (t.core k).itlb, inStack n (pteFrame e.leaf) = false) ∧
    (h.step = 4 → ∀ s1, s.recallStack n = (s1, true) →
      exec (.handoverDrain n) s = .next (s1.modHome n fun x => { x with handover := some { h with step := 5 } })) ∧
    (h.step = 5 → s.homeBusy n = false → ∃ t, at_ t 6 ∧ t.mem = s.mem) ∧
    (h.step = 6 → ∃ t, at_ t 7 ∧ (t.home n).owner = { hseq := (s.home n).owner.hseq + 1, target := 0, pend := false, owner := h.dst } ∧
      t.mem = s.mem) ∧
    (h.step = 8 → ∀ dst gid k rest, (s.home n).next = (dst, gid, k) :: rest → (s.home n).owner.owner ≠ dst → (s.home n).owner.owner ≠ 2 →
      (s.home n).failed = false →
      ∃ t, exec (.handoverDrain n) s = .next t ∧ (t.home n).next = rest ∧ t.mem = s.mem ∧
        (t.home n).handover = some { step := 1, src := (s.home n).owner.owner, dst, word := none, pass := some (gid, k), before := s.nextId }) ∧
    (h.step = 8 → (s.home n).next = [] → ∃ t, exec (.handoverDrain n) s = .next t ∧ (t.home n).handover = none ∧ (t.home n).owner = (s.home n).owner ∧ t.mem = s.mem)) ∧
  (∀ (s : State) (n : Nat) (h : Handover), (s.home n).handover = some h → h.step = 7 → h.word = none →
    (∀ d, d < 2 → s.stackBusy n d h.before = false) →
    ∃ t, exec (.handoverDrain n) s = .next t ∧ (t.home n).handover = some { h with step := 8 } ∧ t.mem = s.mem ∧
      (t.die (s.stackDie n)).written = ((s.die (s.stackDie n)).written + 1) % 2 ^ 64) ∧
  (∀ (s : State) (unit n addr : Nat), n ≠ 0 →
    ∃ t, exec (.correctionRecord unit n addr) s = .next t ∧ t.mgmt.corr = s.mgmt.corr + BitVec.ofNat 64 n ∧ t.mgmt.uncorr = s.mgmt.uncorr ∧
      t.mem = s.mem ∧ t.warps = s.warps ∧
      ((∃ p, Tab.get? s.mgmt.corrLast unit = some p ∧ s.timer < p.1 + 1000000) → t.dies = s.dies) ∧
      ((∀ p, Tab.get? s.mgmt.corrLast unit = some p → p.1 + 1000000 ≤ s.timer) →
        let d := s.sourceDie unit
        let since := (match Tab.get? s.mgmt.corrLast unit with | some p => p.2 | none => 0) + n
        (t.die d).written = ((s.die d).written + 1) % 2 ^ 64 ∧
          Tab.get? (t.die d).flow ((s.die d).written % 4096) = some
            { time := s.timer % 2 ^ 48, event := 0x100, source := unit, ctx := 0xFF,
              data := BitVec.ofNat 128 (since % 2 ^ 64 + 2 ^ 64 * (addr % 2 ^ 64)) })) ∧
  ∀ (s : State), ∃ t, exec .imageRegionError s = .next t ∧
    t.mgmt = { s.mgmt with uncorr := if s.mgmt.imageBad then s.mgmt.uncorr else s.mgmt.uncorr + 1, retained := false, imageBad := true } ∧
    t = { s with mgmt := t.mgmt }

/-! ### Streams and graphs -/

/-- A record of a stream finishes from s1 on (16 R343, R344): where it is the oldest and the next one still runs, DONE advances over it
alone; an error fills the error fields and raises bit 1 of the context's event word. -/
def RecordEnds (s1 t : State) (n seq code detail index : Nat) : Prop :=
  t = s1.finishRec n seq code detail index ∧
  ∀ x r rest, Tab.get? s1.slots n = some x → x.recs = r :: rest → r.seq = seq → r.finished = false → (∀ q ∈ rest, q.seq ≠ seq) →
    (∀ q, rest.head? = some q → q.finished = false) →
    ∃ y, Tab.get? t.slots n = some y ∧ y.done = (x.done + 1) % 2 ^ 64 ∧ y.recs = rest ∧ y.fetched = x.fetched ∧
      (code = 0 → y.errcount = x.errcount) ∧
      (code ≠ 0 → y.errseq = seq ∧ y.errtag = r.bytes.extractLsb' 32 32 ∧ y.errcount = x.errcount + 1 ∧
        y.errcode = BitVec.ofNat 32 (code + 256 * detail + 65536 * index) ∧ (t.ctx x.ctx).event.getLsbD 1 = true)

/-- Stream slots and their records at their events (16 R340 to R352). -/
def Obligations.StreamEvents : Prop :=
  (∀ (s : State) (n : Nat) (d : BitVec 512), n < 32 →
    let on (s : State) : Prop := 128 ≤ s.winNat (64 * n + 13) 1
    (on s → d.getLsbD 111 = true → exec (.streamDescriptorWrite n d) s = .next s) ∧
    (on s → d.getLsbD 111 = false → ∃ t, exec (.streamDescriptorWrite n d) s = .next t ∧
      t.winNat (64 * n + 13) 1 = s.winNat (64 * n + 13) 1 % 128 ∧ (∀ a, a ≠ 64 * n + 13 → t.win.read a = s.win.read a) ∧ t.mem = s.mem ∧
      ∀ x, Tab.get? s.slots n = some x → Tab.get? t.slots n = some { x with enabled := false }) ∧
    (¬ on s → d.getLsbD 111 = false → ∃ t, exec (.streamDescriptorWrite n d) s = .next t ∧ t = { s with win := t.win } ∧
      t.winNat (64 * n) 64 = d.toNat ∧ ∀ a, a < 64 * n ∨ 64 * n + 64 ≤ a → t.win.read a = s.win.read a) ∧
    (¬ on s → d.getLsbD 111 = true → Tab.get? s.slots n = none →
      let s' : State := { s with win := s.win.writeNat (64 * n) 64 d.toNat }
      (descriptorOk d = false → s'.started = true → ∃ t, exec (.streamDescriptorWrite n d) s = .next t ∧ ¬ on t ∧ t = { s with win := t.win }) ∧
      (descriptorOk d = true → s'.started = true → ∀ s1 s2 s3 s4 s5 q p a v, s'.loadContext (recNat d 12 1) = s1 →
        s1.accessesDone (recNat d 12 1) s1.nextId = true →
        s1.frontName (recNat d 12 1) (BitVec.ofNat 64 (recNat d 0 8)) false = (s2, .ok q) →
        s2.frontName (recNat d 12 1) (BitVec.ofNat 64 (recNat d 16 8)) false = (s3, .ok p) →
        s3.frontName (recNat d 12 1) (BitVec.ofNat 64 (recNat d 24 8)) true = (s4, .ok a) → s4.frontReadAt a 36 = (s5, .ok v) →
        ∃ t x, exec (.streamDescriptorWrite n d) s = .next t ∧ t = { s5 with slots := t.slots } ∧ Tab.get? t.slots n = some x ∧
          x.enabled = true ∧ x.qbase.toNat = recNat d 0 8 ∧ x.qcap = recNat d 8 4 ∧ x.ctx = recNat d 12 1 ∧ x.cls = recNat d 13 1 % 4 ∧
          x.weight = recNat d 14 1 ∧ x.done = v % 2 ^ 64 ∧ x.fetched = x.done ∧ x.tail = x.done ∧ x.recs = []))) ∧
  (∀ (s : State) (n : Nat) (x : Slot) (s0 s1 : State) (w : Nat), Tab.get? s.slots n = some x → x.enabled = true → s.started = true →
    x.done = x.fetched → x.fetched < 2 ^ 64 → 1 ≤ x.qcap →
    (x.devappend = true ∧ x.tail = (x.fetched + 1) % 2 ^ 64 ∧ s0 = s ∨
      x.devappend = false ∧ x.tail = x.fetched ∧ ∃ s', s.frontRead x.ctx x.tailaddr 8 = (s', .ok ((x.fetched + 1) % 2 ^ 64)) ∧
        s0 = s'.modSlot n fun x => { x with tail := (x.fetched + 1) % 2 ^ 64 }) →
    s0.frontRead x.ctx (x.qbase + BitVec.ofNat 64 (64 * (x.fetched % x.qcap))) 64 = (s1, .ok w) →
    ∃ t, exec (.tailAdvance n) s = .next t ∧ Tab.get? t.slots n = some { x with
      tail := (x.fetched + 1) % 2 ^ 64, fetched := (x.fetched + 1) % 2 ^ 64,
      recs := x.recs ++ [{ seq := x.fetched, bytes := BitVec.ofNat 512 w, st := .fetched }] }) ∧
  (∀ (s : State) (n : Nat) (x : Slot) (r : StreamRec), Tab.get? s.slots n = some x → s.started = true →
    (∀ q ∈ x.recs, q.st ≠ .pendingLoad) → x.startable = some r →
    let good : Prop := recHeadOk r.bytes = true ∧ recBodyOk r.bytes = true
    let s0 : State := if recNat r.bytes 1 1 / 2 % 2 = 1 then s.dropCode fun _ => true else s
    let runs (t : State) (st : RecState) : Prop := ∃ y q, Tab.get? t.slots n = some y ∧ q ∈ y.recs ∧ q.seq = r.seq ∧ q.bytes = r.bytes ∧ q.st = st
    (¬ (recHeadOk r.bytes = true ∧ recBodyOk r.bytes = true) → ∃ t, exec (.recordStart n) s = .next t ∧ RecordEnds s t n r.seq 1 0 0) ∧
    (∀ k, recNat r.bytes 1 1 / 2 % 2 = 1 → (s0.core k).icache = []) ∧
    (good → recNat r.bytes 0 1 = 1 → ∃ t g, exec (.recordStart n) s = .next t ∧ runs t .running ∧ Tab.get? t.graphs s.nextId = some g ∧
      g.header = BitVec.ofNat 64 (recNat r.bytes 8 8) ∧ g.args = BitVec.ofNat 64 (recNat r.bytes 16 8) ∧ g.loaded = false ∧ g.slot = n ∧
      g.seq = r.seq ∧ g.ctx = x.ctx ∧ g.cls = x.cls ∧ t.mem = s.mem) ∧
    (good → recNat r.bytes 0 1 = 2 → (kernelOf r.bytes).unplaceable = false → (kernelOf r.bytes).coop = false →
      ∃ t l, exec (.recordStart n) s = .next t ∧ runs t .running ∧ Tab.get? t.launches s.nextId = some l ∧ l.kernel = kernelOf r.bytes ∧
        l.next = 0 ∧ l.live = 0 ∧ l.slot = n ∧ l.seq = r.seq ∧ l.ctx = x.ctx ∧ l.cls = x.cls ∧ l.since = s.timer ∧ t.mem = s.mem ∧
        l.headDie = some (if l.kernel.die = 1 then 0 else if l.kernel.die = 2 then 1 else s.lighterDie)) ∧
    (good → recNat r.bytes 0 1 = 2 → (kernelOf r.bytes).unplaceable = true →
      ∃ t, exec (.recordStart n) s = .next t ∧ RecordEnds s0 t n r.seq 2 0 0) ∧
    (good → recNat r.bytes 0 1 = 3 → ∀ sp pa s1 old m, s0.signalPlace x.ctx (BitVec.ofNat 64 (recNat r.bytes 8 8)) = (sp, .ok pa) →
      let sq : State := if recNat r.bytes 24 1 = 4 then sp.flushHosts else sp
      sp.homeHeld (cellsOf pa 8 0) = [] → (sq.holdPort pa).readHome pa 8 = (s1, old, m) →
      ∃ t, exec (.recordStart n) s = .next t ∧
        RecordEnds (s1.writeHome (cellsOf pa 8 ((recNat r.bytes 16 8 + (if recNat r.bytes 25 1 = 1 then old else 0)) % 2 ^ 64))) t n r.seq 0 0 0) ∧
    (good → recNat r.bytes 0 1 = 4 → ∀ sp pa, s0.signalPlace x.ctx (BitVec.ofNat 64 (recNat r.bytes 8 8)) = (sp, .ok pa) →
      ∃ t, exec (.recordStart n) s = .next t ∧ t.mem = s.mem ∧
        runs t (.waiting (if recNat r.bytes 34 2 = 0 then none else some (s.timer + 1000 * recNat r.bytes 34 2)) pa)) ∧
    (good → recNat r.bytes 0 1 = 5 → ∀ h, Tab.get? s.heads (recNat r.bytes 8 1) = some h →
      (h.enabled = true → ∃ t h', exec (.recordStart n) s = .next t ∧ runs t .running ∧ t.mem = s.mem ∧
        Tab.get? t.heads (recNat r.bytes 8 1) = some h' ∧
        h' = { h with flips := h.flips ++
          [(n, r.seq, BitVec.ofNat 64 (recNat r.bytes 16 8), recNat r.bytes 12 4, recNat r.bytes 9 1, x.ctx)] }) ∧
      (h.enabled = false → ∃ t, exec (.recordStart n) s = .next t ∧ RecordEnds s0 t n r.seq 1 0 0))) ∧
  (∀ (s : State) (id : Nat) (l : Launch) (s1 : State), Tab.get? s.launches id = some l → l.kernel.grid ≤ l.next → l.live = 0 →
    (s.harvestAll fun t => t.ctx = l.ctx).cleanPart = (s1, true) →
    ∃ t, exec (.launchComplete id) s = .next t ∧ Tab.get? t.launches id = none ∧
      RecordEnds { s1 with launches := Tab.erase s1.launches id } t l.slot l.seq (if l.failed.isSome then 5 else 0) (l.failed.getD 0) 0) ∧
  ∀ (s : State) (n seq : Nat) (r : StreamRec) (d : Option Nat) (pa : Nat), s.waitingRec n seq = some (r, d, pa) →
    ((∀ t, d = some t → s.timer < t) → (∀ k, placeOf pa = .stack k → s.inHandover k = false) → (placeOf pa = .host → s.linkFull = true) → ∀ s1 v,
      (s.holdPort pa).frontReadAt pa 8 = (s1, .ok v) →
      let m := v &&& recNat r.bytes 24 8
      let c := recNat r.bytes 33 1
      let k := recNat r.bytes 16 8
      let holds : Prop := c = 0 ∧ m = k ∨ c = 1 ∧ m ≠ k ∨ c = 2 ∧ k ≤ m ∨ 2 < c ∧ m < k
      (holds → ∃ t, exec (.waitConditionMet n seq) s = .next t ∧ RecordEnds s1 t n seq 0 0 0) ∧
      (¬ holds → exec (.waitConditionMet n seq) s = .next s1)) ∧
    ∀ t, d = some t → t ≤ s.timer → ∃ u, exec (.waitTimeout n seq) s = .next u ∧ RecordEnds s u n seq 7 0 0

/-- Graphs, their tile tasks and the raster units at their events (16 R357 to R366, 17 R376 to R385). -/
def Obligations.GraphEvents : Prop :=
  (∀ (s : State) (id : Nat) (g : Graph), Tab.get? s.graphs id = some g → g.loaded = true →
    exec (.graphLoad id) s = .next (s.settleGraph id)) ∧
  (∀ (s : State) (id : Nat) (g : Graph) (s1 : State), Tab.get? s.graphs id = some g → g.loaded = false →
    (∀ d i, s.readGraph g = (s1, .fail d i) → ∃ t, exec (.graphLoad id) s = .next t ∧ Tab.get? t.graphs id = none ∧
      RecordEnds { s1 with graphs := Tab.erase s1.graphs id } t g.slot g.seq 3 d i) ∧
    ∀ g', s.readGraph g = (s1, .ok g') →
      (2 ^ 20 < s1.boardUsed 0 + g'.entries 0 ∨ 2 ^ 20 < s1.boardUsed 1 + g'.entries 1 → exec (.graphLoad id) s = .next s1) ∧
      (s1.boardUsed 0 + g'.entries 0 ≤ 2 ^ 20 → s1.boardUsed 1 + g'.entries 1 ≤ 2 ^ 20 →
        let y : Graph := { g' with loaded := true, score := g'.board }
        exec (.graphLoad id) s =
          .next (((({ s1 with graphs := Tab.set s1.graphs id y } : State).startRasters id y).noteWork id).settleGraph id))) ∧
  (∀ (s : State) (k : Nat) (err : Bool) (x : Task) (g : Graph) (p : Pass) (s0 s1 : State), Tab.get? s.tasks k = some x →
    s.taskPass x = some (g, p) → x.st = 2 →
    (if p.kind = 1 ∧ x.phase ≠ 3 then s.storeTile g p x.tile x.tm else (s, .ok ())) = (s0, .ok ()) → s0.commitOf k x = (s1, true) →
    let s2 : State := if p.kind = 4 ∨ x.phase = 3 then s1 else if err then s1.noteError.failGraph x.graph 4 else s1.retireTile x.graph x.pass p x.tile
    ∃ t, exec (.tileTaskRetire ⟨k, err⟩) s = .next t ∧ Tab.get? t.tasks k = none ∧ t = ((s2.endTask k).noteWork x.graph).settleGraph x.graph) ∧
  (∀ (s : State) (k : Nat) (r : RasterPass) (g : Graph) (p : Pass), Tab.get? s.rasters k = some r → Tab.get? s.graphs r.graph = some g →
    g.passes[r.pass]? = some p →
    (r.flushing = true → s.flushDone r = true →
      exec (.frontEndBatch k) s = .next { s with rasters := Tab.set s.rasters k { r with flushing := false, binned := 0 } }) ∧
    ∀ b v, r.flushing = false → s.asleep (360 + p.die) = false → p.vkernels[r.sub]? = some v →
      Tab.get? r.batches (r.sub * 2 ^ 48 + r.nextBatch) = some b →
      let out := p.batchPrims b r.accepted
      let old := (Tab.get? r.prims r.sub).getD []
      let bytes := binSize old.length out.1.length
      let last : Prop := r.nextBatch + 1 = p.vgrid r.sub * v.gang * v.warps
      (r.binned ≠ 0 → p.rb 48 4 < r.binned + bytes →
        exec (.frontEndBatch k) s = .next { s with rasters := Tab.set s.rasters k { r with flushing := true, flushed := old.length } }) ∧
      (r.binned = 0 ∨ r.binned + bytes ≤ p.rb 48 4 →
        ∃ t r', exec (.frontEndBatch k) s = .next t ∧
          t = { s.writeBins g.ctx (p.rb 40 8 + r.binned) (min bytes (p.rb 48 4 - r.binned)) with rasters := t.rasters } ∧
          Tab.get? t.rasters k = some r' ∧ Tab.get? r'.prims r.sub = some (old ++ out.1) ∧
          Tab.get? r'.batches (r.sub * 2 ^ 48 + r.nextBatch) = none ∧ r'.vnext = r.vnext ∧ r'.flushing = false ∧
          (last → r'.sub = r.sub + 1 ∧ r'.nextBatch = 0 ∧ r'.accepted = 0 ∧ r'.binned = 0) ∧
          (¬ last → r'.sub = r.sub ∧ r'.nextBatch = r.nextBatch + 1 ∧ r'.accepted = out.2 ∧ r'.binned = r.binned + bytes))) ∧
  (∀ (s : State) (k : Nat) (x : Task) (g : Graph) (p : Pass) (r : RasterPass), Tab.get? s.tasks k = some x → s.taskPass x = some (g, p) →
    s.rasterOf x.graph x.pass = some r → p.kind = 1 → x.st = 1 → x.phase = 0 →
    let prims := ((Tab.get? r.prims x.sub).getD []).take (r.open_ x.sub)
    (x.rastered = false → x.sub < r.sub ∨ x.drawn < r.open_ x.sub →
      ∃ t y, exec (.subpassRasterise k) s = .next t ∧ t = { s with tasks := t.tasks } ∧ Tab.get? t.tasks k = some y ∧
        y = ((prims.zip (List.range prims.length)).drop x.drawn).foldl (fun (y : Task) q =>
          p.rasterPrim (passTs g p) (x.tile % p.gx) (x.tile / p.gx) x.sub q.2 q.1 y)
            { x with rastered := decide (x.sub < r.sub), drawn := prims.length }) ∧
    (x.rastered = true → x.gangs = [] → (∀ f ∈ x.frags, f.st = 3) →
      exec (.subpassRasterise k) s = .next (({ s with tasks := Tab.set s.tasks k (x.advance p) } : State).noteWork x.graph) ∧
      (x.advance p).sub = x.sub + 1 ∧ (x.advance p).rastered = false ∧ (x.advance p).frags = [])) ∧
  (∀ (s : State) (k core : Nat) (x : Task) (g : Graph) (p : Pass) (r : RasterPass) (v : Kernel), Tab.get? s.tasks k = some x →
    s.taskPass x = some (g, p) → s.rasterOf x.graph x.pass = some r → p.kind = 1 → x.st = 1 → x.phase = 0 →
    p.fkernels[x.sub]? = some v → x.core = some core → s.throttle < 3 →
    (∀ n ∈ x.gangs, ∀ y, Tab.get? s.gangs n = some y → y.victim = false ∧ y.saved = none) →
    let ts := passTs g p
    let prims := (Tab.get? r.prims x.sub).getD []
    let quads := takeQuads (x.frags.filter fun f => f.st = 0) [] (x.frags.length + 1)
    let lanes := (quads.zip (List.range quads.length)).flatMap fun q => q.1.filterMap fun f => prims[f.prim]?.map fun t => (f.lane q.2, f, t)
    let sp : Memory := lanes.foldl (fun (m : Memory) l => m.writeAll (l.2.1.staged p ts (x.tile % p.gx) (x.tile / p.gx) l.1 l.2.2)) []
    lanes ≠ [] → ∀ s1 id c, s.seatGang { taskStart g p v k (Config.fragmentIndex s.free).toNat .rasterFragment 0 with
      tx := x.tile % p.gx, ty := x.tile / p.gx, g8 := lanes.length, g9 := x.sub } (fun c => c = core) sp = .done s1 id c →
    let start (f : Frag) : Frag := if (lanes.map (·.2.1.seq)).contains f.seq then { f with st := 1 } else f
    exec (.fragmentWarpStart k) s = .next (({ s1 with tasks := Tab.modify s1.tasks k fun x =>
      { x with gangs := x.gangs ++ [id], frags := x.frags.map start } } : State).fillFragments id lanes)) ∧
  ∀ (s : State) (k : Nat) (x : Task) (g : Graph) (p : Pass) (r : RasterPass) (f : Frag) (q : Prim), Tab.get? s.tasks k = some x →
    s.taskPass x = some (g, p) → s.rasterOf x.graph x.pass = some r →
    let free (f : Frag) : Bool := x.frags.all fun h => !(h.seq < f.seq && h.x = f.x && h.y = f.y && (h.cover &&& f.cover) ≠ 0) || h.st = 3
    x.frags.find? (fun f => f.st = 2 && (p.early x.sub || f.discarded || free f)) = some f →
    ((Tab.get? r.prims x.sub).getD [])[f.prim]? = some q →
    ∃ t y, exec (.lateTest k) s = .next t ∧ t = { s with tasks := t.tasks } ∧ Tab.get? t.tasks k = some y ∧
      y.frags = x.frags.map (fun h => if h.seq = f.seq then { h with st := 3 } else h) ∧
      (p.early x.sub = true ∨ f.discarded = true → y.tm = x.tm) ∧
      (p.early x.sub = false → f.discarded = false →
        y.tm = (p.testFrag (passTs g p) (x.tile % p.gx) (x.tile / p.gx) q f x.tm).2)

/-! ### Scheduling and power -/

/-- Dispatch, waiting, pre-emption, the watchdog, migration and power at their events (18 R389 to R409, 24 R487 to R490), and what a warp
holds at its start (06 R133). -/
def Obligations.SchedulingEvents : Prop :=
  (∀ wg gang ctx core part slot index vregs accs gidx pc g age stage task level spill utvec,
    let x := Warp.start wg gang ctx core part slot index vregs accs gidx pc g age stage task level spill utvec
    (∀ i, i < 32 → x.getReg (.v 0) i = BitVec.ofNat 32 (32 * index + i)) ∧ (∀ n i, 1 ≤ n → i < 32 → x.getReg (.v n) i = 0) ∧
      (∀ n i, x.getReg (.o n) i = 0) ∧ x.g = g ∧ x.fpstat = 0 ∧ x.fptrap = 0 ∧ x.stack = [] ∧ x.pend = [] ∧
      ∃ sp, x.splits = [(0, sp)] ∧ sp.pc = pc ∧ sp.mask = 0xFFFFFFFF ∧ sp.level = level ∧ sp.latches.valid = 0 ∧ sp.frame.depth = 0 ∧
        sp.frame.loops = [] ∧ sp.wait = .ready) ∧
  (∀ (s : State) (die : Nat), die < 2 → s.throttle < 3 →
    (∀ c t, c ≤ s.floorClass die → (∀ b, b < c → s.tryClass b die = .no) → s.tryClass c die = .done t → exec (.dispatchOpportunity die) s = .next t) ∧
    ((∀ c, c ≤ s.floorClass die → s.tryClass c die = .no) → exec (.dispatchOpportunity die) s = .next s)) ∧
  (∀ (s : State) (die id : Nat) (l : Launch) (cl : Nat) (seats : List Seat) (rooms : Tab Room) (s1 : State) (k : Nat), l.kernel.coop = false →
    seatsOnDie s.rooms die (s.die die).lastCluster l.kernel l.kernel.grotto (fun _ => true) = some (cl, seats, rooms) →
    s.seat (launchStart id l l.next die) seats = (s1, some k) → Tab.get? s1.launches id = some l →
    ∃ t l', s.placeLaunch id l die = .done t ∧ Tab.get? t.launches id = some l' ∧ l'.next = l.next + 1 ∧ l'.live = l.live + 1 ∧
      l'.blocking = false ∧ l'.promoted = false ∧ (l.next + 1 < l.kernel.grid → l'.since = s1.timer) ∧ t.warps = s1.warps ∧ t.gangs = s1.gangs) ∧
  (∀ (s : State) (die id : Nat) (l : Launch) (xs : List (Nat × Nat × List Seat)) (s1 : State), l.kernel.coop = true → s.coopFits l = some xs →
    s.acquireCores (xs.flatMap fun x => x.2.2.map (·.core)) = (s1, true) →
    ∃ t, s.placeLaunch id l die = .done t ∧ t = { (s1.seatAll id l xs).1 with launches := t.launches } ∧
      ∀ l1, Tab.get? (s1.seatAll id l xs).1.launches id = some l1 →
        Tab.get? t.launches id = some { l1 with next := l.kernel.grid, live := l.kernel.grid, blocking := false }) ∧
  (∀ (s : State) (id t cls : Nat) (p : Bool), s.waiting id = some (t, cls, p) →
    ((effClass cls p = 1 ∨ effClass cls p = 2) → t + 2000000 ≤ s.timer →
      ∃ u, exec (.classWaitLimit id) s = .next u ∧ u = { s with launches := u.launches, gangs := u.gangs } ∧
        (∀ l, Tab.get? s.launches id = some l → Tab.get? u.launches id = some { l with blocking := true }) ∧
        (∀ g, Tab.get? s.gangs id = some g → Tab.get? u.gangs id = some { g with blocking := true })) ∧
    (cls = 3 → t + 100000000 ≤ s.timer →
      ∃ u, exec (.class3Promotion id) s = .next u ∧ u = { s with launches := u.launches, gangs := u.gangs } ∧
        (∀ l, Tab.get? s.launches id = some l → Tab.get? u.launches id = some { l with promoted := true }) ∧
        (∀ g, Tab.get? s.gangs id = some g → Tab.get? u.gangs id = some { g with promoted := true }))) ∧
  (∀ (s : State) (id : Nat) (g : Graph), s.waiting id = none → Tab.get? s.graphs id = some g →
    let since (w : Work) (ns : Nat) : Prop := ∃ t, (w, t) ∈ g.waits ∧ t + ns ≤ s.timer
    let mid (w : Work) : Prop := effClass g.cls (g.promoted.contains w) = 1 ∨ effClass g.cls (g.promoted.contains w) = 2
    (∃ u h, exec (.classWaitLimit id) s = .next u ∧ u = { s with graphs := u.graphs } ∧ Tab.get? u.graphs id = some h ∧
      h = { g with blocking := h.blocking } ∧ ∀ w, w ∈ h.blocking ↔ w ∈ g.blocking ∨ mid w ∧ since w 2000000) ∧
    ∃ u h, exec (.class3Promotion id) s = .next u ∧ u = { s with graphs := u.graphs } ∧ Tab.get? u.graphs id = some h ∧
      h = { g with promoted := h.promoted } ∧ ∀ w, w ∈ h.promoted ↔ w ∈ g.promoted ∨ g.cls = 3 ∧ since w 100000000) ∧
  (∀ (s : State) (id : Nat) (a : Asker) (dies : List Nat) (before after : List (Asker × List Nat)) (vs : List Victim),
    s.askers0 id = before ++ (a, dies) :: after → (∀ y ∈ before, s.requestVictims y = none) →
    (∀ d ∈ dies, s.preempting d = false ∧ ∀ k, k < 3 → s.askerFits a (3 * d + k) = false) →
    (dies.findSome? (fun d => s.chooseCluster a d) = some vs ∨
      dies.findSome? (fun d => s.chooseCluster a d) = none ∧ s.chooseDies a dies = some vs) →
    exec (.class0Request id) s = .next (((vs.zip (List.range vs.length)).foldl (fun (t : State) v => t.takeVictim t.nextId v.2 v.1) s).bump) ∧
    ∀ v ∈ vs, v.abort = false → ∀ (s1 : State) (n : Nat), ∀ g ∈ v.gangs, ∀ x, Tab.get? s1.gangs g = some x →
      ∃ y, Tab.get? (s1.takeVictim s1.nextId n v).gangs g = some y ∧ y.victim = true ∧ y.victimOf = (s1.nextId, n) ∧ y.victimAt = s1.timer) ∧
  (∀ (s : State) (w : Nat) (x : Warp) (g : Gang), s.warp? w = some x → Tab.get? s.gangs x.gang = some g → g.victim = true → g.saved = none →
    x.stopping = false → (x.holdsSection = false ∨ g.victimAt + 5000 ≤ s.timer) →
    ∃ t y, exec (.orderedSectionTimeout w) s = .next t ∧ t = s.stopWarp w ∧ t.warp? w = some y ∧ y.stopping = true) ∧
  (∀ (s : State) (id : Nat) (g : Gang) (s1 : State), Tab.get? s.gangs id = some g → g.victim = true → g.saved = none →
    (∀ w ∈ s.gangWarps id, (∀ x, s.warp? w = some x → x.stopping = true) ∧ s.drained w = true) →
    (s.withdrawAll (s.gangWarps id)).cleanCores (s.gangCores id) = (s1, true) →
    ∃ t g' n, exec (.victimSave id) s = .next t ∧ Tab.get? t.gangs id = some g' ∧ g'.saved = some n ∧ g'.victimAt = s1.timer) ∧
  (∀ (s : State) (id : Nat) (g : Gang) (s1 : State) (es : List Nat) (i c : Nat), Tab.get? s.gangs id = some g → g.saved.isSome = true →
    g.copied = false → (s.saveArea g.ctx).1 ≠ 0 → (s.saveArea g.ctx).1.toNat % 4096 = 0 → 4 ≤ (s.saveArea g.ctx).2 →
    s.directory g.ctx (s.saveArea g.ctx).1 = (s1, some es) →
    let n := (s1.gangBytes id + 65535) / 65536
    firstIdx es (fun _ e => byteField e 14 2 = 0) = some i → freeChunks es (s.saveArea g.ctx).2 n = some c →
    (s1.areaNames g.ctx ((s.saveArea g.ctx).1 + BitVec.ofNat 64 (65536 * c)) (s1.gangBytes id)).isSome = true →
    (s1.areaNames g.ctx ((s.saveArea g.ctx).1 + BitVec.ofNat 64 (16 * i)) 16).isSome = true →
    ∃ t g', exec (.saveAreaCopy ⟨id, false⟩) s = .next t ∧ t = s1.copySave id g (s.saveArea g.ctx).1 i c n ∧
      (Tab.get? s1.gangs id = some g → Tab.get? t.gangs id = some g' ∧ g'.copied = true ∧ g'.chunk = some (i, c, n))) ∧
  (∀ (s : State) (id : Nat) (g : Gang), Tab.get? s.gangs id = some g → g.saved.isSome = true →
    ∃ t, exec (.saveAreaCopy ⟨id, true⟩) s = .next t ∧ t = s.loseSave id g ∧ Tab.get? t.gangs id = none ∧
      t.mgmt.uncorr = s.mgmt.uncorr + 1) ∧
  (∀ (s : State) (ctx : Nat), ctx < 32 →
    (s.stuck ctx = true → s.passed (s.ctx ctx).wdSince (s.winNat (0x80C + 16 * ctx) 2) = true →
      let hits := (s.residents ctx).flatMap fun w => w.2.splits.filterMap fun k =>
        if k.2.live = 0 then none else (s.blockedIn w.2 k.2).map fun sub => (w.1, k.1, sub, k.2.waitAt)
      let s1 : State := ((s.residents ctx).map (·.1)).foldl State.withdrawWaits (s.releaseSections ctx)
      exec (.watchdogFire ctx) s = .next ((hits.foldl (fun (s : State) h =>
        (s.modWarp h.1 fun x => x.modSplit h.2.1 fun sp => { sp with latches := .empty }).waitTrap h.1 h.2.1
          { cause := 0x14, sub := h.2.2.1 } h.2.2.2) s1).modCtx ctx fun x => { x with wdSince := none })) ∧
    ((s.ctx ctx).xwDone = false → s.parked ctx = true → s.passed (s.ctx ctx).xwSince (s.winNat (0x80E + 16 * ctx) 2) = true →
      ∃ t, exec (.xwaitTimeout ctx) s = .next t ∧ (t.ctx ctx).event.getLsbD 0 = true ∧ (t.ctx ctx).xwDone = true ∧ t.warps = s.warps ∧
        t.mem = s.mem ∧ (t.die 0).written = ((s.die 0).written + 1) % 2 ^ 64)) ∧
  (∀ (s : State) (core c : Nat), core < 24 →
    let logged (t : State) : Prop := (t.die (dieOf core)).written = ((s.die (dieOf core)).written + 1) % 2 ^ 64
    let due : Prop := ∀ t, (s.core core).sampled = some t → t + 10000000 ≤ s.timer
    (¬ due → exec (.thermalInterval core c) s = .next s) ∧
    ((s.core core).halfRate = false → c < 95 → due →
      exec (.thermalInterval core c) s = .next (s.modCore core fun x => { x with sampled := some s.timer })) ∧
    ((s.core core).halfRate = false → 105 ≤ c → due → ∃ t, exec (.thermalInterval core c) s = .next t ∧ (t.core core).halfRate = true ∧ logged t ∧
      t.mem = s.mem ∧ t.warps = s.warps) ∧
    ((s.core core).halfRate = true → c < 100 → due → ∃ t, exec (.thermalInterval core c) s = .next t ∧ (t.core core).halfRate = false ∧ logged t ∧
      t.mem = s.mem ∧ t.warps = s.warps)) ∧
  (∀ (s : State) (k : Nat) (x : Workgroup) (at_ : Nat) (begun : Bool) (g : Gang) (seat : Seat) (s1 s2 : State), Tab.get? s.wgs k = some x →
    Tab.get? s.moves k = some (at_, begun) → Tab.get? s.gangs x.gang = some g →
    let goes : Prop := s.migratable k x = true ∧ (begun = true ∨ s.timer < at_ + 50000 ∧ s.grottoCopies k x = false)
    let ws := (s.wgWarps k).map (·.1)
    let s0 : State := ws.foldl State.stopWarp { s with moves := Tab.set s.moves k (at_, true) }
    (goes → (∀ w ∈ ws, s0.drained w = true) → s0.pagesBusy g x.core = false → s0.migrationSeat k x = some seat →
      (s0.withdrawAll ws).cleanColumn x.core (fun _ => true) = (s1, true) → s1.acquireColumn seat.core = (s2, true) →
      ∃ t, exec (.migration k) s = .next t ∧ t = s2.migrate k x g seat ∧ Tab.get? t.moves k = none) ∧
    (goes → (∀ w ∈ ws, s0.drained w = true) → s0.pagesBusy g x.core = false → s0.migrationSeat k x = none →
      ∃ t, exec (.migration k) s = .next t ∧ t = { s0 with warps := t.warps, moves := t.moves } ∧ Tab.get? t.moves k = none ∧
        ∀ w ∈ ws, ∀ y, s0.warp? w = some y → t.warp? w = some { y with stopping := y.stopping && g.victim }) ∧
    (s.migratable k x = false → exec (.migration k) s = .next (s.stayWg k g.victim)) ∧
    (goes → (∃ w ∈ ws, s0.drained w = false) → exec (.migration k) s = .next s0) ∧
    (begun = false → at_ + 50000 ≤ s.timer →
      ∃ t, exec (.migrationAbandon k) s = .next t ∧ t = { s with moves := t.moves } ∧ Tab.get? t.moves k = none)) ∧
  (∀ (s : State) (mw : Nat), exec (.powerSample mw) s = .next { s with throttle := if 350000 < mw then min 3 (s.throttle + 1) else 0 }) ∧
  (∀ (s : State) (u x : Nat), s.sleeps u = some x →
    ∃ t, exec (.powerStateEntry u) s = .next t ∧ Tab.get? t.power u = some x ∧ t.warps = s.warps ∧
      (∀ q, q ≠ u → Tab.get? t.power q = Tab.get? s.power q) ∧ (x ≠ 2 → t = { s with power := t.power }) ∧
      ((∀ n, u ≠ 362 + n ∨ 8 ≤ n) → t.mem = s.mem)) ∧
  ∀ (s : State) (u : Nat), ∃ t, exec (.unitWake u) s = .next t ∧ t = { s with power := t.power } ∧ t.asleep u = false ∧
    ∀ q, q ≠ u → Tab.get? t.power q = Tab.get? s.power q

/-! ### The host -/

/-- A host line l after a snoop of the half at pa to the state st: the half's dirty bytes are gone from it, its state is at most st. -/
def Snooped (l l' : Line) (pa st : Nat) : Prop :=
  let hi : Bool := decide (pa / 64 % 2 = 1)
  (∀ k, k < 128 → l'.dirty.getLsbD k = (l.dirty.getLsbD k && decide (k / 64 ≠ pa / 64 % 2))) ∧ l'.data = l.data ∧ l'.poison = l.poison ∧
  l'.h0 = (if hi then l.h0 else min st l.h0) ∧ l'.h1 = (if hi then min st l.h1 else l.h1)

/-- The memory that a snoop of the half at pa leaves, of a line l: exactly the dirty bytes of the half have been supplied. -/
def SnoopWrites (l : Line) (pa : Nat) (s t : State) : Prop :=
  (∀ k, k < 128 → t.mem.read (128 * (pa / 128) + k) =
    if l.dirty.getLsbD k && decide (k / 64 = pa / 64 % 2) then lineByte l.data k else s.mem.read (128 * (pa / 128) + k)) ∧
  ∀ a, a / 128 ≠ pa / 128 → t.mem.read a = s.mem.read a

/-- What the host has been sent of a half of the line l: its 64 bytes, once, where it was held dirty. -/
def SnoopSends (l : Line) (pa : Nat) (s t : State) : Prop :=
  let d : List Nat := (List.range 128).filter fun k => l.dirty.getLsbD k && decide (k / 64 = pa / 64 % 2)
  t.sent = if d = [] then s.sent else s.sent ++ [.snooped pa (halfOf l.data (pa / 64 % 2 = 1))]

/-- The runs of a scanned line read one after the other from s to t: the bytes shown, black where a page faults, and the pages that fault. -/
def Scans (ctx : Nat) : List (DWord × Nat) → State → State → List Byte → List DWord → Prop
  | [], s, t, px, bad => t = s ∧ px = [] ∧ bad = []
  | (va, n) :: runs, s, t, px, bad => ∃ s1 px1 bad1, Scans ctx runs s1 t px1 bad1 ∧
      ((∃ v, s.frontRead ctx va n = (s1, .ok v) ∧ px = bytesOf n v ++ px1 ∧ bad = bad1) ∨
        s.frontRead ctx va n = (s1, .fault) ∧ px = List.replicate n 0 ++ px1 ∧ bad = (va - BitVec.ofNat 64 (va.toNat % 4096)) :: bad1)

/-- The host's accesses, snoops, register writes, link and display heads at their events (19 R416, 22 R469 to R483). A host read of a
byte without a stack, of an OWNER none, or before the part runs, is answered with poison, and such a write is discarded. A request that meets
a back-invalidation yields and waits, and is counted up to four times; one that finds an atomic at its line waits; another is performed at
the home, where exactly the bytes of the mask are written. How a snoop names the agent that it meets is the model's choice (assumption 48). -/
def Obligations.HostEvents : Prop :=
  let alone (s : State) (key : Nat) : Prop := ∀ c ∈ s.clusters, ∀ l ∈ c.2, s.sameLine l.1 key = false
  let reached (s : State) (pa n : Nat) : Prop := s.linkFull = true ∧ pa < 2 ^ 37 ∧ s.mgmt.phase = .running ∧
    placeOf pa = .stack n ∧ (s.home n).owner.owner ≠ 2 ∧ (s.home n).failed = false
  let halfByte (pa : Nat) (mask : BitVec 64) (data : BitVec 512) (s t : State) : Prop :=
    (∀ k, k < 64 → t.mem.read (pa / 64 * 64 + k) =
      if mask.getLsbD k then data.extractLsb' (8 * k) 8 else s.mem.read (pa / 64 * 64 + k)) ∧
    ∀ a, a / 64 ≠ pa / 64 → t.mem.read a = s.mem.read a
  (∀ (s : State) (pa n : Nat) (x : Bool) (mask : BitVec 64) (data : BitVec 512),
    let free : Prop := ∀ r ∈ s.homeQ, s.sameLine r.line (pa / 128) = false
    let waits (i : Instr) (r : HomeReq) : Prop := exec i s = .next { s with homeQ := s.homeQ ++ [r] }
    (s.linkFull = false ∨ 2 ^ 37 ≤ pa → exec (.hostMemRead pa x) s = .next s ∧ (placeOf pa ≠ .host → exec (.hostMemWrite pa mask data) s = .next s)) ∧
    (s.linkFull = true → pa < 2 ^ 37 → (∀ n, ¬ reached s pa n) →
      exec (.hostMemRead pa x) s = .next { s with sent := s.sent ++ [.read pa none] } ∧ exec (.hostMemWrite pa mask data) s = .next s) ∧
    (reached s pa n → ¬ free → waits (.hostMemRead pa x) (.hostRead pa x) ∧ waits (.hostMemWrite pa mask data) (.hostWrite pa mask data)) ∧
    (reached s pa n → free → (∃ p ∈ s.snoops, p.line = pa / 128 ∧ p.answered = false) →
      ∀ q ∈ ([(.hostMemRead pa x, .hostRead pa x), (.hostMemWrite pa mask data, .hostWrite pa mask data)] : List (Instr × HomeReq)),
        ∃ t, exec q.1 s = .next t ∧ t = { s with yields := t.yields, homeQ := s.homeQ ++ [q.2] } ∧
          Tab.get? t.yields (pa / 128) = some (min 4 ((Tab.get? s.yields (pa / 128)).getD 0 + 1))) ∧
    (reached s pa n → free → (∀ p ∈ s.snoops, p.line ≠ pa / 128) →
      s.atomicBusy (pa / 128) = true ∨ s.inHandover n = true ∨ s.asleep (362 + n) = true →
      waits (.hostMemRead pa x) (.hostRead pa x) ∧ waits (.hostMemWrite pa mask data) (.hostWrite pa mask data)) ∧
    (reached s pa n → free → (∀ p ∈ s.snoops, p.line ≠ pa / 128) → s.atomicBusy (pa / 128) = false → s.reservedFor (pa / 128) = none →
      s.inHandover n = false → s.asleep (362 + n) = false → alone s (pa / 128) →
      (s.errEntry (pa / 128) = none → s.memMark (pa / 64 * 64) 64 = 0 → ∃ t v d, exec (.hostMemRead pa x) s = .next t ∧
        t = { s with hostHalf := t.hostHalf, yields := t.yields, sent := s.sent ++ [.read pa (some d)] } ∧
        (∀ k, k < 64 → d.extractLsb' (8 * k) 8 = s.mem.read (pa / 64 * 64 + k)) ∧ Tab.get? t.yields (pa / 128) = none ∧
        Tab.get? t.hostHalf (pa / 64) = some v ∧ (x = true → v = 2) ∧ (x = false → v = max 1 ((Tab.get? s.hostHalf (pa / 64)).getD 0)) ∧
        ∀ q, q ≠ pa / 64 → Tab.get? t.hostHalf q = Tab.get? s.hostHalf q) ∧
      (s.errEntry (pa / 128) ≠ none ∨ s.memMark (pa / 64 * 64) 64 ≠ 0 → ∃ t, exec (.hostMemRead pa x) s = .next t ∧
        t = { s with yields := t.yields, sent := s.sent ++ [.read pa none] }) ∧
      (s.tokenOf pa = none → ∃ t, exec (.hostMemWrite pa mask data) s = .next t ∧ halfByte pa mask data s t ∧
        Tab.get? t.yields (pa / 128) = none ∧ t.warps = s.warps ∧ t.cores = s.cores)) ∧
    (placeOf pa = .host → s.deviceHolds pa = true → exec (.hostMemWrite pa mask data) s = .next s) ∧
    (placeOf pa = .host → s.deviceHolds pa = false → ∃ t, exec (.hostMemWrite pa mask data) s = .next t ∧ halfByte pa mask data s t ∧
      t = { s with mem := t.mem })) ∧
  (∀ (s : State) (line half : Nat) (mask : BitVec 64) (data : BitVec 512) (p : Snoop), half < 2 → 128 * line < 2 ^ 37 →
    s.snoops.find? (fun p => p.line = line && p.half = half && !p.answered) = some p →
    ∃ t, exec (.birsp line half mask data) s = .next t ∧
      (∀ q, q ∈ t.snoops ∧ q.line = line ∧ q.half = half → q.answered = true ∧ s.stillAsks p.asker = true) ∧
      (∀ q, ¬ (q.line = line ∧ q.half = half) → (q ∈ t.snoops ↔ q ∈ s.snoops)) ∧
      Tab.get? t.hostHalf (2 * line + half) = (if p.inv then none else (Tab.get? s.hostHalf (2 * line + half)).map fun _ => 1) ∧
      halfByte (64 * (2 * line + half)) (if Tab.get? s.hostHalf (2 * line + half) = some 2 then mask else 0) data s t ∧
      t.warps = s.warps ∧ t.cores = s.cores) ∧
  (∀ (s : State) (core pa : Nat),
    let sends (l : Line) : Prop := exec (.snpcur core pa) s = .next { s with sent := s.sent ++ [.snooped pa (halfOf l.data (pa / 64 % 2 = 1))] }
    (hostKey (pa / 128) = false → exec (.snpcur core pa) s = .next s) ∧
    (hostKey (pa / 128) = true →
      (core = 24 → if pa / 64 ∈ s.port then sends (s.homeCopy (pa / 128) 3) else exec (.snpcur core pa) s = .next s) ∧
      (24 < core → match s.clusterLine (core - 25) (pa / 128) with
        | some l => if l.half pa ≠ 0 then sends l else exec (.snpcur core pa) s = .next s
        | none => exec (.snpcur core pa) s = .next s) ∧
      (core < 24 → match ((s.core core).lines.filter fun l => physKey l.1 = pa / 128 && l.2.half pa ≠ 0) with
        | [] => exec (.snpcur core pa) s = .next s
        | p :: _ => sends p.2)) ∧
    ∀ p ∈ ([(Instr.snpdata core pa, 1), (Instr.snpinv core pa, 0)] : List (Instr × Nat)),
      (hostKey (pa / 128) = false → exec p.1 s = .next s) ∧
      (hostKey (pa / 128) = true → core = 24 →
        (s.atomicBusy (pa / 128) = true ∨ pa / 64 ∉ s.port → exec p.1 s = .next s) ∧
        (s.atomicBusy (pa / 128) = false → pa / 64 ∈ s.port → ∃ t d, exec p.1 s = .next t ∧
          t = { s with port := t.port, sent := s.sent ++ [.snooped pa d] } ∧ (∀ h, h ∈ t.port ↔ h ∈ s.port ∧ h ≠ pa / 64) ∧
          ∀ k, k < 64 → d.extractLsb' (8 * k) 8 = s.mem.read (physKey (pa / 128) * 128 + pa / 64 % 2 * 64 + k))) ∧
      (hostKey (pa / 128) = true → 24 < core → pa < 2 ^ 52 →
        (s.clusterLine (core - 25) (pa / 128) = none → exec p.1 s = .next s) ∧
        ∀ l, s.clusterLine (core - 25) (pa / 128) = some l → ∃ t l', exec p.1 s = .next t ∧ Snooped l l' pa p.2 ∧
          t.clusterLine (core - 25) (pa / 128) = (if l'.h0 = 0 ∧ l'.h1 = 0 then none else some l') ∧ SnoopWrites l pa s t ∧ SnoopSends l pa s t ∧ t.cores = s.cores ∧
          t.warps = s.warps) ∧
      (hostKey (pa / 128) = true → core < 24 →
        ((s.core core).lines.filter (fun l => physKey l.1 = pa / 128) = [] → exec p.1 s = .next s) ∧
        ∀ key l, (s.core core).lines.filter (fun l => physKey l.1 = pa / 128) = [(key, l)] → ∃ t l', exec p.1 s = .next t ∧ Snooped l l' pa p.2 ∧
          Tab.get? (t.core core).lines key = (if l'.h0 = 0 ∧ l'.h1 = 0 then none else some l') ∧
          (∀ k, k ≠ key → Tab.get? (t.core core).lines k = Tab.get? (s.core core).lines k) ∧ SnoopWrites l pa s t ∧ SnoopSends l pa s t ∧ t.clusters = s.clusters ∧
          t.warps = s.warps)) ∧
  (∀ (s : State) (off : Nat) (wide : Bool) (data : BitVec 64),
    (off % (if wide then 8 else 4) ≠ 0 → exec (.registerWrite off wide data) s = .next s) ∧
    (off % (if wide then 8 else 4) = 0 →
      (0xE20 ≤ off ∧ off < 0xE80 ∨ 0xFC0 ≤ off ∧ off < 0x1000 ∨ 0x1018 ≤ off ∧ off < 0x1100 ∨ 0x2000 ≤ off →
        exec (.registerWrite off wide data) s = .next s) ∧
      (0x800 ≤ off → off < 0xA00 → wide = true → ∃ t, exec (.registerWrite off wide data) s = .next t ∧ t = { s with win := t.win } ∧
        t.winNat off 8 = data.toNat ∧ ∀ a, a < off ∨ off + 8 ≤ a → t.win.read a = s.win.read a) ∧
      (0xA00 ≤ off → off < 0xE00 → off % 32 = 28 → wide = false → ∃ t, exec (.registerWrite off wide data) s = .next t ∧
        t = { s with win := t.win } ∧ t.winNat off 4 = max 1 (min 1000 (data.toNat % 1024)) ∧
        ∀ a, a < off ∨ off + 4 ≤ a → t.win.read a = s.win.read a) ∧
      (0xE00 ≤ off → off < 0xE20 → ∃ t, exec (.registerWrite off wide data) s = .next t ∧ t = { s with win := t.win } ∧
        (off % 16 = 0 → wide = true → t.winNat off 8 = data.toNat) ∧ (off % 16 = 12 → wide = false → t.winNat off 1 = data.toNat % 2)) ∧
      (0xE80 ≤ off → off < 0xF00 → wide = false → ∃ t, exec (.registerWrite off wide data) s = .next t ∧ t = { s with ctxs := t.ctxs } ∧
        (t.ctx ((off - 0xE80) / 4)).event = (s.ctx ((off - 0xE80) / 4)).event &&& ~~~(data.setWidth 32) ∧
        ∀ n, n ≠ (off - 0xE80) / 4 → t.ctx n = s.ctx n) ∧
      (off = 0x1008 → wide = true → exec (.registerWrite off wide data) s = .next { s with mgmt := { s.mgmt with arg0 := data } }))) ∧
  (∀ (s : State) (ctx : Nat) (data : BitVec 64), (32 ≤ ctx → exec (.ptrootWrite ctx data) s = .next s) ∧ (ctx < 32 →
    ∃ t, exec (.ptrootWrite ctx data) s = .next t ∧ t.winNat (0xA00 + 32 * ctx) 8 = data.toNat ∧
      (data.toNat = s.winNat (0xA00 + 32 * ctx) 8 → t = { s with win := t.win }) ∧
      (data.toNat ≠ s.winNat (0xA00 + 32 * ctx) 8 → (∀ p ∈ t.dies, ∀ e ∈ p.2.l2, e.ctx ≠ ctx) ∧
        ∀ p ∈ t.cores, ∀ e ∈ p.2.l1 ++ p.2.itlb, e.ctx ≠ ctx))) ∧
  (∀ (s : State) (n : Nat) (data : BitVec 128), (4 ≤ n → exec (.peerApertureWrite n data) s = .next s) ∧ (n < 4 →
    let base := data.toNat % 2 ^ 64
    let size := data.toNat / 2 ^ 64 % 2 ^ 48
    let apart (k : Nat) : Prop := (s.aperture k).2.2 = true → base + size ≤ (s.aperture k).1 ∨ (s.aperture k).1 + (s.aperture k).2.1 ≤ base
    ∃ t, exec (.peerApertureWrite n data) s = .next t ∧ t = { s with win := t.win } ∧ (t.aperture n).1 = base ∧ (t.aperture n).2.1 = size ∧
      t.winNat (0xF80 + 16 * n + 15) 1 = 0 ∧ t.winNat (0xF80 + 16 * n + 14) 1 ≤ 1 ∧
      ((t.aperture n).2.2 = true ↔ data.getLsbD 112 = true ∧ s.linkFull = true ∧ base % 2 ^ 30 = 0 ∧ size % 2 ^ 30 = 0 ∧
        ∀ k, k < 4 → k ≠ n → apart k))) ∧
  (∀ (s : State) (head off : Nat) (data : BitVec 32), head < 4 → off < 16 → off % 4 = 0 →
    let h := s.headOf head
    (h.enabled = true → off ≠ 12 ∨ data.getLsbD 7 = true → exec (.headConfigWrite head off data) s = .next s) ∧
    (h.enabled = true → off = 12 → data.getLsbD 7 = false → ∃ t s1, exec (.headConfigWrite head off data) s = .next t ∧
      s1 = { s with win := s1.win, heads := s1.heads } ∧ s1.headOf head = { h with enabled := false, flips := [] } ∧
      t = h.flips.foldl (fun (s : State) f => s.finishRec f.1 f.2.1 0 0 0) s1) ∧
    (h.enabled = false →
      let w := s.win.writeNat (0xF00 + 32 * head + off) 4 (if off = 12 then data &&& 0x9F else data).toNat
      let v := w.readNat (0xF00 + 32 * head) 16
      ∃ t, exec (.headConfigWrite head off data) s = .next t ∧ t = { s with win := t.win, heads := t.heads } ∧
        (v / 2 ^ 96 % 256 < 128 → t.win = w ∧ t.heads = s.heads) ∧
        (128 ≤ v / 2 ^ 96 % 256 → headOk v = true → t.win = w ∧ t.headOf head = { h with enabled := true, vbcount := 0 }) ∧
        (128 ≤ v / 2 ^ 96 % 256 → headOk v = false → (t.win.readNat (0xF00 + 32 * head + 12) 1) < 128 ∧ t.heads = s.heads))) ∧
  (∀ (s : State) (head : Nat) (h : Head), Tab.get? s.heads head = some h →
    (h.enabled = false → exec (.verticalBlank head) s = .next s) ∧
    (h.enabled = true → h.flips = [] → ∃ t, exec (.verticalBlank head) s = .next t ∧ t = { s with heads := t.heads } ∧
      t.headOf head = { h with vbcount := h.vbcount + 1 }) ∧
    (h.enabled = true → ∀ f, h.flips.getLast? = some f → ∃ t s1, exec (.verticalBlank head) s = .next t ∧ s1 = { s with heads := s1.heads } ∧
      s1.headOf head = { h with
        vbcount := h.vbcount + 1, lastflip := BitVec.ofNat 64 s.timer, surface := f.2.2.1, pitch := f.2.2.2.1, format := f.2.2.2.2.1
        ctx := f.2.2.2.2.2, flips := [] } ∧
      t = h.flips.foldl (fun (s : State) f => s.finishRec f.1 f.2.1 0 0 0) s1)) ∧
  (∀ (s : State) (head line : Nat) (h : Head), Tab.get? s.heads head = some h →
    (h.enabled = false ∨ h.pitch = 0 ∨ s.winNat (0xF00 + 32 * head + 2) 2 < line → exec (.scanLine head line) s = .next s) ∧
    (h.enabled = true → h.pitch ≠ 0 → line ≤ s.winNat (0xF00 + 32 * head + 2) 2 →
      let n := (s.winNat (0xF00 + 32 * head) 2 + 1) * formatBytes h.format
      let runs := lineRuns (h.surface + BitVec.ofNat 64 (h.pitch * line)) n (n / 128 + 2)
      (∀ s1 px bad, Scans h.ctx runs s s1 px bad → ∃ t, exec (.scanLine head line) s = .next t ∧ t.sent = s1.sent ++ [.scan head line px] ∧
        (bad = [] → t = { s1 with sent := t.sent }) ∧
        (bad ≠ [] → 33 ∈ t.msix ∧ t.warps = s1.warps ∧ t.mem = s1.mem ∧
          (Tab.get? (t.die 0).flow ((s1.die 0).written % 4096)).map (·.event) = some 0x1B0)) ∧
      ∀ pre run post s1 s2 px bad, runs = pre ++ run :: post → Scans h.ctx pre s s1 px bad → s1.frontRead h.ctx run.1 run.2 = (s2, .wait) →
        exec (.scanLine head line) s = .next s2)) ∧
  (∀ (s : State), exec (.linkTraining true) s = .next { s with linkFull := true } ∧ exec (.linkRetrain true) s = .next { s with linkFull := true } ∧
    (∃ t, exec (.linkTraining false) s = .next t ∧ t = { s with linkFull := false, win := t.win } ∧ ∀ n, n < 4 → (t.aperture n).2.2 = false) ∧
    (s.hostPending = true → exec (.linkRetrain false) s = .next s) ∧
    (s.hostPending = false → ∃ t, exec (.linkRetrain false) s = .next t ∧ t.linkFull = false ∧ t.port = [] ∧ (∀ n, n < 4 → (t.aperture n).2.2 = false) ∧
      (∀ c, c < 24 → ∀ l ∈ (t.core c).lines, hostKey l.1 = false) ∧ (∀ p ∈ t.clusters, ∀ l ∈ p.2, hostKey l.1 = false) ∧ (∀ a, placeOf a ≠ .host → t.mem.read a = s.mem.read a) ∧
      t.warps = s.warps ∧
      ∀ c key l, c < 24 → hostKey key = true → (s.core c).lines.filter (fun p => physKey p.1 = physKey key) = [(key, l)] →
        (∀ q, q < 24 → q ≠ c → ∀ p ∈ (s.core q).lines, physKey p.1 ≠ physKey key) →
        (∀ p ∈ s.clusters, ∀ x ∈ p.2, physKey x.1 ≠ physKey key) →
        ∀ k, k < 128 → t.mem.read (128 * physKey key + k) = if l.dirty.getLsbD k then lineByte l.data k else s.mem.read (128 * physKey key + k)))

/-! ### The management unit -/

/-- A command of the mailbox has completed in t (25 R492): GO is clear, RESULT and STATUS[31:0] are given. -/
def Answered (t : State) (result low : Nat) : Prop :=
  t.mgmt.go = false ∧ t.mgmt.status.toNat = result * 2 ^ 32 + low

/-- Starts and the mailbox's commands at their events (25 R492 to R499, 24 R491, 26 R507). The answer RESULT 2 of RESYNC, DEBUGRD and WARM
while the part does not run, and RESULT 1 for a buffer misaligned or outside the host's addresses, are the model's choice (assumption 47); so
are that a RESYNC waits for a warm start with GO set and LOADFW is taken meanwhile (assumption 125), and the numbers of SPDM's requests and
errors (assumption 46). -/
def Obligations.ManagementEvents : Prop :=
  let idle (s : State) : Prop := s.mgmt.go = false ∧ s.mgmt.resync = none ∧ s.mgmt.debugging = false
  (∀ s : State, ∃ t, exec .coldStart s = .next t ∧ t.mgmt.phase = .awaitFirmware ∧ t.mgmt.retained = false ∧ t.warps = [] ∧ t.gangs = [] ∧
    t.slots = [] ∧ t.graphs = [] ∧ t.mgmt.identity = none ∧ t.mgmt.spares = fusedSpares ∧ t.linkFull = s.linkFull ∧ (∀ n, n < 8 → (t.home n).owner.owner = n / 4) ∧
    (∀ a, placeOf a = .host → t.mem.read a = s.mem.read a) ∧ ∀ a, placeOf a ≠ .host → t.mem.read a = 0) ∧
  (∀ (s : State) (a : Nat), idle s →
    (s.mgmt.phase = .running ∨ a % 4096 ≠ 0 ∨ 2 ^ 51 < a + 2 ^ 20 → ∃ t, exec (.loadfw a) s = .next t ∧ Answered t 1 0 ∧ t = { s with mgmt := t.mgmt } ∧
      t.mgmt.retained = s.mgmt.retained ∧ t.mgmt.phase = s.mgmt.phase) ∧
    (s.mgmt.phase ≠ .running → a % 4096 = 0 → a + 2 ^ 20 ≤ 2 ^ 51 →
      let s0 : State := { s with mgmt := { s.mgmt with arg0 := BitVec.ofNat 64 a } }
      let s1 := s0.dmaSnoop (hostPa a) (2 ^ 20) 1
      let image := s1.hostImage a
      let measure := if s.mgmt.warmPending then s.mgmt.measure else imageMeasure image
      let sealed (m : Mgmt) : Prop := m.phase = .running ∧ m.retained = true ∧ m.measure = measure ∧ m.svn = image.readNat 8 4 ∧
        m.identity = some (Identity.derive measure (image.readNat 8 4) s1.free) ∧ m.spdmWait = [] ∧ m.image = image ∧ m.imageBad = false
      (imageVerifies image = false → ∃ t, exec (.loadfw a) s = .next t ∧ Answered t 4 0 ∧ t.mgmt.phase = .verifyFailed ∧
        t.mgmt.retained = false ∧ t = { s1 with mgmt := t.mgmt }) ∧
      (imageVerifies image = true → s.mgmt.warmPending = false → ∃ t, exec (.loadfw a) s = .next t ∧ Answered t 0 0 ∧ sealed t.mgmt ∧
        t.mgmt.lastWarm = false ∧ t.mgmt.warms = 0 ∧ (∀ p ∈ t.dies, p.2.flow = [] ∧ p.2.written = 0) ∧
        (∀ a, placeOf a = .host → t.mem.read a = s1.mem.read a) ∧ ∀ a, placeOf a ≠ .host → t.mem.read a = 0) ∧
      (imageVerifies image = true → s.mgmt.warmPending = true → ∃ t m, exec (.loadfw a) s = .next t ∧ Answered t 0 0 ∧ sealed m ∧
        m.warmPending = false ∧ m.lastWarm = true ∧ m.warms = (s1.mgmt.warms + 1) % 2 ^ 32 ∧
        ∃ s3 : State, s3 = (s1.slots.map (·.1)).foldl State.reportFailed { s1 with mgmt := m } ∧ t = { s3 with mgmt := t.mgmt }))) ∧
  (∀ (s : State), s.mgmt.go = true → s.mgmt.warmPending = false → exec .warm s = .next s) ∧
  (∀ (s : State), idle s → s.mgmt.phase ≠ .running → ∃ t, exec .warm s = .next t ∧ Answered t 2 0 ∧ t = { s with mgmt := t.mgmt }) ∧
  (∀ (s : State), s.killAll.warps = [] ∧ s.killAll.launches = [] ∧ s.killAll.graphs = [] ∧ s.killAll.tasks = [] ∧
    (∀ x ∈ s.killAll.slots, x.2.enabled = false) ∧
    ∀ c, c < 32 → (s.killAll.ctx c).killed = true ∧ (s.killAll.ctx c).event.getLsbD 2 = true) ∧
  (∀ (s : State), s.mgmt.go = false ∨ s.mgmt.warmPending = true → s.mgmt.phase = .running →
    let s0 : State := { s with mgmt := { s.mgmt with warmPending := true, go := true, status := if s.mgmt.retained then 1 else 0 } }
    let sk : State := if s.mgmt.warmPending then s else s0.killAll
    (∀ s1, sk.cleanAll = (s1, false) → exec .warm s = .next s1) ∧
    ∀ s1, sk.cleanAll = (s1, true) → ∃ s2 : State,
      s2.warps = [] ∧ s2.wgs = [] ∧ s2.gangs = [] ∧ s2.graphs = [] ∧ s2.tasks = [] ∧ s2.launches = [] ∧ (∀ p ∈ s2.dies, p.2.l2 = []) ∧
      s2.slots = s1.slots ∧ s2.win = s1.win ∧ s2.timer = s1.timer ∧ s2.electrum = s1.electrum ∧
      (∀ n, (s2.ctx n).ptroot = (s1.ctx n).ptroot ∧ (s2.ctx n).stvec = (s1.ctx n).stvec) ∧
      (∀ n h, n < 8 → Tab.get? s1.homes n = some h → (s2.home n).owner.owner = h.owner.owner ∧ (s2.home n).handover = none) ∧
      (∀ a, (∀ c, placeOf a ≠ .grotto c) → s2.mem.read a = s1.mem.read a) ∧ (∀ a c, placeOf a = .grotto c → s2.mem.read a = 0) ∧
      (s1.mgmt.retained = false ∨ s1.mgmt.imageBad = true → ∃ t, exec .warm s = .next t ∧ t.mgmt.go = s1.mgmt.resync.isSome ∧
        t.mgmt.status.toNat = s1.mgmt.status.toNat % 2 ∧ t.mgmt.phase = .awaitFirmware ∧ t.mgmt.retained = false ∧
        t.mgmt.warmPending = s1.mgmt.warmPending ∧ t = { s2 with mgmt := t.mgmt }) ∧
      (s1.mgmt.retained = true → s1.mgmt.imageBad = false → s1.mgmt.warmPending = true → ∃ (u : State) (m : Mgmt),
        exec .warm s = .next u.resyncWaiting ∧ u.mgmt.go = s1.mgmt.resync.isSome ∧ u.mgmt.resync = s1.mgmt.resync ∧
        u.mgmt.status.toNat = s1.mgmt.status.toNat % 2 ∧ m.phase = .running ∧ m.warmPending = false ∧
        m.lastWarm = true ∧ m.warms = (s1.mgmt.warms + 1) % 2 ^ 32 ∧ m.measure = s1.mgmt.measure ∧ m.identity = s1.mgmt.identity ∧
        m.spares = fusedSpares ∧ (s1.mgmt.identity.isSome = true → m.spdmWait = []) ∧
        ∃ s3 : State, s3 = (s2.slots.map (·.1)).foldl State.reportFailed { s2 with mgmt := m } ∧ u = { s3 with mgmt := u.mgmt })) ∧
  (∀ (s : State) (a : Nat), s.mgmt.warmPending = true → s.mgmt.resync = none →
    exec (.resync a) s = .next { s with mgmt := { s.mgmt with resync := some a, go := true } }) ∧
  (∀ (s : State), (s.mgmt.resync = none → s.resyncWaiting = s) ∧ ∀ a, s.mgmt.resync = some a → s.mgmt.warmPending = false →
    exec (.resync a) { s with mgmt := { s.mgmt with resync := none, go := false } } =
      .next ({ s with mgmt := { s.mgmt with go := false } } : State).resyncWaiting) ∧
  (∀ (s : State) (a : Nat), idle s → s.mgmt.warmPending = false →
    (a % 4096 ≠ 0 ∨ 2 ^ 51 < a + 4096 → ∃ t, exec (.resync a) s = .next t ∧ Answered t 1 0 ∧ t = { s with mgmt := t.mgmt }) ∧
    (a % 4096 = 0 → a + 4096 ≤ 2 ^ 51 → s.mgmt.phase ≠ .running → ∃ t, exec (.resync a) s = .next t ∧ Answered t 2 0 ∧ t = { s with mgmt := t.mgmt }) ∧
    (a % 4096 = 0 → a + 4096 ≤ 2 ^ 51 → s.mgmt.phase = .running → ∃ t, exec (.resync a) s = .next t ∧ Answered t 0 0 ∧
      t.mem.readNat (hostPa a) 4 = 1 ∧ t.mem.readNat (hostPa a + 4) 4 = 4096 ∧ t.mem.readNat (hostPa a + 8) 8 = s.timer % 2 ^ 64 ∧
      t.mem.readNat (hostPa a + 64) 64 = s.mgmt.measure.toNat ∧
      (∀ n, n < 8 → t.mem.readNat (hostPa a + 128 + 8 * n) 8 = (s.home n).owner.word % 2 ^ 64) ∧
      (∀ x, x < 32 → t.mem.readNat (hostPa a + 1536 + 32 * x + 12) 4 = (s.ctx x).event.toNat) ∧
      (∀ b, placeOf b ≠ .host → t.mem.read b = s.mem.read b) ∧ t.warps = s.warps)) ∧
  (∀ (s : State) (a b : BitVec 64), idle s → s.mgmt.phase = .running → a.toNat % 16 < 4 → a.toNat / 16 % 32 < 24 → a.toNat < 2 ^ 18 →
    let s0 : State := { s with mgmt := { s.mgmt with arg0 := a, arg1 := b } }
    (∀ s1, s0.debugRead a.toNat b.toNat = (s1, .fault) → ∃ t, exec (.debugrd a b) s = .next t ∧ Answered t 3 0 ∧
      t = { s1 with mgmt := t.mgmt } ∧ t.mgmt.data = s1.mgmt.data) ∧
    (∀ s1, s0.debugRead a.toNat b.toNat = (s1, .wait) →
      exec (.debugrd a b) s = .next { s1 with mgmt := { s1.mgmt with go := true, debugging := true } }) ∧
    (∀ s1 x, s0.debugRead a.toNat b.toNat = (s1, .ok x) → s1.mgmt = s0.mgmt → ∃ t, exec (.debugrd a b) s = .next t ∧ t.mgmt.go = false ∧
      t.mgmt.status = BitVec.ofNat 64 (x.status % 2 ^ 32) ∧ t = { s1 with mgmt := t.mgmt } ∧ t.mgmt.data.readNat 0 32 = x.data % 2 ^ 256) ∧
    (a.toNat % 16 = 0 → s.debugWarp (a.toNat / 16 % 32) (a.toNat / 512 % 16) (a.toNat / 8192 % 32) = none →
      s0.debugRead a.toNat b.toNat = (s0, .fault)) ∧
    (a.toNat % 16 = 0 → ∀ w, s.debugWarp (a.toNat / 16 % 32) (a.toNat / 512 % 16) (a.toNat / 8192 % 32) = some (w, false) →
      b.toNat / 32 * 32 < 128 * w.vregs →
      ∃ x, s0.debugRead a.toNat b.toNat = (s0, .ok x) ∧ x.src = 0 ∧
        (x.woke = true ↔ Tab.get? s.power (192 + (4 * w.core + w.part / 4)) = some 1) ∧
        ∀ k, k < 8 → x.data / 2 ^ (32 * k) % 2 ^ 32 = (Store.get w.v (b.toNat / 32 * 32 / 4 + k)).toNat)) ∧
  (∀ (s : State) (a : Nat), idle s → a + 2 ^ 18 ≤ 2 ^ 51 → a % 4096 = 0 →
    ∃ t, exec (.flowcopy a) s = .next t ∧ Answered t 0 0 ∧ (∀ b, placeOf b ≠ .host → t.mem.read b = s.mem.read b) ∧ t.warps = s.warps ∧
      ∀ d k, d < 2 → k < 4096 → t.mem.readNat (hostPa a + 131072 * d + 32 * k) 32 = (s.die d).logSlot k % 2 ^ 256) ∧
  ∀ (s : State) (code : Nat) (data : List Byte),
    (s.started = false ∨ s.mgmt.identity = none → exec (.spdmRequest code data) s =
      .next { s with mgmt := { s.mgmt with spdmWait := s.mgmt.spdmWait ++ [(code, data)] } }) ∧
    (s.started = true → ∀ k, s.mgmt.identity = some k → ∃ ans, exec (.spdmRequest code data) s =
        .next { s with mgmt := { s.mgmt with spdm := s.mgmt.spdm ++ [((code, data), ans)] } } ∧
      let chain := k.device.cert ++ k.alias_.cert
      (code ∉ ([0x81, 0x82, 0x83, 0x84, 0xE0, 0xE1, 0xE3] : List Nat) → ans = .error 7 code) ∧
      (code = 0x81 → ans = .digests (Keccak.sha3_512 chain)) ∧ (code = 0x84 → ans = .version) ∧ (code = 0xE1 → ans = .capabilities) ∧
      (code = 0xE3 → ans = .algorithms) ∧
      (code = 0x82 → ∀ lo hi n0 n1 rest, data = 0 :: 0 :: lo :: hi :: n0 :: n1 :: rest →
        let off := lo.toNat + 256 * hi.toNat
        let part := (chain.drop off).take (n0.toNat + 256 * n1.toNat)
        (chain.length ≤ off → ans = .error 1 0) ∧ (off < chain.length → ans = .certificate part (chain.length - off - part.length))) ∧
      (code = 0x83 → ∀ rest, data = 0 :: rest → ∃ sig, ans = .challenge (Keccak.sha3_512 chain) sig) ∧
      (code = 0xE0 → ∀ rest, data = 0 :: 2 :: rest → ans = .measurements 4 [(2, leBytes 64 s.mgmt.measure.toNat)] []))

/-! ### Decoding, the step and reset -/

/-- An instruction's fields, in the order of 02 R53's bits: LEN, U, PRED, D, W, A, B, F, C, X, K. -/
def encOf (len u pred d w a b f c x k : Nat) : Enc :=
  { len := BitVec.ofNat 2 len, u := BitVec.ofNat 1 u, pred := BitVec.ofNat 5 pred, d := BitVec.ofNat 9 d, w := BitVec.ofNat 1 w,
    a := BitVec.ofNat 9 a, b := BitVec.ofNat 9 b, f := BitVec.ofNat 19 f, c := BitVec.ofNat 9 c, x := BitVec.ofNat 23 x, k := BitVec.ofNat 32 k }

/-- Words of the spec's encoding examples, one of each family, decode to the instructions they stand for (02 R53, R65). -/
def Obligations.DecodeWords : Prop :=
  ∀ p ∈ ([
    (64, 0x18502019B018, .iadd (encOf 0 0 0x1b 0xc 0 4 0x185 0 0 0 0)),
    (96, 0x1D00400000030100200A1, .bool3 (encOf 1 0 0 1 0 2 3 0 4 0xe8 0)),
    (64, 0x2011540200C0618, .packq (encOf 0 0 0 6 0 4 0x154 0x1008 0 0 0)),
    (128, 0xC02003FA01028000712, .switch (encOf 2 0 0 0 0 5 1 0x1fd 2 6 0)),
    (128, 0x300001D0F800030F87A1E0752, .loopp (encOf 2 0 0 0x10f 0 0x10f 0x10f 0x40001 0x10f 0xe 3)),
    (128, 0x100FF0000010F00004100321E0A06, .cpy (encOf 2 1 0 0x10f 0 6 0x10 2 0x10f 0 0x100ff)),
    (64, 0x50F0321E0884, .tbbind (encOf 0 1 0 0x10f 0 6 0x10f 2 0 0 0)),
    (96, 0x4050F000030F038140889, .ld (encOf 1 0 0 0xa 0 7 0x10f 1 0x10f 0x202 0)),
    (64, 0x10D8203010080B00, .atom (encOf 0 0 0 4 0 2 3 0x86c1 0 0 0)),
    (64, 0x22010F87A1E0C0C, .mma (encOf 0 1 0 0x10f 0 0x10f 0x10f 0x1100 0 0 0)),
    (64, 0x410F878100D00, .tldt (encOf 0 0 0 8 0 0x10f 0x10f 0x20 0 0 0)),
    (64, 0x10F87A1E0D10, .ordbegin (encOf 0 0 0 0x10f 0 0x10f 0x10f 0 0 0 0)),
    (64, 0x20010FC021F7E08, .wrsys (encOf 0 0 0x17 0x10f 0 0x180 0x10f 0x1000 0 0 0)),
    (64, 0x10F87A1E0E1C, .uret (encOf 0 1 0 0x10f 0 0x10f 0x10f 0 0 0 0)),
    (64, 0x183080280E8C, .launch (encOf 0 1 0 0x14 0 0x10 0x183 0 0 0 0))] : List (Nat × Nat × Instr)),
    decodeTableWord p.1 p.2.1 = some p.2.2

/-- Decoding and encoding agree (02 R48, R53, R65): every well-formed instruction, followed by any bytes, decodes from its encoding to
itself and leaves the bytes after it; and bytes that decode are the encoding of the well-formed instruction they decode to, with what
follows. -/
def Obligations.DecodeEncodeAgree : Prop :=
  (∀ (i : Instr) (rest : List Byte), i.wellFormed = true → decode (encode i ++ rest) = .ok (i, rest)) ∧
  ∀ (bs rest : List Byte) (i : Instr), decode bs = .ok (i, rest) → i.wellFormed = true ∧ bs = encode i ++ rest

/-- One step (06 R140, 02 R49 to R52, 03 R90, R91). An event at the head of the agenda executes. The issue of a split at its head, where the
split may be the first pick of its partition (03 R90) and its page and its line are in the core's instruction TLB and cache, executes the
well-formed instruction that the line's bytes at the pc decode to, once the results that its sources wait for are in; a mergeable split at
the pc merges into it unless the instruction is held back (03 R89). As the second pick of a ck it reads g as it stood at the start of the ck
(02 R57), which the step remembers with the units and the reads of the first. Where the agenda is empty, a split is picked first only if no
ready split of its partition is older, and a second pick is the oldest ready one that a unit is left for. What moves next is otherwise the
model's choice (assumption 1). -/
def Obligations.StepRunsDecoded : Prop :=
  (∀ (s : State) (a : List Act),
    (∀ i, s.agenda = .event i :: a →
      step s = exec i { ({ s with agenda := a } : State).watch.tick with picked := none, asker := requester i }) ∧
    (∀ w k x sp act g, s.agenda = act :: a →
      let s0 : State := ({ s with agenda := a } : State).watch.tick
      s0.warp? w = some x → x.split? k = some sp →
      (act = .issue w k ∧ g = none ∧ x.runs = true ∧ sp.pickable = true ∧ s0.layerAsleep x = false ∧
          s0.olderReady x.core x.part sp.age = false ∨
        act = .second w k ∧ s0.secondPick = some (w, k) ∧ g = s0.ckStart w) →
      x.codeCtx ≠ physCtx → canonical sp.pc = true → sp.xfails = [] → sp.pc.toNat % 4 = 0 →
      let s1 : State := { s0 with asker := w, picked := none }
      ∀ s2 e key d, s1.lookFetch x.core x.codeCtx sp.pc.toNat = (s2, some e) → pteBit e.leaf 3 = true → (sp.level < 2 → pteBit e.leaf 4 = true) →
        s2.fetchKey e sp.pc.toNat = some key → Tab.get? (s2.core x.core).icache key = some d → key ∉ (s2.core x.core).ibad →
        scanBlock (blockWord d sp.pc.toNat) (sp.pc.toNat % 32 / 4) 0 9 = .start →
        ∀ i rest, decode ((List.range (128 - sp.pc.toNat % 128)).map fun n => lineByte d (sp.pc.toNat % 128 + n)) = .ok (i, rest) →
          let form := s2.formOf x i
          let reads := issueReads w k x sp form
          let y0 := x.modSplit k fun q => { q with pc := sp.pc }
          let y := if g.isSome then y0 else y0.interlockFor s2.free reads sp.live
          let s3 : State := { s2.modWarp w fun _ => y with cur := some { warp := w, entry := k, g } }
          let u : Picked := { warp := w, entry := k, core := x.core, part := x.part, units := (formUnits form).headD [], reads, g := y.g, before := s2.nextId }
          ∃ s4 : State,
            (s4 = s3 ∧ (y.mergesAt k = false ∨ ∀ t, exec i s3 = .next t → t.heldBack w k = true) ∨
              s4 = s3.mergePick w k ∧ y.mergesAt k = true ∧ ∃ t, exec i s3 = .next t ∧ t.heldBack w k = false) ∧
            (∀ t, exec i s4 = .next t →
              (act = .issue w k → step s = .next { t with picked := if t.heldBack w k then none else some u }) ∧
              (act = .second w k → step s = .next (if t.heldBack w k then { t with picked := s0.picked } else t))) ∧
            (∀ f, exec i s4 = .fault f → step s = .fault f) ∧ ∀ r, exec i s4 = .refused r → step s = .refused r) ∧
    (∀ w k x sp, s.agenda = .issue w k :: a →
      let s0 : State := ({ s with agenda := a } : State).watch.tick
      s0.warp? w = some x → x.split? k = some sp → x.runs = false ∨ sp.live = 0 ∨ s0.olderReady x.core x.part sp.age = true →
      step s = .next { s0 with picked := none })) ∧
  ∀ (s : State) (w k : Nat), s.agenda = [] →
    (s.nextAct.1 = some (.issue w k) → ∃ x sp, (w, x) ∈ s.warps ∧ (k, sp) ∈ x.splits ∧ x.runs = true ∧ sp.pickable = true ∧
      s.layerAsleep x = false ∧ ∀ y ∈ s.warps, y.2.core = x.core → y.2.part = x.part → y.2.runs = true →
        ∀ q ∈ y.2.splits, q.2.live ≠ 0 → q.2.wait = .ready → sp.age ≤ q.2.age) ∧
    (s.nextAct.1 = some (.second w k) → ∃ u x sp bits us, s.picked = some u ∧ (w, x) ∈ s.warps ∧ (k, sp) ∈ x.splits ∧
      x.core = u.core ∧ x.part = u.part ∧ (u.warp ≠ w ∨ u.entry ≠ k) ∧ x.runs = true ∧ sp.live ≠ 0 ∧ sp.wait = .ready ∧
      s.fetched w k x sp = some bits ∧ us ∈ formUnits (s.formOf x (decodeRaw bits)) ∧ (∀ n ∈ us, n ∉ u.units) ∧
      ∀ p ∈ s.warps, ∀ q ∈ p.2.splits, s.pairs u p.1 p.2 q.1 q.2 = true → sp.age ≤ q.2.age)

/-- The part after a cold start (25 R494): owners by die (00 R4), nothing bound or running, no byte of a stack but zero, WDOG 100 (18 R388)
and HARVEST 0x0A (19 R416) of every context, event words clear (22 R472), logs empty, memory in canonical form. That the link has trained
at the full rate (assumption 48) and that host memory reads 0 (assumption 5) are the model's choices. -/
def Obligations.ResetState : Prop :=
  let s := State.reset
  (∀ n, n < 8 → (s.home n).owner.owner = n / 4 ∧ (s.home n).owner.pend = false ∧ (s.home n).handover = none ∧ (s.home n).errors = []) ∧
  s.warps = [] ∧ s.gangs = [] ∧ s.graphs = [] ∧ s.slots = [] ∧ (∀ a, s.mem.read a = 0) ∧ s.memoryForm = true ∧
  (∀ n, n < 32 → s.winNat (0x80C + 16 * n) 2 = 100 ∧ s.winNat (0xA1C + 32 * n) 4 = 10 ∧ (s.ctx n).event = 0 ∧ (s.ctx n).killed = false ∧
    s.winNat (64 * n + 13) 1 = 0) ∧
  (∀ d, d < 2 → (s.die d).flow = [] ∧ (s.die d).written = 0 ∧ (s.die d).l2 = []) ∧
  (∀ c, c < 24 → (s.core c).lines = [] ∧ (s.core c).icache = [] ∧ (s.core c).l1 = [] ∧ (s.core c).itlb = []) ∧
  s.mgmt.phase = .running ∧ s.mgmt.go = false ∧ s.timer = 0 ∧ s.linkFull = true

/-- The canonical form is kept by every step, whatever moves: if memory and every scratchpad list strictly rising addresses and no byte
that an unlisted address reads as, then so do they in the next state, and what each address reads as determines the memory. -/
def Obligations.StepKeepsMemoryForm : Prop :=
  ∀ s t : State, s.memoryForm = true → step s = .next t →
    t.memoryForm = true ∧ ∀ m : Memory, m.wf = true → (∀ a, m.read a = t.mem.read a) → m = t.mem
end

