-- ==== Sys2Proof/Laws/State.lean ====
section
/-!
SUPPORT. What each update of the state or of a warp leaves alone, field by field: true by computation, so that no proof unfolds a
record update.
-/
namespace Sys2Proof.Machine

/-! ### State.modWarp -/

@[simp] theorem State.modWarp_wgs (s : State) (w : Nat) (f : Warp → Warp) : (s.modWarp w f).wgs = s.wgs := rfl
@[simp] theorem State.modWarp_gangs (s : State) (w : Nat) (f : Warp → Warp) : (s.modWarp w f).gangs = s.gangs := rfl
@[simp] theorem State.modWarp_launches (s : State) (w : Nat) (f : Warp → Warp) : (s.modWarp w f).launches = s.launches := rfl
@[simp] theorem State.modWarp_graphs (s : State) (w : Nat) (f : Warp → Warp) : (s.modWarp w f).graphs = s.graphs := rfl
@[simp] theorem State.modWarp_tasks (s : State) (w : Nat) (f : Warp → Warp) : (s.modWarp w f).tasks = s.tasks := rfl
@[simp] theorem State.modWarp_rasters (s : State) (w : Nat) (f : Warp → Warp) : (s.modWarp w f).rasters = s.rasters := rfl
@[simp] theorem State.modWarp_slots (s : State) (w : Nat) (f : Warp → Warp) : (s.modWarp w f).slots = s.slots := rfl
@[simp] theorem State.modWarp_cores (s : State) (w : Nat) (f : Warp → Warp) : (s.modWarp w f).cores = s.cores := rfl
@[simp] theorem State.modWarp_engines (s : State) (w : Nat) (f : Warp → Warp) : (s.modWarp w f).engines = s.engines := rfl
@[simp] theorem State.modWarp_clusters (s : State) (w : Nat) (f : Warp → Warp) : (s.modWarp w f).clusters = s.clusters := rfl
@[simp] theorem State.modWarp_dies (s : State) (w : Nat) (f : Warp → Warp) : (s.modWarp w f).dies = s.dies := rfl
@[simp] theorem State.modWarp_homes (s : State) (w : Nat) (f : Warp → Warp) : (s.modWarp w f).homes = s.homes := rfl
@[simp] theorem State.modWarp_mem (s : State) (w : Nat) (f : Warp → Warp) : (s.modWarp w f).mem = s.mem := rfl
@[simp] theorem State.modWarp_taskBuf (s : State) (w : Nat) (f : Warp → Warp) : (s.modWarp w f).taskBuf = s.taskBuf := rfl
@[simp] theorem State.modWarp_regions (s : State) (w : Nat) (f : Warp → Warp) : (s.modWarp w f).regions = s.regions := rfl
@[simp] theorem State.modWarp_electrum (s : State) (w : Nat) (f : Warp → Warp) : (s.modWarp w f).electrum = s.electrum := rfl
@[simp] theorem State.modWarp_hostHalf (s : State) (w : Nat) (f : Warp → Warp) : (s.modWarp w f).hostHalf = s.hostHalf := rfl
@[simp] theorem State.modWarp_snoops (s : State) (w : Nat) (f : Warp → Warp) : (s.modWarp w f).snoops = s.snoops := rfl
@[simp] theorem State.modWarp_homeQ (s : State) (w : Nat) (f : Warp → Warp) : (s.modWarp w f).homeQ = s.homeQ := rfl
@[simp] theorem State.modWarp_sent (s : State) (w : Nat) (f : Warp → Warp) : (s.modWarp w f).sent = s.sent := rfl
@[simp] theorem State.modWarp_memBad (s : State) (w : Nat) (f : Warp → Warp) : (s.modWarp w f).memBad = s.memBad := rfl
@[simp] theorem State.modWarp_yields (s : State) (w : Nat) (f : Warp → Warp) : (s.modWarp w f).yields = s.yields := rfl
@[simp] theorem State.modWarp_refusals (s : State) (w : Nat) (f : Warp → Warp) : (s.modWarp w f).refusals = s.refusals := rfl
@[simp] theorem State.modWarp_port (s : State) (w : Nat) (f : Warp → Warp) : (s.modWarp w f).port = s.port := rfl
@[simp] theorem State.modWarp_win (s : State) (w : Nat) (f : Warp → Warp) : (s.modWarp w f).win = s.win := rfl
@[simp] theorem State.modWarp_ctxs (s : State) (w : Nat) (f : Warp → Warp) : (s.modWarp w f).ctxs = s.ctxs := rfl
@[simp] theorem State.modWarp_heads (s : State) (w : Nat) (f : Warp → Warp) : (s.modWarp w f).heads = s.heads := rfl
@[simp] theorem State.modWarp_msix (s : State) (w : Nat) (f : Warp → Warp) : (s.modWarp w f).msix = s.msix := rfl
@[simp] theorem State.modWarp_mgmt (s : State) (w : Nat) (f : Warp → Warp) : (s.modWarp w f).mgmt = s.mgmt := rfl
@[simp] theorem State.modWarp_linkFull (s : State) (w : Nat) (f : Warp → Warp) : (s.modWarp w f).linkFull = s.linkFull := rfl
@[simp] theorem State.modWarp_asker (s : State) (w : Nat) (f : Warp → Warp) : (s.modWarp w f).asker = s.asker := rfl
@[simp] theorem State.modWarp_picked (s : State) (w : Nat) (f : Warp → Warp) : (s.modWarp w f).picked = s.picked := rfl
@[simp] theorem State.modWarp_power (s : State) (w : Nat) (f : Warp → Warp) : (s.modWarp w f).power = s.power := rfl
@[simp] theorem State.modWarp_throttle (s : State) (w : Nat) (f : Warp → Warp) : (s.modWarp w f).throttle = s.throttle := rfl
@[simp] theorem State.modWarp_clusterPre (s : State) (w : Nat) (f : Warp → Warp) : (s.modWarp w f).clusterPre = s.clusterPre := rfl
@[simp] theorem State.modWarp_moves (s : State) (w : Nat) (f : Warp → Warp) : (s.modWarp w f).moves = s.moves := rfl
@[simp] theorem State.modWarp_timer (s : State) (w : Nat) (f : Warp → Warp) : (s.modWarp w f).timer = s.timer := rfl
@[simp] theorem State.modWarp_agenda (s : State) (w : Nat) (f : Warp → Warp) : (s.modWarp w f).agenda = s.agenda := rfl
@[simp] theorem State.modWarp_cur (s : State) (w : Nat) (f : Warp → Warp) : (s.modWarp w f).cur = s.cur := rfl
@[simp] theorem State.modWarp_free (s : State) (w : Nat) (f : Warp → Warp) : (s.modWarp w f).free = s.free := rfl
@[simp] theorem State.modWarp_nextId (s : State) (w : Nat) (f : Warp → Warp) : (s.modWarp w f).nextId = s.nextId := rfl

/-! ### State.modWg -/

@[simp] theorem State.modWg_warps (s : State) (w : Nat) (f : Workgroup → Workgroup) : (s.modWg w f).warps = s.warps := rfl
@[simp] theorem State.modWg_gangs (s : State) (w : Nat) (f : Workgroup → Workgroup) : (s.modWg w f).gangs = s.gangs := rfl
@[simp] theorem State.modWg_launches (s : State) (w : Nat) (f : Workgroup → Workgroup) : (s.modWg w f).launches = s.launches := rfl
@[simp] theorem State.modWg_graphs (s : State) (w : Nat) (f : Workgroup → Workgroup) : (s.modWg w f).graphs = s.graphs := rfl
@[simp] theorem State.modWg_tasks (s : State) (w : Nat) (f : Workgroup → Workgroup) : (s.modWg w f).tasks = s.tasks := rfl
@[simp] theorem State.modWg_rasters (s : State) (w : Nat) (f : Workgroup → Workgroup) : (s.modWg w f).rasters = s.rasters := rfl
@[simp] theorem State.modWg_slots (s : State) (w : Nat) (f : Workgroup → Workgroup) : (s.modWg w f).slots = s.slots := rfl
@[simp] theorem State.modWg_cores (s : State) (w : Nat) (f : Workgroup → Workgroup) : (s.modWg w f).cores = s.cores := rfl
@[simp] theorem State.modWg_engines (s : State) (w : Nat) (f : Workgroup → Workgroup) : (s.modWg w f).engines = s.engines := rfl
@[simp] theorem State.modWg_clusters (s : State) (w : Nat) (f : Workgroup → Workgroup) : (s.modWg w f).clusters = s.clusters := rfl
@[simp] theorem State.modWg_dies (s : State) (w : Nat) (f : Workgroup → Workgroup) : (s.modWg w f).dies = s.dies := rfl
@[simp] theorem State.modWg_homes (s : State) (w : Nat) (f : Workgroup → Workgroup) : (s.modWg w f).homes = s.homes := rfl
@[simp] theorem State.modWg_mem (s : State) (w : Nat) (f : Workgroup → Workgroup) : (s.modWg w f).mem = s.mem := rfl
@[simp] theorem State.modWg_taskBuf (s : State) (w : Nat) (f : Workgroup → Workgroup) : (s.modWg w f).taskBuf = s.taskBuf := rfl
@[simp] theorem State.modWg_regions (s : State) (w : Nat) (f : Workgroup → Workgroup) : (s.modWg w f).regions = s.regions := rfl
@[simp] theorem State.modWg_electrum (s : State) (w : Nat) (f : Workgroup → Workgroup) : (s.modWg w f).electrum = s.electrum := rfl
@[simp] theorem State.modWg_hostHalf (s : State) (w : Nat) (f : Workgroup → Workgroup) : (s.modWg w f).hostHalf = s.hostHalf := rfl
@[simp] theorem State.modWg_snoops (s : State) (w : Nat) (f : Workgroup → Workgroup) : (s.modWg w f).snoops = s.snoops := rfl
@[simp] theorem State.modWg_homeQ (s : State) (w : Nat) (f : Workgroup → Workgroup) : (s.modWg w f).homeQ = s.homeQ := rfl
@[simp] theorem State.modWg_sent (s : State) (w : Nat) (f : Workgroup → Workgroup) : (s.modWg w f).sent = s.sent := rfl
@[simp] theorem State.modWg_memBad (s : State) (w : Nat) (f : Workgroup → Workgroup) : (s.modWg w f).memBad = s.memBad := rfl
@[simp] theorem State.modWg_yields (s : State) (w : Nat) (f : Workgroup → Workgroup) : (s.modWg w f).yields = s.yields := rfl
@[simp] theorem State.modWg_refusals (s : State) (w : Nat) (f : Workgroup → Workgroup) : (s.modWg w f).refusals = s.refusals := rfl
@[simp] theorem State.modWg_port (s : State) (w : Nat) (f : Workgroup → Workgroup) : (s.modWg w f).port = s.port := rfl
@[simp] theorem State.modWg_win (s : State) (w : Nat) (f : Workgroup → Workgroup) : (s.modWg w f).win = s.win := rfl
@[simp] theorem State.modWg_ctxs (s : State) (w : Nat) (f : Workgroup → Workgroup) : (s.modWg w f).ctxs = s.ctxs := rfl
@[simp] theorem State.modWg_heads (s : State) (w : Nat) (f : Workgroup → Workgroup) : (s.modWg w f).heads = s.heads := rfl
@[simp] theorem State.modWg_msix (s : State) (w : Nat) (f : Workgroup → Workgroup) : (s.modWg w f).msix = s.msix := rfl
@[simp] theorem State.modWg_mgmt (s : State) (w : Nat) (f : Workgroup → Workgroup) : (s.modWg w f).mgmt = s.mgmt := rfl
@[simp] theorem State.modWg_linkFull (s : State) (w : Nat) (f : Workgroup → Workgroup) : (s.modWg w f).linkFull = s.linkFull := rfl
@[simp] theorem State.modWg_asker (s : State) (w : Nat) (f : Workgroup → Workgroup) : (s.modWg w f).asker = s.asker := rfl
@[simp] theorem State.modWg_picked (s : State) (w : Nat) (f : Workgroup → Workgroup) : (s.modWg w f).picked = s.picked := rfl
@[simp] theorem State.modWg_power (s : State) (w : Nat) (f : Workgroup → Workgroup) : (s.modWg w f).power = s.power := rfl
@[simp] theorem State.modWg_throttle (s : State) (w : Nat) (f : Workgroup → Workgroup) : (s.modWg w f).throttle = s.throttle := rfl
@[simp] theorem State.modWg_clusterPre (s : State) (w : Nat) (f : Workgroup → Workgroup) : (s.modWg w f).clusterPre = s.clusterPre := rfl
@[simp] theorem State.modWg_moves (s : State) (w : Nat) (f : Workgroup → Workgroup) : (s.modWg w f).moves = s.moves := rfl
@[simp] theorem State.modWg_timer (s : State) (w : Nat) (f : Workgroup → Workgroup) : (s.modWg w f).timer = s.timer := rfl
@[simp] theorem State.modWg_agenda (s : State) (w : Nat) (f : Workgroup → Workgroup) : (s.modWg w f).agenda = s.agenda := rfl
@[simp] theorem State.modWg_cur (s : State) (w : Nat) (f : Workgroup → Workgroup) : (s.modWg w f).cur = s.cur := rfl
@[simp] theorem State.modWg_free (s : State) (w : Nat) (f : Workgroup → Workgroup) : (s.modWg w f).free = s.free := rfl
@[simp] theorem State.modWg_nextId (s : State) (w : Nat) (f : Workgroup → Workgroup) : (s.modWg w f).nextId = s.nextId := rfl

/-! ### State.modGang -/

@[simp] theorem State.modGang_warps (s : State) (g : Nat) (f : Gang → Gang) : (s.modGang g f).warps = s.warps := rfl
@[simp] theorem State.modGang_wgs (s : State) (g : Nat) (f : Gang → Gang) : (s.modGang g f).wgs = s.wgs := rfl
@[simp] theorem State.modGang_launches (s : State) (g : Nat) (f : Gang → Gang) : (s.modGang g f).launches = s.launches := rfl
@[simp] theorem State.modGang_graphs (s : State) (g : Nat) (f : Gang → Gang) : (s.modGang g f).graphs = s.graphs := rfl
@[simp] theorem State.modGang_tasks (s : State) (g : Nat) (f : Gang → Gang) : (s.modGang g f).tasks = s.tasks := rfl
@[simp] theorem State.modGang_rasters (s : State) (g : Nat) (f : Gang → Gang) : (s.modGang g f).rasters = s.rasters := rfl
@[simp] theorem State.modGang_slots (s : State) (g : Nat) (f : Gang → Gang) : (s.modGang g f).slots = s.slots := rfl
@[simp] theorem State.modGang_cores (s : State) (g : Nat) (f : Gang → Gang) : (s.modGang g f).cores = s.cores := rfl
@[simp] theorem State.modGang_engines (s : State) (g : Nat) (f : Gang → Gang) : (s.modGang g f).engines = s.engines := rfl
@[simp] theorem State.modGang_clusters (s : State) (g : Nat) (f : Gang → Gang) : (s.modGang g f).clusters = s.clusters := rfl
@[simp] theorem State.modGang_dies (s : State) (g : Nat) (f : Gang → Gang) : (s.modGang g f).dies = s.dies := rfl
@[simp] theorem State.modGang_homes (s : State) (g : Nat) (f : Gang → Gang) : (s.modGang g f).homes = s.homes := rfl
@[simp] theorem State.modGang_mem (s : State) (g : Nat) (f : Gang → Gang) : (s.modGang g f).mem = s.mem := rfl
@[simp] theorem State.modGang_taskBuf (s : State) (g : Nat) (f : Gang → Gang) : (s.modGang g f).taskBuf = s.taskBuf := rfl
@[simp] theorem State.modGang_regions (s : State) (g : Nat) (f : Gang → Gang) : (s.modGang g f).regions = s.regions := rfl
@[simp] theorem State.modGang_electrum (s : State) (g : Nat) (f : Gang → Gang) : (s.modGang g f).electrum = s.electrum := rfl
@[simp] theorem State.modGang_hostHalf (s : State) (g : Nat) (f : Gang → Gang) : (s.modGang g f).hostHalf = s.hostHalf := rfl
@[simp] theorem State.modGang_snoops (s : State) (g : Nat) (f : Gang → Gang) : (s.modGang g f).snoops = s.snoops := rfl
@[simp] theorem State.modGang_homeQ (s : State) (g : Nat) (f : Gang → Gang) : (s.modGang g f).homeQ = s.homeQ := rfl
@[simp] theorem State.modGang_sent (s : State) (g : Nat) (f : Gang → Gang) : (s.modGang g f).sent = s.sent := rfl
@[simp] theorem State.modGang_memBad (s : State) (g : Nat) (f : Gang → Gang) : (s.modGang g f).memBad = s.memBad := rfl
@[simp] theorem State.modGang_yields (s : State) (g : Nat) (f : Gang → Gang) : (s.modGang g f).yields = s.yields := rfl
@[simp] theorem State.modGang_refusals (s : State) (g : Nat) (f : Gang → Gang) : (s.modGang g f).refusals = s.refusals := rfl
@[simp] theorem State.modGang_port (s : State) (g : Nat) (f : Gang → Gang) : (s.modGang g f).port = s.port := rfl
@[simp] theorem State.modGang_win (s : State) (g : Nat) (f : Gang → Gang) : (s.modGang g f).win = s.win := rfl
@[simp] theorem State.modGang_ctxs (s : State) (g : Nat) (f : Gang → Gang) : (s.modGang g f).ctxs = s.ctxs := rfl
@[simp] theorem State.modGang_heads (s : State) (g : Nat) (f : Gang → Gang) : (s.modGang g f).heads = s.heads := rfl
@[simp] theorem State.modGang_msix (s : State) (g : Nat) (f : Gang → Gang) : (s.modGang g f).msix = s.msix := rfl
@[simp] theorem State.modGang_mgmt (s : State) (g : Nat) (f : Gang → Gang) : (s.modGang g f).mgmt = s.mgmt := rfl
@[simp] theorem State.modGang_linkFull (s : State) (g : Nat) (f : Gang → Gang) : (s.modGang g f).linkFull = s.linkFull := rfl
@[simp] theorem State.modGang_asker (s : State) (g : Nat) (f : Gang → Gang) : (s.modGang g f).asker = s.asker := rfl
@[simp] theorem State.modGang_picked (s : State) (g : Nat) (f : Gang → Gang) : (s.modGang g f).picked = s.picked := rfl
@[simp] theorem State.modGang_power (s : State) (g : Nat) (f : Gang → Gang) : (s.modGang g f).power = s.power := rfl
@[simp] theorem State.modGang_throttle (s : State) (g : Nat) (f : Gang → Gang) : (s.modGang g f).throttle = s.throttle := rfl
@[simp] theorem State.modGang_clusterPre (s : State) (g : Nat) (f : Gang → Gang) : (s.modGang g f).clusterPre = s.clusterPre := rfl
@[simp] theorem State.modGang_moves (s : State) (g : Nat) (f : Gang → Gang) : (s.modGang g f).moves = s.moves := rfl
@[simp] theorem State.modGang_timer (s : State) (g : Nat) (f : Gang → Gang) : (s.modGang g f).timer = s.timer := rfl
@[simp] theorem State.modGang_agenda (s : State) (g : Nat) (f : Gang → Gang) : (s.modGang g f).agenda = s.agenda := rfl
@[simp] theorem State.modGang_cur (s : State) (g : Nat) (f : Gang → Gang) : (s.modGang g f).cur = s.cur := rfl
@[simp] theorem State.modGang_free (s : State) (g : Nat) (f : Gang → Gang) : (s.modGang g f).free = s.free := rfl
@[simp] theorem State.modGang_nextId (s : State) (g : Nat) (f : Gang → Gang) : (s.modGang g f).nextId = s.nextId := rfl

/-! ### State.modCore -/

@[simp] theorem State.modCore_warps (s : State) (c : Nat) (f : Core → Core) : (s.modCore c f).warps = s.warps := rfl
@[simp] theorem State.modCore_wgs (s : State) (c : Nat) (f : Core → Core) : (s.modCore c f).wgs = s.wgs := rfl
@[simp] theorem State.modCore_gangs (s : State) (c : Nat) (f : Core → Core) : (s.modCore c f).gangs = s.gangs := rfl
@[simp] theorem State.modCore_launches (s : State) (c : Nat) (f : Core → Core) : (s.modCore c f).launches = s.launches := rfl
@[simp] theorem State.modCore_graphs (s : State) (c : Nat) (f : Core → Core) : (s.modCore c f).graphs = s.graphs := rfl
@[simp] theorem State.modCore_tasks (s : State) (c : Nat) (f : Core → Core) : (s.modCore c f).tasks = s.tasks := rfl
@[simp] theorem State.modCore_rasters (s : State) (c : Nat) (f : Core → Core) : (s.modCore c f).rasters = s.rasters := rfl
@[simp] theorem State.modCore_slots (s : State) (c : Nat) (f : Core → Core) : (s.modCore c f).slots = s.slots := rfl
@[simp] theorem State.modCore_engines (s : State) (c : Nat) (f : Core → Core) : (s.modCore c f).engines = s.engines := rfl
@[simp] theorem State.modCore_clusters (s : State) (c : Nat) (f : Core → Core) : (s.modCore c f).clusters = s.clusters := rfl
@[simp] theorem State.modCore_dies (s : State) (c : Nat) (f : Core → Core) : (s.modCore c f).dies = s.dies := rfl
@[simp] theorem State.modCore_homes (s : State) (c : Nat) (f : Core → Core) : (s.modCore c f).homes = s.homes := rfl
@[simp] theorem State.modCore_mem (s : State) (c : Nat) (f : Core → Core) : (s.modCore c f).mem = s.mem := rfl
@[simp] theorem State.modCore_taskBuf (s : State) (c : Nat) (f : Core → Core) : (s.modCore c f).taskBuf = s.taskBuf := rfl
@[simp] theorem State.modCore_regions (s : State) (c : Nat) (f : Core → Core) : (s.modCore c f).regions = s.regions := rfl
@[simp] theorem State.modCore_electrum (s : State) (c : Nat) (f : Core → Core) : (s.modCore c f).electrum = s.electrum := rfl
@[simp] theorem State.modCore_hostHalf (s : State) (c : Nat) (f : Core → Core) : (s.modCore c f).hostHalf = s.hostHalf := rfl
@[simp] theorem State.modCore_snoops (s : State) (c : Nat) (f : Core → Core) : (s.modCore c f).snoops = s.snoops := rfl
@[simp] theorem State.modCore_homeQ (s : State) (c : Nat) (f : Core → Core) : (s.modCore c f).homeQ = s.homeQ := rfl
@[simp] theorem State.modCore_sent (s : State) (c : Nat) (f : Core → Core) : (s.modCore c f).sent = s.sent := rfl
@[simp] theorem State.modCore_memBad (s : State) (c : Nat) (f : Core → Core) : (s.modCore c f).memBad = s.memBad := rfl
@[simp] theorem State.modCore_yields (s : State) (c : Nat) (f : Core → Core) : (s.modCore c f).yields = s.yields := rfl
@[simp] theorem State.modCore_refusals (s : State) (c : Nat) (f : Core → Core) : (s.modCore c f).refusals = s.refusals := rfl
@[simp] theorem State.modCore_port (s : State) (c : Nat) (f : Core → Core) : (s.modCore c f).port = s.port := rfl
@[simp] theorem State.modCore_win (s : State) (c : Nat) (f : Core → Core) : (s.modCore c f).win = s.win := rfl
@[simp] theorem State.modCore_ctxs (s : State) (c : Nat) (f : Core → Core) : (s.modCore c f).ctxs = s.ctxs := rfl
@[simp] theorem State.modCore_heads (s : State) (c : Nat) (f : Core → Core) : (s.modCore c f).heads = s.heads := rfl
@[simp] theorem State.modCore_msix (s : State) (c : Nat) (f : Core → Core) : (s.modCore c f).msix = s.msix := rfl
@[simp] theorem State.modCore_mgmt (s : State) (c : Nat) (f : Core → Core) : (s.modCore c f).mgmt = s.mgmt := rfl
@[simp] theorem State.modCore_linkFull (s : State) (c : Nat) (f : Core → Core) : (s.modCore c f).linkFull = s.linkFull := rfl
@[simp] theorem State.modCore_asker (s : State) (c : Nat) (f : Core → Core) : (s.modCore c f).asker = s.asker := rfl
@[simp] theorem State.modCore_picked (s : State) (c : Nat) (f : Core → Core) : (s.modCore c f).picked = s.picked := rfl
@[simp] theorem State.modCore_power (s : State) (c : Nat) (f : Core → Core) : (s.modCore c f).power = s.power := rfl
@[simp] theorem State.modCore_throttle (s : State) (c : Nat) (f : Core → Core) : (s.modCore c f).throttle = s.throttle := rfl
@[simp] theorem State.modCore_clusterPre (s : State) (c : Nat) (f : Core → Core) : (s.modCore c f).clusterPre = s.clusterPre := rfl
@[simp] theorem State.modCore_moves (s : State) (c : Nat) (f : Core → Core) : (s.modCore c f).moves = s.moves := rfl
@[simp] theorem State.modCore_timer (s : State) (c : Nat) (f : Core → Core) : (s.modCore c f).timer = s.timer := rfl
@[simp] theorem State.modCore_agenda (s : State) (c : Nat) (f : Core → Core) : (s.modCore c f).agenda = s.agenda := rfl
@[simp] theorem State.modCore_cur (s : State) (c : Nat) (f : Core → Core) : (s.modCore c f).cur = s.cur := rfl
@[simp] theorem State.modCore_free (s : State) (c : Nat) (f : Core → Core) : (s.modCore c f).free = s.free := rfl
@[simp] theorem State.modCore_nextId (s : State) (c : Nat) (f : Core → Core) : (s.modCore c f).nextId = s.nextId := rfl

/-! ### State.modDie -/

@[simp] theorem State.modDie_warps (s : State) (d : Nat) (f : Die → Die) : (s.modDie d f).warps = s.warps := rfl
@[simp] theorem State.modDie_wgs (s : State) (d : Nat) (f : Die → Die) : (s.modDie d f).wgs = s.wgs := rfl
@[simp] theorem State.modDie_gangs (s : State) (d : Nat) (f : Die → Die) : (s.modDie d f).gangs = s.gangs := rfl
@[simp] theorem State.modDie_launches (s : State) (d : Nat) (f : Die → Die) : (s.modDie d f).launches = s.launches := rfl
@[simp] theorem State.modDie_graphs (s : State) (d : Nat) (f : Die → Die) : (s.modDie d f).graphs = s.graphs := rfl
@[simp] theorem State.modDie_tasks (s : State) (d : Nat) (f : Die → Die) : (s.modDie d f).tasks = s.tasks := rfl
@[simp] theorem State.modDie_rasters (s : State) (d : Nat) (f : Die → Die) : (s.modDie d f).rasters = s.rasters := rfl
@[simp] theorem State.modDie_slots (s : State) (d : Nat) (f : Die → Die) : (s.modDie d f).slots = s.slots := rfl
@[simp] theorem State.modDie_cores (s : State) (d : Nat) (f : Die → Die) : (s.modDie d f).cores = s.cores := rfl
@[simp] theorem State.modDie_engines (s : State) (d : Nat) (f : Die → Die) : (s.modDie d f).engines = s.engines := rfl
@[simp] theorem State.modDie_clusters (s : State) (d : Nat) (f : Die → Die) : (s.modDie d f).clusters = s.clusters := rfl
@[simp] theorem State.modDie_homes (s : State) (d : Nat) (f : Die → Die) : (s.modDie d f).homes = s.homes := rfl
@[simp] theorem State.modDie_mem (s : State) (d : Nat) (f : Die → Die) : (s.modDie d f).mem = s.mem := rfl
@[simp] theorem State.modDie_taskBuf (s : State) (d : Nat) (f : Die → Die) : (s.modDie d f).taskBuf = s.taskBuf := rfl
@[simp] theorem State.modDie_regions (s : State) (d : Nat) (f : Die → Die) : (s.modDie d f).regions = s.regions := rfl
@[simp] theorem State.modDie_electrum (s : State) (d : Nat) (f : Die → Die) : (s.modDie d f).electrum = s.electrum := rfl
@[simp] theorem State.modDie_hostHalf (s : State) (d : Nat) (f : Die → Die) : (s.modDie d f).hostHalf = s.hostHalf := rfl
@[simp] theorem State.modDie_snoops (s : State) (d : Nat) (f : Die → Die) : (s.modDie d f).snoops = s.snoops := rfl
@[simp] theorem State.modDie_homeQ (s : State) (d : Nat) (f : Die → Die) : (s.modDie d f).homeQ = s.homeQ := rfl
@[simp] theorem State.modDie_sent (s : State) (d : Nat) (f : Die → Die) : (s.modDie d f).sent = s.sent := rfl
@[simp] theorem State.modDie_memBad (s : State) (d : Nat) (f : Die → Die) : (s.modDie d f).memBad = s.memBad := rfl
@[simp] theorem State.modDie_yields (s : State) (d : Nat) (f : Die → Die) : (s.modDie d f).yields = s.yields := rfl
@[simp] theorem State.modDie_refusals (s : State) (d : Nat) (f : Die → Die) : (s.modDie d f).refusals = s.refusals := rfl
@[simp] theorem State.modDie_port (s : State) (d : Nat) (f : Die → Die) : (s.modDie d f).port = s.port := rfl
@[simp] theorem State.modDie_win (s : State) (d : Nat) (f : Die → Die) : (s.modDie d f).win = s.win := rfl
@[simp] theorem State.modDie_ctxs (s : State) (d : Nat) (f : Die → Die) : (s.modDie d f).ctxs = s.ctxs := rfl
@[simp] theorem State.modDie_heads (s : State) (d : Nat) (f : Die → Die) : (s.modDie d f).heads = s.heads := rfl
@[simp] theorem State.modDie_msix (s : State) (d : Nat) (f : Die → Die) : (s.modDie d f).msix = s.msix := rfl
@[simp] theorem State.modDie_mgmt (s : State) (d : Nat) (f : Die → Die) : (s.modDie d f).mgmt = s.mgmt := rfl
@[simp] theorem State.modDie_linkFull (s : State) (d : Nat) (f : Die → Die) : (s.modDie d f).linkFull = s.linkFull := rfl
@[simp] theorem State.modDie_asker (s : State) (d : Nat) (f : Die → Die) : (s.modDie d f).asker = s.asker := rfl
@[simp] theorem State.modDie_picked (s : State) (d : Nat) (f : Die → Die) : (s.modDie d f).picked = s.picked := rfl
@[simp] theorem State.modDie_power (s : State) (d : Nat) (f : Die → Die) : (s.modDie d f).power = s.power := rfl
@[simp] theorem State.modDie_throttle (s : State) (d : Nat) (f : Die → Die) : (s.modDie d f).throttle = s.throttle := rfl
@[simp] theorem State.modDie_clusterPre (s : State) (d : Nat) (f : Die → Die) : (s.modDie d f).clusterPre = s.clusterPre := rfl
@[simp] theorem State.modDie_moves (s : State) (d : Nat) (f : Die → Die) : (s.modDie d f).moves = s.moves := rfl
@[simp] theorem State.modDie_timer (s : State) (d : Nat) (f : Die → Die) : (s.modDie d f).timer = s.timer := rfl
@[simp] theorem State.modDie_agenda (s : State) (d : Nat) (f : Die → Die) : (s.modDie d f).agenda = s.agenda := rfl
@[simp] theorem State.modDie_cur (s : State) (d : Nat) (f : Die → Die) : (s.modDie d f).cur = s.cur := rfl
@[simp] theorem State.modDie_free (s : State) (d : Nat) (f : Die → Die) : (s.modDie d f).free = s.free := rfl
@[simp] theorem State.modDie_nextId (s : State) (d : Nat) (f : Die → Die) : (s.modDie d f).nextId = s.nextId := rfl

/-! ### State.modHome -/

@[simp] theorem State.modHome_warps (s : State) (n : Nat) (f : StackHome → StackHome) : (s.modHome n f).warps = s.warps := rfl
@[simp] theorem State.modHome_wgs (s : State) (n : Nat) (f : StackHome → StackHome) : (s.modHome n f).wgs = s.wgs := rfl
@[simp] theorem State.modHome_gangs (s : State) (n : Nat) (f : StackHome → StackHome) : (s.modHome n f).gangs = s.gangs := rfl
@[simp] theorem State.modHome_launches (s : State) (n : Nat) (f : StackHome → StackHome) : (s.modHome n f).launches = s.launches := rfl
@[simp] theorem State.modHome_graphs (s : State) (n : Nat) (f : StackHome → StackHome) : (s.modHome n f).graphs = s.graphs := rfl
@[simp] theorem State.modHome_tasks (s : State) (n : Nat) (f : StackHome → StackHome) : (s.modHome n f).tasks = s.tasks := rfl
@[simp] theorem State.modHome_rasters (s : State) (n : Nat) (f : StackHome → StackHome) : (s.modHome n f).rasters = s.rasters := rfl
@[simp] theorem State.modHome_slots (s : State) (n : Nat) (f : StackHome → StackHome) : (s.modHome n f).slots = s.slots := rfl
@[simp] theorem State.modHome_cores (s : State) (n : Nat) (f : StackHome → StackHome) : (s.modHome n f).cores = s.cores := rfl
@[simp] theorem State.modHome_engines (s : State) (n : Nat) (f : StackHome → StackHome) : (s.modHome n f).engines = s.engines := rfl
@[simp] theorem State.modHome_clusters (s : State) (n : Nat) (f : StackHome → StackHome) : (s.modHome n f).clusters = s.clusters := rfl
@[simp] theorem State.modHome_dies (s : State) (n : Nat) (f : StackHome → StackHome) : (s.modHome n f).dies = s.dies := rfl
@[simp] theorem State.modHome_mem (s : State) (n : Nat) (f : StackHome → StackHome) : (s.modHome n f).mem = s.mem := rfl
@[simp] theorem State.modHome_taskBuf (s : State) (n : Nat) (f : StackHome → StackHome) : (s.modHome n f).taskBuf = s.taskBuf := rfl
@[simp] theorem State.modHome_regions (s : State) (n : Nat) (f : StackHome → StackHome) : (s.modHome n f).regions = s.regions := rfl
@[simp] theorem State.modHome_electrum (s : State) (n : Nat) (f : StackHome → StackHome) : (s.modHome n f).electrum = s.electrum := rfl
@[simp] theorem State.modHome_hostHalf (s : State) (n : Nat) (f : StackHome → StackHome) : (s.modHome n f).hostHalf = s.hostHalf := rfl
@[simp] theorem State.modHome_snoops (s : State) (n : Nat) (f : StackHome → StackHome) : (s.modHome n f).snoops = s.snoops := rfl
@[simp] theorem State.modHome_homeQ (s : State) (n : Nat) (f : StackHome → StackHome) : (s.modHome n f).homeQ = s.homeQ := rfl
@[simp] theorem State.modHome_sent (s : State) (n : Nat) (f : StackHome → StackHome) : (s.modHome n f).sent = s.sent := rfl
@[simp] theorem State.modHome_memBad (s : State) (n : Nat) (f : StackHome → StackHome) : (s.modHome n f).memBad = s.memBad := rfl
@[simp] theorem State.modHome_yields (s : State) (n : Nat) (f : StackHome → StackHome) : (s.modHome n f).yields = s.yields := rfl
@[simp] theorem State.modHome_refusals (s : State) (n : Nat) (f : StackHome → StackHome) : (s.modHome n f).refusals = s.refusals := rfl
@[simp] theorem State.modHome_port (s : State) (n : Nat) (f : StackHome → StackHome) : (s.modHome n f).port = s.port := rfl
@[simp] theorem State.modHome_win (s : State) (n : Nat) (f : StackHome → StackHome) : (s.modHome n f).win = s.win := rfl
@[simp] theorem State.modHome_ctxs (s : State) (n : Nat) (f : StackHome → StackHome) : (s.modHome n f).ctxs = s.ctxs := rfl
@[simp] theorem State.modHome_heads (s : State) (n : Nat) (f : StackHome → StackHome) : (s.modHome n f).heads = s.heads := rfl
@[simp] theorem State.modHome_msix (s : State) (n : Nat) (f : StackHome → StackHome) : (s.modHome n f).msix = s.msix := rfl
@[simp] theorem State.modHome_mgmt (s : State) (n : Nat) (f : StackHome → StackHome) : (s.modHome n f).mgmt = s.mgmt := rfl
@[simp] theorem State.modHome_linkFull (s : State) (n : Nat) (f : StackHome → StackHome) : (s.modHome n f).linkFull = s.linkFull := rfl
@[simp] theorem State.modHome_asker (s : State) (n : Nat) (f : StackHome → StackHome) : (s.modHome n f).asker = s.asker := rfl
@[simp] theorem State.modHome_picked (s : State) (n : Nat) (f : StackHome → StackHome) : (s.modHome n f).picked = s.picked := rfl
@[simp] theorem State.modHome_power (s : State) (n : Nat) (f : StackHome → StackHome) : (s.modHome n f).power = s.power := rfl
@[simp] theorem State.modHome_throttle (s : State) (n : Nat) (f : StackHome → StackHome) : (s.modHome n f).throttle = s.throttle := rfl
@[simp] theorem State.modHome_clusterPre (s : State) (n : Nat) (f : StackHome → StackHome) : (s.modHome n f).clusterPre = s.clusterPre := rfl
@[simp] theorem State.modHome_moves (s : State) (n : Nat) (f : StackHome → StackHome) : (s.modHome n f).moves = s.moves := rfl
@[simp] theorem State.modHome_timer (s : State) (n : Nat) (f : StackHome → StackHome) : (s.modHome n f).timer = s.timer := rfl
@[simp] theorem State.modHome_agenda (s : State) (n : Nat) (f : StackHome → StackHome) : (s.modHome n f).agenda = s.agenda := rfl
@[simp] theorem State.modHome_cur (s : State) (n : Nat) (f : StackHome → StackHome) : (s.modHome n f).cur = s.cur := rfl
@[simp] theorem State.modHome_free (s : State) (n : Nat) (f : StackHome → StackHome) : (s.modHome n f).free = s.free := rfl
@[simp] theorem State.modHome_nextId (s : State) (n : Nat) (f : StackHome → StackHome) : (s.modHome n f).nextId = s.nextId := rfl

/-! ### State.modCtx -/

@[simp] theorem State.modCtx_warps (s : State) (n : Nat) (f : Context → Context) : (s.modCtx n f).warps = s.warps := rfl
@[simp] theorem State.modCtx_wgs (s : State) (n : Nat) (f : Context → Context) : (s.modCtx n f).wgs = s.wgs := rfl
@[simp] theorem State.modCtx_gangs (s : State) (n : Nat) (f : Context → Context) : (s.modCtx n f).gangs = s.gangs := rfl
@[simp] theorem State.modCtx_launches (s : State) (n : Nat) (f : Context → Context) : (s.modCtx n f).launches = s.launches := rfl
@[simp] theorem State.modCtx_graphs (s : State) (n : Nat) (f : Context → Context) : (s.modCtx n f).graphs = s.graphs := rfl
@[simp] theorem State.modCtx_tasks (s : State) (n : Nat) (f : Context → Context) : (s.modCtx n f).tasks = s.tasks := rfl
@[simp] theorem State.modCtx_rasters (s : State) (n : Nat) (f : Context → Context) : (s.modCtx n f).rasters = s.rasters := rfl
@[simp] theorem State.modCtx_slots (s : State) (n : Nat) (f : Context → Context) : (s.modCtx n f).slots = s.slots := rfl
@[simp] theorem State.modCtx_cores (s : State) (n : Nat) (f : Context → Context) : (s.modCtx n f).cores = s.cores := rfl
@[simp] theorem State.modCtx_engines (s : State) (n : Nat) (f : Context → Context) : (s.modCtx n f).engines = s.engines := rfl
@[simp] theorem State.modCtx_clusters (s : State) (n : Nat) (f : Context → Context) : (s.modCtx n f).clusters = s.clusters := rfl
@[simp] theorem State.modCtx_dies (s : State) (n : Nat) (f : Context → Context) : (s.modCtx n f).dies = s.dies := rfl
@[simp] theorem State.modCtx_homes (s : State) (n : Nat) (f : Context → Context) : (s.modCtx n f).homes = s.homes := rfl
@[simp] theorem State.modCtx_mem (s : State) (n : Nat) (f : Context → Context) : (s.modCtx n f).mem = s.mem := rfl
@[simp] theorem State.modCtx_taskBuf (s : State) (n : Nat) (f : Context → Context) : (s.modCtx n f).taskBuf = s.taskBuf := rfl
@[simp] theorem State.modCtx_regions (s : State) (n : Nat) (f : Context → Context) : (s.modCtx n f).regions = s.regions := rfl
@[simp] theorem State.modCtx_electrum (s : State) (n : Nat) (f : Context → Context) : (s.modCtx n f).electrum = s.electrum := rfl
@[simp] theorem State.modCtx_hostHalf (s : State) (n : Nat) (f : Context → Context) : (s.modCtx n f).hostHalf = s.hostHalf := rfl
@[simp] theorem State.modCtx_snoops (s : State) (n : Nat) (f : Context → Context) : (s.modCtx n f).snoops = s.snoops := rfl
@[simp] theorem State.modCtx_homeQ (s : State) (n : Nat) (f : Context → Context) : (s.modCtx n f).homeQ = s.homeQ := rfl
@[simp] theorem State.modCtx_sent (s : State) (n : Nat) (f : Context → Context) : (s.modCtx n f).sent = s.sent := rfl
@[simp] theorem State.modCtx_memBad (s : State) (n : Nat) (f : Context → Context) : (s.modCtx n f).memBad = s.memBad := rfl
@[simp] theorem State.modCtx_yields (s : State) (n : Nat) (f : Context → Context) : (s.modCtx n f).yields = s.yields := rfl
@[simp] theorem State.modCtx_refusals (s : State) (n : Nat) (f : Context → Context) : (s.modCtx n f).refusals = s.refusals := rfl
@[simp] theorem State.modCtx_port (s : State) (n : Nat) (f : Context → Context) : (s.modCtx n f).port = s.port := rfl
@[simp] theorem State.modCtx_win (s : State) (n : Nat) (f : Context → Context) : (s.modCtx n f).win = s.win := rfl
@[simp] theorem State.modCtx_heads (s : State) (n : Nat) (f : Context → Context) : (s.modCtx n f).heads = s.heads := rfl
@[simp] theorem State.modCtx_msix (s : State) (n : Nat) (f : Context → Context) : (s.modCtx n f).msix = s.msix := rfl
@[simp] theorem State.modCtx_mgmt (s : State) (n : Nat) (f : Context → Context) : (s.modCtx n f).mgmt = s.mgmt := rfl
@[simp] theorem State.modCtx_linkFull (s : State) (n : Nat) (f : Context → Context) : (s.modCtx n f).linkFull = s.linkFull := rfl
@[simp] theorem State.modCtx_asker (s : State) (n : Nat) (f : Context → Context) : (s.modCtx n f).asker = s.asker := rfl
@[simp] theorem State.modCtx_picked (s : State) (n : Nat) (f : Context → Context) : (s.modCtx n f).picked = s.picked := rfl
@[simp] theorem State.modCtx_power (s : State) (n : Nat) (f : Context → Context) : (s.modCtx n f).power = s.power := rfl
@[simp] theorem State.modCtx_throttle (s : State) (n : Nat) (f : Context → Context) : (s.modCtx n f).throttle = s.throttle := rfl
@[simp] theorem State.modCtx_clusterPre (s : State) (n : Nat) (f : Context → Context) : (s.modCtx n f).clusterPre = s.clusterPre := rfl
@[simp] theorem State.modCtx_moves (s : State) (n : Nat) (f : Context → Context) : (s.modCtx n f).moves = s.moves := rfl
@[simp] theorem State.modCtx_timer (s : State) (n : Nat) (f : Context → Context) : (s.modCtx n f).timer = s.timer := rfl
@[simp] theorem State.modCtx_agenda (s : State) (n : Nat) (f : Context → Context) : (s.modCtx n f).agenda = s.agenda := rfl
@[simp] theorem State.modCtx_cur (s : State) (n : Nat) (f : Context → Context) : (s.modCtx n f).cur = s.cur := rfl
@[simp] theorem State.modCtx_free (s : State) (n : Nat) (f : Context → Context) : (s.modCtx n f).free = s.free := rfl
@[simp] theorem State.modCtx_nextId (s : State) (n : Nat) (f : Context → Context) : (s.modCtx n f).nextId = s.nextId := rfl

/-! ### State.modEngine -/

@[simp] theorem State.modEngine_warps (s : State) (k : Nat) (f : Engine → Engine) : (s.modEngine k f).warps = s.warps := rfl
@[simp] theorem State.modEngine_wgs (s : State) (k : Nat) (f : Engine → Engine) : (s.modEngine k f).wgs = s.wgs := rfl
@[simp] theorem State.modEngine_gangs (s : State) (k : Nat) (f : Engine → Engine) : (s.modEngine k f).gangs = s.gangs := rfl
@[simp] theorem State.modEngine_launches (s : State) (k : Nat) (f : Engine → Engine) : (s.modEngine k f).launches = s.launches := rfl
@[simp] theorem State.modEngine_graphs (s : State) (k : Nat) (f : Engine → Engine) : (s.modEngine k f).graphs = s.graphs := rfl
@[simp] theorem State.modEngine_tasks (s : State) (k : Nat) (f : Engine → Engine) : (s.modEngine k f).tasks = s.tasks := rfl
@[simp] theorem State.modEngine_rasters (s : State) (k : Nat) (f : Engine → Engine) : (s.modEngine k f).rasters = s.rasters := rfl
@[simp] theorem State.modEngine_slots (s : State) (k : Nat) (f : Engine → Engine) : (s.modEngine k f).slots = s.slots := rfl
@[simp] theorem State.modEngine_cores (s : State) (k : Nat) (f : Engine → Engine) : (s.modEngine k f).cores = s.cores := rfl
@[simp] theorem State.modEngine_clusters (s : State) (k : Nat) (f : Engine → Engine) : (s.modEngine k f).clusters = s.clusters := rfl
@[simp] theorem State.modEngine_dies (s : State) (k : Nat) (f : Engine → Engine) : (s.modEngine k f).dies = s.dies := rfl
@[simp] theorem State.modEngine_homes (s : State) (k : Nat) (f : Engine → Engine) : (s.modEngine k f).homes = s.homes := rfl
@[simp] theorem State.modEngine_mem (s : State) (k : Nat) (f : Engine → Engine) : (s.modEngine k f).mem = s.mem := rfl
@[simp] theorem State.modEngine_taskBuf (s : State) (k : Nat) (f : Engine → Engine) : (s.modEngine k f).taskBuf = s.taskBuf := rfl
@[simp] theorem State.modEngine_regions (s : State) (k : Nat) (f : Engine → Engine) : (s.modEngine k f).regions = s.regions := rfl
@[simp] theorem State.modEngine_electrum (s : State) (k : Nat) (f : Engine → Engine) : (s.modEngine k f).electrum = s.electrum := rfl
@[simp] theorem State.modEngine_hostHalf (s : State) (k : Nat) (f : Engine → Engine) : (s.modEngine k f).hostHalf = s.hostHalf := rfl
@[simp] theorem State.modEngine_snoops (s : State) (k : Nat) (f : Engine → Engine) : (s.modEngine k f).snoops = s.snoops := rfl
@[simp] theorem State.modEngine_homeQ (s : State) (k : Nat) (f : Engine → Engine) : (s.modEngine k f).homeQ = s.homeQ := rfl
@[simp] theorem State.modEngine_sent (s : State) (k : Nat) (f : Engine → Engine) : (s.modEngine k f).sent = s.sent := rfl
@[simp] theorem State.modEngine_memBad (s : State) (k : Nat) (f : Engine → Engine) : (s.modEngine k f).memBad = s.memBad := rfl
@[simp] theorem State.modEngine_yields (s : State) (k : Nat) (f : Engine → Engine) : (s.modEngine k f).yields = s.yields := rfl
@[simp] theorem State.modEngine_refusals (s : State) (k : Nat) (f : Engine → Engine) : (s.modEngine k f).refusals = s.refusals := rfl
@[simp] theorem State.modEngine_port (s : State) (k : Nat) (f : Engine → Engine) : (s.modEngine k f).port = s.port := rfl
@[simp] theorem State.modEngine_win (s : State) (k : Nat) (f : Engine → Engine) : (s.modEngine k f).win = s.win := rfl
@[simp] theorem State.modEngine_ctxs (s : State) (k : Nat) (f : Engine → Engine) : (s.modEngine k f).ctxs = s.ctxs := rfl
@[simp] theorem State.modEngine_heads (s : State) (k : Nat) (f : Engine → Engine) : (s.modEngine k f).heads = s.heads := rfl
@[simp] theorem State.modEngine_msix (s : State) (k : Nat) (f : Engine → Engine) : (s.modEngine k f).msix = s.msix := rfl
@[simp] theorem State.modEngine_mgmt (s : State) (k : Nat) (f : Engine → Engine) : (s.modEngine k f).mgmt = s.mgmt := rfl
@[simp] theorem State.modEngine_linkFull (s : State) (k : Nat) (f : Engine → Engine) : (s.modEngine k f).linkFull = s.linkFull := rfl
@[simp] theorem State.modEngine_asker (s : State) (k : Nat) (f : Engine → Engine) : (s.modEngine k f).asker = s.asker := rfl
@[simp] theorem State.modEngine_picked (s : State) (k : Nat) (f : Engine → Engine) : (s.modEngine k f).picked = s.picked := rfl
@[simp] theorem State.modEngine_power (s : State) (k : Nat) (f : Engine → Engine) : (s.modEngine k f).power = s.power := rfl
@[simp] theorem State.modEngine_throttle (s : State) (k : Nat) (f : Engine → Engine) : (s.modEngine k f).throttle = s.throttle := rfl
@[simp] theorem State.modEngine_clusterPre (s : State) (k : Nat) (f : Engine → Engine) : (s.modEngine k f).clusterPre = s.clusterPre := rfl
@[simp] theorem State.modEngine_moves (s : State) (k : Nat) (f : Engine → Engine) : (s.modEngine k f).moves = s.moves := rfl
@[simp] theorem State.modEngine_timer (s : State) (k : Nat) (f : Engine → Engine) : (s.modEngine k f).timer = s.timer := rfl
@[simp] theorem State.modEngine_agenda (s : State) (k : Nat) (f : Engine → Engine) : (s.modEngine k f).agenda = s.agenda := rfl
@[simp] theorem State.modEngine_cur (s : State) (k : Nat) (f : Engine → Engine) : (s.modEngine k f).cur = s.cur := rfl
@[simp] theorem State.modEngine_free (s : State) (k : Nat) (f : Engine → Engine) : (s.modEngine k f).free = s.free := rfl
@[simp] theorem State.modEngine_nextId (s : State) (k : Nat) (f : Engine → Engine) : (s.modEngine k f).nextId = s.nextId := rfl

/-! ### State.modSlot -/

@[simp] theorem State.modSlot_warps (s : State) (n : Nat) (f : Slot → Slot) : (s.modSlot n f).warps = s.warps := rfl
@[simp] theorem State.modSlot_wgs (s : State) (n : Nat) (f : Slot → Slot) : (s.modSlot n f).wgs = s.wgs := rfl
@[simp] theorem State.modSlot_gangs (s : State) (n : Nat) (f : Slot → Slot) : (s.modSlot n f).gangs = s.gangs := rfl
@[simp] theorem State.modSlot_launches (s : State) (n : Nat) (f : Slot → Slot) : (s.modSlot n f).launches = s.launches := rfl
@[simp] theorem State.modSlot_graphs (s : State) (n : Nat) (f : Slot → Slot) : (s.modSlot n f).graphs = s.graphs := rfl
@[simp] theorem State.modSlot_tasks (s : State) (n : Nat) (f : Slot → Slot) : (s.modSlot n f).tasks = s.tasks := rfl
@[simp] theorem State.modSlot_rasters (s : State) (n : Nat) (f : Slot → Slot) : (s.modSlot n f).rasters = s.rasters := rfl
@[simp] theorem State.modSlot_cores (s : State) (n : Nat) (f : Slot → Slot) : (s.modSlot n f).cores = s.cores := rfl
@[simp] theorem State.modSlot_engines (s : State) (n : Nat) (f : Slot → Slot) : (s.modSlot n f).engines = s.engines := rfl
@[simp] theorem State.modSlot_clusters (s : State) (n : Nat) (f : Slot → Slot) : (s.modSlot n f).clusters = s.clusters := rfl
@[simp] theorem State.modSlot_dies (s : State) (n : Nat) (f : Slot → Slot) : (s.modSlot n f).dies = s.dies := rfl
@[simp] theorem State.modSlot_homes (s : State) (n : Nat) (f : Slot → Slot) : (s.modSlot n f).homes = s.homes := rfl
@[simp] theorem State.modSlot_mem (s : State) (n : Nat) (f : Slot → Slot) : (s.modSlot n f).mem = s.mem := rfl
@[simp] theorem State.modSlot_taskBuf (s : State) (n : Nat) (f : Slot → Slot) : (s.modSlot n f).taskBuf = s.taskBuf := rfl
@[simp] theorem State.modSlot_regions (s : State) (n : Nat) (f : Slot → Slot) : (s.modSlot n f).regions = s.regions := rfl
@[simp] theorem State.modSlot_electrum (s : State) (n : Nat) (f : Slot → Slot) : (s.modSlot n f).electrum = s.electrum := rfl
@[simp] theorem State.modSlot_hostHalf (s : State) (n : Nat) (f : Slot → Slot) : (s.modSlot n f).hostHalf = s.hostHalf := rfl
@[simp] theorem State.modSlot_snoops (s : State) (n : Nat) (f : Slot → Slot) : (s.modSlot n f).snoops = s.snoops := rfl
@[simp] theorem State.modSlot_homeQ (s : State) (n : Nat) (f : Slot → Slot) : (s.modSlot n f).homeQ = s.homeQ := rfl
@[simp] theorem State.modSlot_sent (s : State) (n : Nat) (f : Slot → Slot) : (s.modSlot n f).sent = s.sent := rfl
@[simp] theorem State.modSlot_memBad (s : State) (n : Nat) (f : Slot → Slot) : (s.modSlot n f).memBad = s.memBad := rfl
@[simp] theorem State.modSlot_yields (s : State) (n : Nat) (f : Slot → Slot) : (s.modSlot n f).yields = s.yields := rfl
@[simp] theorem State.modSlot_refusals (s : State) (n : Nat) (f : Slot → Slot) : (s.modSlot n f).refusals = s.refusals := rfl
@[simp] theorem State.modSlot_port (s : State) (n : Nat) (f : Slot → Slot) : (s.modSlot n f).port = s.port := rfl
@[simp] theorem State.modSlot_win (s : State) (n : Nat) (f : Slot → Slot) : (s.modSlot n f).win = s.win := rfl
@[simp] theorem State.modSlot_ctxs (s : State) (n : Nat) (f : Slot → Slot) : (s.modSlot n f).ctxs = s.ctxs := rfl
@[simp] theorem State.modSlot_heads (s : State) (n : Nat) (f : Slot → Slot) : (s.modSlot n f).heads = s.heads := rfl
@[simp] theorem State.modSlot_msix (s : State) (n : Nat) (f : Slot → Slot) : (s.modSlot n f).msix = s.msix := rfl
@[simp] theorem State.modSlot_mgmt (s : State) (n : Nat) (f : Slot → Slot) : (s.modSlot n f).mgmt = s.mgmt := rfl
@[simp] theorem State.modSlot_linkFull (s : State) (n : Nat) (f : Slot → Slot) : (s.modSlot n f).linkFull = s.linkFull := rfl
@[simp] theorem State.modSlot_asker (s : State) (n : Nat) (f : Slot → Slot) : (s.modSlot n f).asker = s.asker := rfl
@[simp] theorem State.modSlot_picked (s : State) (n : Nat) (f : Slot → Slot) : (s.modSlot n f).picked = s.picked := rfl
@[simp] theorem State.modSlot_power (s : State) (n : Nat) (f : Slot → Slot) : (s.modSlot n f).power = s.power := rfl
@[simp] theorem State.modSlot_throttle (s : State) (n : Nat) (f : Slot → Slot) : (s.modSlot n f).throttle = s.throttle := rfl
@[simp] theorem State.modSlot_clusterPre (s : State) (n : Nat) (f : Slot → Slot) : (s.modSlot n f).clusterPre = s.clusterPre := rfl
@[simp] theorem State.modSlot_moves (s : State) (n : Nat) (f : Slot → Slot) : (s.modSlot n f).moves = s.moves := rfl
@[simp] theorem State.modSlot_timer (s : State) (n : Nat) (f : Slot → Slot) : (s.modSlot n f).timer = s.timer := rfl
@[simp] theorem State.modSlot_agenda (s : State) (n : Nat) (f : Slot → Slot) : (s.modSlot n f).agenda = s.agenda := rfl
@[simp] theorem State.modSlot_cur (s : State) (n : Nat) (f : Slot → Slot) : (s.modSlot n f).cur = s.cur := rfl
@[simp] theorem State.modSlot_free (s : State) (n : Nat) (f : Slot → Slot) : (s.modSlot n f).free = s.free := rfl
@[simp] theorem State.modSlot_nextId (s : State) (n : Nat) (f : Slot → Slot) : (s.modSlot n f).nextId = s.nextId := rfl

/-! ### State.setColLine -/

@[simp] theorem State.setColLine_warps (s : State) (c k : Nat) (l : Line) : (s.setColLine c k l).warps = s.warps := rfl
@[simp] theorem State.setColLine_wgs (s : State) (c k : Nat) (l : Line) : (s.setColLine c k l).wgs = s.wgs := rfl
@[simp] theorem State.setColLine_gangs (s : State) (c k : Nat) (l : Line) : (s.setColLine c k l).gangs = s.gangs := rfl
@[simp] theorem State.setColLine_launches (s : State) (c k : Nat) (l : Line) : (s.setColLine c k l).launches = s.launches := rfl
@[simp] theorem State.setColLine_graphs (s : State) (c k : Nat) (l : Line) : (s.setColLine c k l).graphs = s.graphs := rfl
@[simp] theorem State.setColLine_tasks (s : State) (c k : Nat) (l : Line) : (s.setColLine c k l).tasks = s.tasks := rfl
@[simp] theorem State.setColLine_rasters (s : State) (c k : Nat) (l : Line) : (s.setColLine c k l).rasters = s.rasters := rfl
@[simp] theorem State.setColLine_slots (s : State) (c k : Nat) (l : Line) : (s.setColLine c k l).slots = s.slots := rfl
@[simp] theorem State.setColLine_engines (s : State) (c k : Nat) (l : Line) : (s.setColLine c k l).engines = s.engines := rfl
@[simp] theorem State.setColLine_clusters (s : State) (c k : Nat) (l : Line) : (s.setColLine c k l).clusters = s.clusters := rfl
@[simp] theorem State.setColLine_dies (s : State) (c k : Nat) (l : Line) : (s.setColLine c k l).dies = s.dies := rfl
@[simp] theorem State.setColLine_homes (s : State) (c k : Nat) (l : Line) : (s.setColLine c k l).homes = s.homes := rfl
@[simp] theorem State.setColLine_mem (s : State) (c k : Nat) (l : Line) : (s.setColLine c k l).mem = s.mem := rfl
@[simp] theorem State.setColLine_taskBuf (s : State) (c k : Nat) (l : Line) : (s.setColLine c k l).taskBuf = s.taskBuf := rfl
@[simp] theorem State.setColLine_regions (s : State) (c k : Nat) (l : Line) : (s.setColLine c k l).regions = s.regions := rfl
@[simp] theorem State.setColLine_electrum (s : State) (c k : Nat) (l : Line) : (s.setColLine c k l).electrum = s.electrum := rfl
@[simp] theorem State.setColLine_hostHalf (s : State) (c k : Nat) (l : Line) : (s.setColLine c k l).hostHalf = s.hostHalf := rfl
@[simp] theorem State.setColLine_snoops (s : State) (c k : Nat) (l : Line) : (s.setColLine c k l).snoops = s.snoops := rfl
@[simp] theorem State.setColLine_homeQ (s : State) (c k : Nat) (l : Line) : (s.setColLine c k l).homeQ = s.homeQ := rfl
@[simp] theorem State.setColLine_sent (s : State) (c k : Nat) (l : Line) : (s.setColLine c k l).sent = s.sent := rfl
@[simp] theorem State.setColLine_memBad (s : State) (c k : Nat) (l : Line) : (s.setColLine c k l).memBad = s.memBad := rfl
@[simp] theorem State.setColLine_yields (s : State) (c k : Nat) (l : Line) : (s.setColLine c k l).yields = s.yields := rfl
@[simp] theorem State.setColLine_refusals (s : State) (c k : Nat) (l : Line) : (s.setColLine c k l).refusals = s.refusals := rfl
@[simp] theorem State.setColLine_port (s : State) (c k : Nat) (l : Line) : (s.setColLine c k l).port = s.port := rfl
@[simp] theorem State.setColLine_win (s : State) (c k : Nat) (l : Line) : (s.setColLine c k l).win = s.win := rfl
@[simp] theorem State.setColLine_ctxs (s : State) (c k : Nat) (l : Line) : (s.setColLine c k l).ctxs = s.ctxs := rfl
@[simp] theorem State.setColLine_heads (s : State) (c k : Nat) (l : Line) : (s.setColLine c k l).heads = s.heads := rfl
@[simp] theorem State.setColLine_msix (s : State) (c k : Nat) (l : Line) : (s.setColLine c k l).msix = s.msix := rfl
@[simp] theorem State.setColLine_mgmt (s : State) (c k : Nat) (l : Line) : (s.setColLine c k l).mgmt = s.mgmt := rfl
@[simp] theorem State.setColLine_linkFull (s : State) (c k : Nat) (l : Line) : (s.setColLine c k l).linkFull = s.linkFull := rfl
@[simp] theorem State.setColLine_asker (s : State) (c k : Nat) (l : Line) : (s.setColLine c k l).asker = s.asker := rfl
@[simp] theorem State.setColLine_picked (s : State) (c k : Nat) (l : Line) : (s.setColLine c k l).picked = s.picked := rfl
@[simp] theorem State.setColLine_power (s : State) (c k : Nat) (l : Line) : (s.setColLine c k l).power = s.power := rfl
@[simp] theorem State.setColLine_throttle (s : State) (c k : Nat) (l : Line) : (s.setColLine c k l).throttle = s.throttle := rfl
@[simp] theorem State.setColLine_clusterPre (s : State) (c k : Nat) (l : Line) : (s.setColLine c k l).clusterPre = s.clusterPre := rfl
@[simp] theorem State.setColLine_moves (s : State) (c k : Nat) (l : Line) : (s.setColLine c k l).moves = s.moves := rfl
@[simp] theorem State.setColLine_timer (s : State) (c k : Nat) (l : Line) : (s.setColLine c k l).timer = s.timer := rfl
@[simp] theorem State.setColLine_agenda (s : State) (c k : Nat) (l : Line) : (s.setColLine c k l).agenda = s.agenda := rfl
@[simp] theorem State.setColLine_cur (s : State) (c k : Nat) (l : Line) : (s.setColLine c k l).cur = s.cur := rfl
@[simp] theorem State.setColLine_free (s : State) (c k : Nat) (l : Line) : (s.setColLine c k l).free = s.free := rfl
@[simp] theorem State.setColLine_nextId (s : State) (c k : Nat) (l : Line) : (s.setColLine c k l).nextId = s.nextId := rfl

/-! ### State.bump -/

@[simp] theorem State.bump_warps (s : State) : (s.bump).warps = s.warps := rfl
@[simp] theorem State.bump_wgs (s : State) : (s.bump).wgs = s.wgs := rfl
@[simp] theorem State.bump_gangs (s : State) : (s.bump).gangs = s.gangs := rfl
@[simp] theorem State.bump_launches (s : State) : (s.bump).launches = s.launches := rfl
@[simp] theorem State.bump_graphs (s : State) : (s.bump).graphs = s.graphs := rfl
@[simp] theorem State.bump_tasks (s : State) : (s.bump).tasks = s.tasks := rfl
@[simp] theorem State.bump_rasters (s : State) : (s.bump).rasters = s.rasters := rfl
@[simp] theorem State.bump_slots (s : State) : (s.bump).slots = s.slots := rfl
@[simp] theorem State.bump_cores (s : State) : (s.bump).cores = s.cores := rfl
@[simp] theorem State.bump_engines (s : State) : (s.bump).engines = s.engines := rfl
@[simp] theorem State.bump_clusters (s : State) : (s.bump).clusters = s.clusters := rfl
@[simp] theorem State.bump_dies (s : State) : (s.bump).dies = s.dies := rfl
@[simp] theorem State.bump_homes (s : State) : (s.bump).homes = s.homes := rfl
@[simp] theorem State.bump_mem (s : State) : (s.bump).mem = s.mem := rfl
@[simp] theorem State.bump_taskBuf (s : State) : (s.bump).taskBuf = s.taskBuf := rfl
@[simp] theorem State.bump_regions (s : State) : (s.bump).regions = s.regions := rfl
@[simp] theorem State.bump_electrum (s : State) : (s.bump).electrum = s.electrum := rfl
@[simp] theorem State.bump_hostHalf (s : State) : (s.bump).hostHalf = s.hostHalf := rfl
@[simp] theorem State.bump_snoops (s : State) : (s.bump).snoops = s.snoops := rfl
@[simp] theorem State.bump_homeQ (s : State) : (s.bump).homeQ = s.homeQ := rfl
@[simp] theorem State.bump_sent (s : State) : (s.bump).sent = s.sent := rfl
@[simp] theorem State.bump_memBad (s : State) : (s.bump).memBad = s.memBad := rfl
@[simp] theorem State.bump_yields (s : State) : (s.bump).yields = s.yields := rfl
@[simp] theorem State.bump_refusals (s : State) : (s.bump).refusals = s.refusals := rfl
@[simp] theorem State.bump_port (s : State) : (s.bump).port = s.port := rfl
@[simp] theorem State.bump_win (s : State) : (s.bump).win = s.win := rfl
@[simp] theorem State.bump_ctxs (s : State) : (s.bump).ctxs = s.ctxs := rfl
@[simp] theorem State.bump_heads (s : State) : (s.bump).heads = s.heads := rfl
@[simp] theorem State.bump_msix (s : State) : (s.bump).msix = s.msix := rfl
@[simp] theorem State.bump_mgmt (s : State) : (s.bump).mgmt = s.mgmt := rfl
@[simp] theorem State.bump_linkFull (s : State) : (s.bump).linkFull = s.linkFull := rfl
@[simp] theorem State.bump_asker (s : State) : (s.bump).asker = s.asker := rfl
@[simp] theorem State.bump_picked (s : State) : (s.bump).picked = s.picked := rfl
@[simp] theorem State.bump_power (s : State) : (s.bump).power = s.power := rfl
@[simp] theorem State.bump_throttle (s : State) : (s.bump).throttle = s.throttle := rfl
@[simp] theorem State.bump_clusterPre (s : State) : (s.bump).clusterPre = s.clusterPre := rfl
@[simp] theorem State.bump_moves (s : State) : (s.bump).moves = s.moves := rfl
@[simp] theorem State.bump_timer (s : State) : (s.bump).timer = s.timer := rfl
@[simp] theorem State.bump_agenda (s : State) : (s.bump).agenda = s.agenda := rfl
@[simp] theorem State.bump_cur (s : State) : (s.bump).cur = s.cur := rfl
@[simp] theorem State.bump_free (s : State) : (s.bump).free = s.free := rfl

/-! ### State.settleWarp -/

@[simp] theorem State.settleWarp_wgs (s : State) (w : Nat) (g : DWord → DWord) : (s.settleWarp w g).wgs = s.wgs := rfl
@[simp] theorem State.settleWarp_gangs (s : State) (w : Nat) (g : DWord → DWord) : (s.settleWarp w g).gangs = s.gangs := rfl
@[simp] theorem State.settleWarp_launches (s : State) (w : Nat) (g : DWord → DWord) : (s.settleWarp w g).launches = s.launches := rfl
@[simp] theorem State.settleWarp_graphs (s : State) (w : Nat) (g : DWord → DWord) : (s.settleWarp w g).graphs = s.graphs := rfl
@[simp] theorem State.settleWarp_tasks (s : State) (w : Nat) (g : DWord → DWord) : (s.settleWarp w g).tasks = s.tasks := rfl
@[simp] theorem State.settleWarp_rasters (s : State) (w : Nat) (g : DWord → DWord) : (s.settleWarp w g).rasters = s.rasters := rfl
@[simp] theorem State.settleWarp_slots (s : State) (w : Nat) (g : DWord → DWord) : (s.settleWarp w g).slots = s.slots := rfl
@[simp] theorem State.settleWarp_cores (s : State) (w : Nat) (g : DWord → DWord) : (s.settleWarp w g).cores = s.cores := rfl
@[simp] theorem State.settleWarp_engines (s : State) (w : Nat) (g : DWord → DWord) : (s.settleWarp w g).engines = s.engines := rfl
@[simp] theorem State.settleWarp_clusters (s : State) (w : Nat) (g : DWord → DWord) : (s.settleWarp w g).clusters = s.clusters := rfl
@[simp] theorem State.settleWarp_dies (s : State) (w : Nat) (g : DWord → DWord) : (s.settleWarp w g).dies = s.dies := rfl
@[simp] theorem State.settleWarp_homes (s : State) (w : Nat) (g : DWord → DWord) : (s.settleWarp w g).homes = s.homes := rfl
@[simp] theorem State.settleWarp_mem (s : State) (w : Nat) (g : DWord → DWord) : (s.settleWarp w g).mem = s.mem := rfl
@[simp] theorem State.settleWarp_taskBuf (s : State) (w : Nat) (g : DWord → DWord) : (s.settleWarp w g).taskBuf = s.taskBuf := rfl
@[simp] theorem State.settleWarp_regions (s : State) (w : Nat) (g : DWord → DWord) : (s.settleWarp w g).regions = s.regions := rfl
@[simp] theorem State.settleWarp_electrum (s : State) (w : Nat) (g : DWord → DWord) : (s.settleWarp w g).electrum = s.electrum := rfl
@[simp] theorem State.settleWarp_hostHalf (s : State) (w : Nat) (g : DWord → DWord) : (s.settleWarp w g).hostHalf = s.hostHalf := rfl
@[simp] theorem State.settleWarp_snoops (s : State) (w : Nat) (g : DWord → DWord) : (s.settleWarp w g).snoops = s.snoops := rfl
@[simp] theorem State.settleWarp_homeQ (s : State) (w : Nat) (g : DWord → DWord) : (s.settleWarp w g).homeQ = s.homeQ := rfl
@[simp] theorem State.settleWarp_sent (s : State) (w : Nat) (g : DWord → DWord) : (s.settleWarp w g).sent = s.sent := rfl
@[simp] theorem State.settleWarp_memBad (s : State) (w : Nat) (g : DWord → DWord) : (s.settleWarp w g).memBad = s.memBad := rfl
@[simp] theorem State.settleWarp_yields (s : State) (w : Nat) (g : DWord → DWord) : (s.settleWarp w g).yields = s.yields := rfl
@[simp] theorem State.settleWarp_refusals (s : State) (w : Nat) (g : DWord → DWord) : (s.settleWarp w g).refusals = s.refusals := rfl
@[simp] theorem State.settleWarp_port (s : State) (w : Nat) (g : DWord → DWord) : (s.settleWarp w g).port = s.port := rfl
@[simp] theorem State.settleWarp_win (s : State) (w : Nat) (g : DWord → DWord) : (s.settleWarp w g).win = s.win := rfl
@[simp] theorem State.settleWarp_ctxs (s : State) (w : Nat) (g : DWord → DWord) : (s.settleWarp w g).ctxs = s.ctxs := rfl
@[simp] theorem State.settleWarp_heads (s : State) (w : Nat) (g : DWord → DWord) : (s.settleWarp w g).heads = s.heads := rfl
@[simp] theorem State.settleWarp_msix (s : State) (w : Nat) (g : DWord → DWord) : (s.settleWarp w g).msix = s.msix := rfl
@[simp] theorem State.settleWarp_mgmt (s : State) (w : Nat) (g : DWord → DWord) : (s.settleWarp w g).mgmt = s.mgmt := rfl
@[simp] theorem State.settleWarp_linkFull (s : State) (w : Nat) (g : DWord → DWord) : (s.settleWarp w g).linkFull = s.linkFull := rfl
@[simp] theorem State.settleWarp_asker (s : State) (w : Nat) (g : DWord → DWord) : (s.settleWarp w g).asker = s.asker := rfl
@[simp] theorem State.settleWarp_picked (s : State) (w : Nat) (g : DWord → DWord) : (s.settleWarp w g).picked = s.picked := rfl
@[simp] theorem State.settleWarp_power (s : State) (w : Nat) (g : DWord → DWord) : (s.settleWarp w g).power = s.power := rfl
@[simp] theorem State.settleWarp_throttle (s : State) (w : Nat) (g : DWord → DWord) : (s.settleWarp w g).throttle = s.throttle := rfl
@[simp] theorem State.settleWarp_clusterPre (s : State) (w : Nat) (g : DWord → DWord) : (s.settleWarp w g).clusterPre = s.clusterPre := rfl
@[simp] theorem State.settleWarp_moves (s : State) (w : Nat) (g : DWord → DWord) : (s.settleWarp w g).moves = s.moves := rfl
@[simp] theorem State.settleWarp_timer (s : State) (w : Nat) (g : DWord → DWord) : (s.settleWarp w g).timer = s.timer := rfl
@[simp] theorem State.settleWarp_agenda (s : State) (w : Nat) (g : DWord → DWord) : (s.settleWarp w g).agenda = s.agenda := rfl
@[simp] theorem State.settleWarp_cur (s : State) (w : Nat) (g : DWord → DWord) : (s.settleWarp w g).cur = s.cur := rfl
@[simp] theorem State.settleWarp_free (s : State) (w : Nat) (g : DWord → DWord) : (s.settleWarp w g).free = s.free := rfl

/-! ### State.tick -/

@[simp] theorem State.tick_warps (s : State) : (s.tick).warps = s.warps := rfl
@[simp] theorem State.tick_wgs (s : State) : (s.tick).wgs = s.wgs := rfl
@[simp] theorem State.tick_gangs (s : State) : (s.tick).gangs = s.gangs := rfl
@[simp] theorem State.tick_launches (s : State) : (s.tick).launches = s.launches := rfl
@[simp] theorem State.tick_graphs (s : State) : (s.tick).graphs = s.graphs := rfl
@[simp] theorem State.tick_tasks (s : State) : (s.tick).tasks = s.tasks := rfl
@[simp] theorem State.tick_rasters (s : State) : (s.tick).rasters = s.rasters := rfl
@[simp] theorem State.tick_slots (s : State) : (s.tick).slots = s.slots := rfl
@[simp] theorem State.tick_cores (s : State) : (s.tick).cores = s.cores := rfl
@[simp] theorem State.tick_engines (s : State) : (s.tick).engines = s.engines := rfl
@[simp] theorem State.tick_clusters (s : State) : (s.tick).clusters = s.clusters := rfl
@[simp] theorem State.tick_dies (s : State) : (s.tick).dies = s.dies := rfl
@[simp] theorem State.tick_homes (s : State) : (s.tick).homes = s.homes := rfl
@[simp] theorem State.tick_mem (s : State) : (s.tick).mem = s.mem := rfl
@[simp] theorem State.tick_taskBuf (s : State) : (s.tick).taskBuf = s.taskBuf := rfl
@[simp] theorem State.tick_regions (s : State) : (s.tick).regions = s.regions := rfl
@[simp] theorem State.tick_electrum (s : State) : (s.tick).electrum = s.electrum := rfl
@[simp] theorem State.tick_hostHalf (s : State) : (s.tick).hostHalf = s.hostHalf := rfl
@[simp] theorem State.tick_snoops (s : State) : (s.tick).snoops = s.snoops := rfl
@[simp] theorem State.tick_homeQ (s : State) : (s.tick).homeQ = s.homeQ := rfl
@[simp] theorem State.tick_sent (s : State) : (s.tick).sent = s.sent := rfl
@[simp] theorem State.tick_memBad (s : State) : (s.tick).memBad = s.memBad := rfl
@[simp] theorem State.tick_yields (s : State) : (s.tick).yields = s.yields := rfl
@[simp] theorem State.tick_refusals (s : State) : (s.tick).refusals = s.refusals := rfl
@[simp] theorem State.tick_port (s : State) : (s.tick).port = s.port := rfl
@[simp] theorem State.tick_win (s : State) : (s.tick).win = s.win := rfl
@[simp] theorem State.tick_ctxs (s : State) : (s.tick).ctxs = s.ctxs := rfl
@[simp] theorem State.tick_heads (s : State) : (s.tick).heads = s.heads := rfl
@[simp] theorem State.tick_msix (s : State) : (s.tick).msix = s.msix := rfl
@[simp] theorem State.tick_mgmt (s : State) : (s.tick).mgmt = s.mgmt := rfl
@[simp] theorem State.tick_linkFull (s : State) : (s.tick).linkFull = s.linkFull := rfl
@[simp] theorem State.tick_asker (s : State) : (s.tick).asker = s.asker := rfl
@[simp] theorem State.tick_picked (s : State) : (s.tick).picked = s.picked := rfl
@[simp] theorem State.tick_power (s : State) : (s.tick).power = s.power := rfl
@[simp] theorem State.tick_throttle (s : State) : (s.tick).throttle = s.throttle := rfl
@[simp] theorem State.tick_clusterPre (s : State) : (s.tick).clusterPre = s.clusterPre := rfl
@[simp] theorem State.tick_moves (s : State) : (s.tick).moves = s.moves := rfl
@[simp] theorem State.tick_agenda (s : State) : (s.tick).agenda = s.agenda := rfl
@[simp] theorem State.tick_nextId (s : State) : (s.tick).nextId = s.nextId := rfl

/-! ### Warp.setSplit -/

@[simp] theorem Warp.setSplit_wg (x : Warp) (k : Nat) (sp : Split) : (x.setSplit k sp).wg = x.wg := rfl
@[simp] theorem Warp.setSplit_gang (x : Warp) (k : Nat) (sp : Split) : (x.setSplit k sp).gang = x.gang := rfl
@[simp] theorem Warp.setSplit_ctx (x : Warp) (k : Nat) (sp : Split) : (x.setSplit k sp).ctx = x.ctx := rfl
@[simp] theorem Warp.setSplit_core (x : Warp) (k : Nat) (sp : Split) : (x.setSplit k sp).core = x.core := rfl
@[simp] theorem Warp.setSplit_part (x : Warp) (k : Nat) (sp : Split) : (x.setSplit k sp).part = x.part := rfl
@[simp] theorem Warp.setSplit_slot (x : Warp) (k : Nat) (sp : Split) : (x.setSplit k sp).slot = x.slot := rfl
@[simp] theorem Warp.setSplit_index (x : Warp) (k : Nat) (sp : Split) : (x.setSplit k sp).index = x.index := rfl
@[simp] theorem Warp.setSplit_gangIndex (x : Warp) (k : Nat) (sp : Split) : (x.setSplit k sp).gangIndex = x.gangIndex := rfl
@[simp] theorem Warp.setSplit_vregs (x : Warp) (k : Nat) (sp : Split) : (x.setSplit k sp).vregs = x.vregs := rfl
@[simp] theorem Warp.setSplit_accs (x : Warp) (k : Nat) (sp : Split) : (x.setSplit k sp).accs = x.accs := rfl
@[simp] theorem Warp.setSplit_walker (x : Warp) (k : Nat) (sp : Split) : (x.setSplit k sp).walker = x.walker := rfl
@[simp] theorem Warp.setSplit_halted (x : Warp) (k : Nat) (sp : Split) : (x.setSplit k sp).halted = x.halted := rfl
@[simp] theorem Warp.setSplit_stopping (x : Warp) (k : Nat) (sp : Split) : (x.setSplit k sp).stopping = x.stopping := rfl
@[simp] theorem Warp.setSplit_stage (x : Warp) (k : Nat) (sp : Split) : (x.setSplit k sp).stage = x.stage := rfl
@[simp] theorem Warp.setSplit_task (x : Warp) (k : Nat) (sp : Split) : (x.setSplit k sp).task = x.task := rfl
@[simp] theorem Warp.setSplit_recDepth (x : Warp) (k : Nat) (sp : Split) : (x.setSplit k sp).recDepth = x.recDepth := rfl
@[simp] theorem Warp.setSplit_v (x : Warp) (k : Nat) (sp : Split) : (x.setSplit k sp).v = x.v := rfl
@[simp] theorem Warp.setSplit_g (x : Warp) (k : Nat) (sp : Split) : (x.setSplit k sp).g = x.g := rfl
@[simp] theorem Warp.setSplit_o (x : Warp) (k : Nat) (sp : Split) : (x.setSplit k sp).o = x.o := rfl
@[simp] theorem Warp.setSplit_pv (x : Warp) (k : Nat) (sp : Split) : (x.setSplit k sp).pv = x.pv := rfl
@[simp] theorem Warp.setSplit_pg (x : Warp) (k : Nat) (sp : Split) : (x.setSplit k sp).pg = x.pg := rfl
@[simp] theorem Warp.setSplit_po (x : Warp) (k : Nat) (sp : Split) : (x.setSplit k sp).po = x.po := rfl
@[simp] theorem Warp.setSplit_fpstat (x : Warp) (k : Nat) (sp : Split) : (x.setSplit k sp).fpstat = x.fpstat := rfl
@[simp] theorem Warp.setSplit_fptrap (x : Warp) (k : Nat) (sp : Split) : (x.setSplit k sp).fptrap = x.fptrap := rfl
@[simp] theorem Warp.setSplit_utvec (x : Warp) (k : Nat) (sp : Split) : (x.setSplit k sp).utvec = x.utvec := rfl
@[simp] theorem Warp.setSplit_usave (x : Warp) (k : Nat) (sp : Split) : (x.setSplit k sp).usave = x.usave := rfl
@[simp] theorem Warp.setSplit_ssave (x : Warp) (k : Nat) (sp : Split) : (x.setSplit k sp).ssave = x.ssave := rfl
@[simp] theorem Warp.setSplit_callspill (x : Warp) (k : Nat) (sp : Split) : (x.setSplit k sp).callspill = x.callspill := rfl
@[simp] theorem Warp.setSplit_stack (x : Warp) (k : Nat) (sp : Split) : (x.setSplit k sp).stack = x.stack := rfl
@[simp] theorem Warp.setSplit_pend (x : Warp) (k : Nat) (sp : Split) : (x.setSplit k sp).pend = x.pend := rfl
@[simp] theorem Warp.setSplit_tbs (x : Warp) (k : Nat) (sp : Split) : (x.setSplit k sp).tbs = x.tbs := rfl
@[simp] theorem Warp.setSplit_maps (x : Warp) (k : Nat) (sp : Split) : (x.setSplit k sp).maps = x.maps := rfl
@[simp] theorem Warp.setSplit_kinds (x : Warp) (k : Nat) (sp : Split) : (x.setSplit k sp).kinds = x.kinds := rfl
@[simp] theorem Warp.setSplit_acc (x : Warp) (k : Nat) (sp : Split) : (x.setSplit k sp).acc = x.acc := rfl
@[simp] theorem Warp.setSplit_bseq (x : Warp) (k : Nat) (sp : Split) : (x.setSplit k sp).bseq = x.bseq := rfl
@[simp] theorem Warp.setSplit_openOps (x : Warp) (k : Nat) (sp : Split) : (x.setSplit k sp).openOps = x.openOps := rfl
@[simp] theorem Warp.setSplit_closed (x : Warp) (k : Nat) (sp : Split) : (x.setSplit k sp).closed = x.closed := rfl
@[simp] theorem Warp.setSplit_abandoned (x : Warp) (k : Nat) (sp : Split) : (x.setSplit k sp).abandoned = x.abandoned := rfl
@[simp] theorem Warp.setSplit_frags (x : Warp) (k : Nat) (sp : Split) : (x.setSplit k sp).frags = x.frags := rfl
@[simp] theorem Warp.setSplit_vout (x : Warp) (k : Nat) (sp : Split) : (x.setSplit k sp).vout = x.vout := rfl
@[simp] theorem Warp.setSplit_voutDone (x : Warp) (k : Nat) (sp : Split) : (x.setSplit k sp).voutDone = x.voutDone := rfl
@[simp] theorem Warp.setSplit_bypass (x : Warp) (k : Nat) (sp : Split) : (x.setSplit k sp).bypass = x.bypass := rfl

/-! ### Warp.modSplit -/

@[simp] theorem Warp.modSplit_wg (x : Warp) (k : Nat) (f : Split → Split) : (x.modSplit k f).wg = x.wg := rfl
@[simp] theorem Warp.modSplit_gang (x : Warp) (k : Nat) (f : Split → Split) : (x.modSplit k f).gang = x.gang := rfl
@[simp] theorem Warp.modSplit_ctx (x : Warp) (k : Nat) (f : Split → Split) : (x.modSplit k f).ctx = x.ctx := rfl
@[simp] theorem Warp.modSplit_core (x : Warp) (k : Nat) (f : Split → Split) : (x.modSplit k f).core = x.core := rfl
@[simp] theorem Warp.modSplit_part (x : Warp) (k : Nat) (f : Split → Split) : (x.modSplit k f).part = x.part := rfl
@[simp] theorem Warp.modSplit_slot (x : Warp) (k : Nat) (f : Split → Split) : (x.modSplit k f).slot = x.slot := rfl
@[simp] theorem Warp.modSplit_index (x : Warp) (k : Nat) (f : Split → Split) : (x.modSplit k f).index = x.index := rfl
@[simp] theorem Warp.modSplit_gangIndex (x : Warp) (k : Nat) (f : Split → Split) : (x.modSplit k f).gangIndex = x.gangIndex := rfl
@[simp] theorem Warp.modSplit_vregs (x : Warp) (k : Nat) (f : Split → Split) : (x.modSplit k f).vregs = x.vregs := rfl
@[simp] theorem Warp.modSplit_accs (x : Warp) (k : Nat) (f : Split → Split) : (x.modSplit k f).accs = x.accs := rfl
@[simp] theorem Warp.modSplit_walker (x : Warp) (k : Nat) (f : Split → Split) : (x.modSplit k f).walker = x.walker := rfl
@[simp] theorem Warp.modSplit_halted (x : Warp) (k : Nat) (f : Split → Split) : (x.modSplit k f).halted = x.halted := rfl
@[simp] theorem Warp.modSplit_stopping (x : Warp) (k : Nat) (f : Split → Split) : (x.modSplit k f).stopping = x.stopping := rfl
@[simp] theorem Warp.modSplit_stage (x : Warp) (k : Nat) (f : Split → Split) : (x.modSplit k f).stage = x.stage := rfl
@[simp] theorem Warp.modSplit_task (x : Warp) (k : Nat) (f : Split → Split) : (x.modSplit k f).task = x.task := rfl
@[simp] theorem Warp.modSplit_recDepth (x : Warp) (k : Nat) (f : Split → Split) : (x.modSplit k f).recDepth = x.recDepth := rfl
@[simp] theorem Warp.modSplit_v (x : Warp) (k : Nat) (f : Split → Split) : (x.modSplit k f).v = x.v := rfl
@[simp] theorem Warp.modSplit_g (x : Warp) (k : Nat) (f : Split → Split) : (x.modSplit k f).g = x.g := rfl
@[simp] theorem Warp.modSplit_o (x : Warp) (k : Nat) (f : Split → Split) : (x.modSplit k f).o = x.o := rfl
@[simp] theorem Warp.modSplit_pv (x : Warp) (k : Nat) (f : Split → Split) : (x.modSplit k f).pv = x.pv := rfl
@[simp] theorem Warp.modSplit_pg (x : Warp) (k : Nat) (f : Split → Split) : (x.modSplit k f).pg = x.pg := rfl
@[simp] theorem Warp.modSplit_po (x : Warp) (k : Nat) (f : Split → Split) : (x.modSplit k f).po = x.po := rfl
@[simp] theorem Warp.modSplit_fpstat (x : Warp) (k : Nat) (f : Split → Split) : (x.modSplit k f).fpstat = x.fpstat := rfl
@[simp] theorem Warp.modSplit_fptrap (x : Warp) (k : Nat) (f : Split → Split) : (x.modSplit k f).fptrap = x.fptrap := rfl
@[simp] theorem Warp.modSplit_utvec (x : Warp) (k : Nat) (f : Split → Split) : (x.modSplit k f).utvec = x.utvec := rfl
@[simp] theorem Warp.modSplit_usave (x : Warp) (k : Nat) (f : Split → Split) : (x.modSplit k f).usave = x.usave := rfl
@[simp] theorem Warp.modSplit_ssave (x : Warp) (k : Nat) (f : Split → Split) : (x.modSplit k f).ssave = x.ssave := rfl
@[simp] theorem Warp.modSplit_callspill (x : Warp) (k : Nat) (f : Split → Split) : (x.modSplit k f).callspill = x.callspill := rfl
@[simp] theorem Warp.modSplit_stack (x : Warp) (k : Nat) (f : Split → Split) : (x.modSplit k f).stack = x.stack := rfl
@[simp] theorem Warp.modSplit_pend (x : Warp) (k : Nat) (f : Split → Split) : (x.modSplit k f).pend = x.pend := rfl
@[simp] theorem Warp.modSplit_tbs (x : Warp) (k : Nat) (f : Split → Split) : (x.modSplit k f).tbs = x.tbs := rfl
@[simp] theorem Warp.modSplit_maps (x : Warp) (k : Nat) (f : Split → Split) : (x.modSplit k f).maps = x.maps := rfl
@[simp] theorem Warp.modSplit_kinds (x : Warp) (k : Nat) (f : Split → Split) : (x.modSplit k f).kinds = x.kinds := rfl
@[simp] theorem Warp.modSplit_acc (x : Warp) (k : Nat) (f : Split → Split) : (x.modSplit k f).acc = x.acc := rfl
@[simp] theorem Warp.modSplit_bseq (x : Warp) (k : Nat) (f : Split → Split) : (x.modSplit k f).bseq = x.bseq := rfl
@[simp] theorem Warp.modSplit_openOps (x : Warp) (k : Nat) (f : Split → Split) : (x.modSplit k f).openOps = x.openOps := rfl
@[simp] theorem Warp.modSplit_closed (x : Warp) (k : Nat) (f : Split → Split) : (x.modSplit k f).closed = x.closed := rfl
@[simp] theorem Warp.modSplit_abandoned (x : Warp) (k : Nat) (f : Split → Split) : (x.modSplit k f).abandoned = x.abandoned := rfl
@[simp] theorem Warp.modSplit_frags (x : Warp) (k : Nat) (f : Split → Split) : (x.modSplit k f).frags = x.frags := rfl
@[simp] theorem Warp.modSplit_vout (x : Warp) (k : Nat) (f : Split → Split) : (x.modSplit k f).vout = x.vout := rfl
@[simp] theorem Warp.modSplit_voutDone (x : Warp) (k : Nat) (f : Split → Split) : (x.modSplit k f).voutDone = x.voutDone := rfl
@[simp] theorem Warp.modSplit_bypass (x : Warp) (k : Nat) (f : Split → Split) : (x.modSplit k f).bypass = x.bypass := rfl

/-! ### Warp.dropSplit -/

@[simp] theorem Warp.dropSplit_wg (x : Warp) (k : Nat) : (x.dropSplit k).wg = x.wg := rfl
@[simp] theorem Warp.dropSplit_gang (x : Warp) (k : Nat) : (x.dropSplit k).gang = x.gang := rfl
@[simp] theorem Warp.dropSplit_ctx (x : Warp) (k : Nat) : (x.dropSplit k).ctx = x.ctx := rfl
@[simp] theorem Warp.dropSplit_core (x : Warp) (k : Nat) : (x.dropSplit k).core = x.core := rfl
@[simp] theorem Warp.dropSplit_part (x : Warp) (k : Nat) : (x.dropSplit k).part = x.part := rfl
@[simp] theorem Warp.dropSplit_slot (x : Warp) (k : Nat) : (x.dropSplit k).slot = x.slot := rfl
@[simp] theorem Warp.dropSplit_index (x : Warp) (k : Nat) : (x.dropSplit k).index = x.index := rfl
@[simp] theorem Warp.dropSplit_gangIndex (x : Warp) (k : Nat) : (x.dropSplit k).gangIndex = x.gangIndex := rfl
@[simp] theorem Warp.dropSplit_vregs (x : Warp) (k : Nat) : (x.dropSplit k).vregs = x.vregs := rfl
@[simp] theorem Warp.dropSplit_accs (x : Warp) (k : Nat) : (x.dropSplit k).accs = x.accs := rfl
@[simp] theorem Warp.dropSplit_walker (x : Warp) (k : Nat) : (x.dropSplit k).walker = x.walker := rfl
@[simp] theorem Warp.dropSplit_halted (x : Warp) (k : Nat) : (x.dropSplit k).halted = x.halted := rfl
@[simp] theorem Warp.dropSplit_stopping (x : Warp) (k : Nat) : (x.dropSplit k).stopping = x.stopping := rfl
@[simp] theorem Warp.dropSplit_stage (x : Warp) (k : Nat) : (x.dropSplit k).stage = x.stage := rfl
@[simp] theorem Warp.dropSplit_task (x : Warp) (k : Nat) : (x.dropSplit k).task = x.task := rfl
@[simp] theorem Warp.dropSplit_recDepth (x : Warp) (k : Nat) : (x.dropSplit k).recDepth = x.recDepth := rfl
@[simp] theorem Warp.dropSplit_v (x : Warp) (k : Nat) : (x.dropSplit k).v = x.v := rfl
@[simp] theorem Warp.dropSplit_g (x : Warp) (k : Nat) : (x.dropSplit k).g = x.g := rfl
@[simp] theorem Warp.dropSplit_o (x : Warp) (k : Nat) : (x.dropSplit k).o = x.o := rfl
@[simp] theorem Warp.dropSplit_pv (x : Warp) (k : Nat) : (x.dropSplit k).pv = x.pv := rfl
@[simp] theorem Warp.dropSplit_pg (x : Warp) (k : Nat) : (x.dropSplit k).pg = x.pg := rfl
@[simp] theorem Warp.dropSplit_po (x : Warp) (k : Nat) : (x.dropSplit k).po = x.po := rfl
@[simp] theorem Warp.dropSplit_fpstat (x : Warp) (k : Nat) : (x.dropSplit k).fpstat = x.fpstat := rfl
@[simp] theorem Warp.dropSplit_fptrap (x : Warp) (k : Nat) : (x.dropSplit k).fptrap = x.fptrap := rfl
@[simp] theorem Warp.dropSplit_utvec (x : Warp) (k : Nat) : (x.dropSplit k).utvec = x.utvec := rfl
@[simp] theorem Warp.dropSplit_usave (x : Warp) (k : Nat) : (x.dropSplit k).usave = x.usave := rfl
@[simp] theorem Warp.dropSplit_ssave (x : Warp) (k : Nat) : (x.dropSplit k).ssave = x.ssave := rfl
@[simp] theorem Warp.dropSplit_callspill (x : Warp) (k : Nat) : (x.dropSplit k).callspill = x.callspill := rfl
@[simp] theorem Warp.dropSplit_stack (x : Warp) (k : Nat) : (x.dropSplit k).stack = x.stack := rfl
@[simp] theorem Warp.dropSplit_pend (x : Warp) (k : Nat) : (x.dropSplit k).pend = x.pend := rfl
@[simp] theorem Warp.dropSplit_tbs (x : Warp) (k : Nat) : (x.dropSplit k).tbs = x.tbs := rfl
@[simp] theorem Warp.dropSplit_maps (x : Warp) (k : Nat) : (x.dropSplit k).maps = x.maps := rfl
@[simp] theorem Warp.dropSplit_kinds (x : Warp) (k : Nat) : (x.dropSplit k).kinds = x.kinds := rfl
@[simp] theorem Warp.dropSplit_acc (x : Warp) (k : Nat) : (x.dropSplit k).acc = x.acc := rfl
@[simp] theorem Warp.dropSplit_bseq (x : Warp) (k : Nat) : (x.dropSplit k).bseq = x.bseq := rfl
@[simp] theorem Warp.dropSplit_openOps (x : Warp) (k : Nat) : (x.dropSplit k).openOps = x.openOps := rfl
@[simp] theorem Warp.dropSplit_closed (x : Warp) (k : Nat) : (x.dropSplit k).closed = x.closed := rfl
@[simp] theorem Warp.dropSplit_abandoned (x : Warp) (k : Nat) : (x.dropSplit k).abandoned = x.abandoned := rfl
@[simp] theorem Warp.dropSplit_frags (x : Warp) (k : Nat) : (x.dropSplit k).frags = x.frags := rfl
@[simp] theorem Warp.dropSplit_vout (x : Warp) (k : Nat) : (x.dropSplit k).vout = x.vout := rfl
@[simp] theorem Warp.dropSplit_voutDone (x : Warp) (k : Nat) : (x.dropSplit k).voutDone = x.voutDone := rfl
@[simp] theorem Warp.dropSplit_bypass (x : Warp) (k : Nat) : (x.dropSplit k).bypass = x.bypass := rfl

/-! ### Warp.modOp -/

@[simp] theorem Warp.modOp_wg (x : Warp) (n : Nat) (f : PendOp → PendOp) : (x.modOp n f).wg = x.wg := rfl
@[simp] theorem Warp.modOp_gang (x : Warp) (n : Nat) (f : PendOp → PendOp) : (x.modOp n f).gang = x.gang := rfl
@[simp] theorem Warp.modOp_ctx (x : Warp) (n : Nat) (f : PendOp → PendOp) : (x.modOp n f).ctx = x.ctx := rfl
@[simp] theorem Warp.modOp_core (x : Warp) (n : Nat) (f : PendOp → PendOp) : (x.modOp n f).core = x.core := rfl
@[simp] theorem Warp.modOp_part (x : Warp) (n : Nat) (f : PendOp → PendOp) : (x.modOp n f).part = x.part := rfl
@[simp] theorem Warp.modOp_slot (x : Warp) (n : Nat) (f : PendOp → PendOp) : (x.modOp n f).slot = x.slot := rfl
@[simp] theorem Warp.modOp_index (x : Warp) (n : Nat) (f : PendOp → PendOp) : (x.modOp n f).index = x.index := rfl
@[simp] theorem Warp.modOp_gangIndex (x : Warp) (n : Nat) (f : PendOp → PendOp) : (x.modOp n f).gangIndex = x.gangIndex := rfl
@[simp] theorem Warp.modOp_vregs (x : Warp) (n : Nat) (f : PendOp → PendOp) : (x.modOp n f).vregs = x.vregs := rfl
@[simp] theorem Warp.modOp_accs (x : Warp) (n : Nat) (f : PendOp → PendOp) : (x.modOp n f).accs = x.accs := rfl
@[simp] theorem Warp.modOp_walker (x : Warp) (n : Nat) (f : PendOp → PendOp) : (x.modOp n f).walker = x.walker := rfl
@[simp] theorem Warp.modOp_halted (x : Warp) (n : Nat) (f : PendOp → PendOp) : (x.modOp n f).halted = x.halted := rfl
@[simp] theorem Warp.modOp_stopping (x : Warp) (n : Nat) (f : PendOp → PendOp) : (x.modOp n f).stopping = x.stopping := rfl
@[simp] theorem Warp.modOp_stage (x : Warp) (n : Nat) (f : PendOp → PendOp) : (x.modOp n f).stage = x.stage := rfl
@[simp] theorem Warp.modOp_task (x : Warp) (n : Nat) (f : PendOp → PendOp) : (x.modOp n f).task = x.task := rfl
@[simp] theorem Warp.modOp_recDepth (x : Warp) (n : Nat) (f : PendOp → PendOp) : (x.modOp n f).recDepth = x.recDepth := rfl
@[simp] theorem Warp.modOp_v (x : Warp) (n : Nat) (f : PendOp → PendOp) : (x.modOp n f).v = x.v := rfl
@[simp] theorem Warp.modOp_g (x : Warp) (n : Nat) (f : PendOp → PendOp) : (x.modOp n f).g = x.g := rfl
@[simp] theorem Warp.modOp_o (x : Warp) (n : Nat) (f : PendOp → PendOp) : (x.modOp n f).o = x.o := rfl
@[simp] theorem Warp.modOp_pv (x : Warp) (n : Nat) (f : PendOp → PendOp) : (x.modOp n f).pv = x.pv := rfl
@[simp] theorem Warp.modOp_pg (x : Warp) (n : Nat) (f : PendOp → PendOp) : (x.modOp n f).pg = x.pg := rfl
@[simp] theorem Warp.modOp_po (x : Warp) (n : Nat) (f : PendOp → PendOp) : (x.modOp n f).po = x.po := rfl
@[simp] theorem Warp.modOp_fpstat (x : Warp) (n : Nat) (f : PendOp → PendOp) : (x.modOp n f).fpstat = x.fpstat := rfl
@[simp] theorem Warp.modOp_fptrap (x : Warp) (n : Nat) (f : PendOp → PendOp) : (x.modOp n f).fptrap = x.fptrap := rfl
@[simp] theorem Warp.modOp_utvec (x : Warp) (n : Nat) (f : PendOp → PendOp) : (x.modOp n f).utvec = x.utvec := rfl
@[simp] theorem Warp.modOp_usave (x : Warp) (n : Nat) (f : PendOp → PendOp) : (x.modOp n f).usave = x.usave := rfl
@[simp] theorem Warp.modOp_ssave (x : Warp) (n : Nat) (f : PendOp → PendOp) : (x.modOp n f).ssave = x.ssave := rfl
@[simp] theorem Warp.modOp_callspill (x : Warp) (n : Nat) (f : PendOp → PendOp) : (x.modOp n f).callspill = x.callspill := rfl
@[simp] theorem Warp.modOp_splits (x : Warp) (n : Nat) (f : PendOp → PendOp) : (x.modOp n f).splits = x.splits := rfl
@[simp] theorem Warp.modOp_stack (x : Warp) (n : Nat) (f : PendOp → PendOp) : (x.modOp n f).stack = x.stack := rfl
@[simp] theorem Warp.modOp_tbs (x : Warp) (n : Nat) (f : PendOp → PendOp) : (x.modOp n f).tbs = x.tbs := rfl
@[simp] theorem Warp.modOp_maps (x : Warp) (n : Nat) (f : PendOp → PendOp) : (x.modOp n f).maps = x.maps := rfl
@[simp] theorem Warp.modOp_kinds (x : Warp) (n : Nat) (f : PendOp → PendOp) : (x.modOp n f).kinds = x.kinds := rfl
@[simp] theorem Warp.modOp_acc (x : Warp) (n : Nat) (f : PendOp → PendOp) : (x.modOp n f).acc = x.acc := rfl
@[simp] theorem Warp.modOp_bseq (x : Warp) (n : Nat) (f : PendOp → PendOp) : (x.modOp n f).bseq = x.bseq := rfl
@[simp] theorem Warp.modOp_openOps (x : Warp) (n : Nat) (f : PendOp → PendOp) : (x.modOp n f).openOps = x.openOps := rfl
@[simp] theorem Warp.modOp_closed (x : Warp) (n : Nat) (f : PendOp → PendOp) : (x.modOp n f).closed = x.closed := rfl
@[simp] theorem Warp.modOp_abandoned (x : Warp) (n : Nat) (f : PendOp → PendOp) : (x.modOp n f).abandoned = x.abandoned := rfl
@[simp] theorem Warp.modOp_frags (x : Warp) (n : Nat) (f : PendOp → PendOp) : (x.modOp n f).frags = x.frags := rfl
@[simp] theorem Warp.modOp_vout (x : Warp) (n : Nat) (f : PendOp → PendOp) : (x.modOp n f).vout = x.vout := rfl
@[simp] theorem Warp.modOp_voutDone (x : Warp) (n : Nat) (f : PendOp → PendOp) : (x.modOp n f).voutDone = x.voutDone := rfl
@[simp] theorem Warp.modOp_bypass (x : Warp) (n : Nat) (f : PendOp → PendOp) : (x.modOp n f).bypass = x.bypass := rfl

/-! ### Warp.supersede -/

@[simp] theorem Warp.supersede_wg (x : Warp) (n : Nat) (r : RegName) (i : Nat) : (x.supersede n r i).wg = x.wg := rfl
@[simp] theorem Warp.supersede_gang (x : Warp) (n : Nat) (r : RegName) (i : Nat) : (x.supersede n r i).gang = x.gang := rfl
@[simp] theorem Warp.supersede_ctx (x : Warp) (n : Nat) (r : RegName) (i : Nat) : (x.supersede n r i).ctx = x.ctx := rfl
@[simp] theorem Warp.supersede_core (x : Warp) (n : Nat) (r : RegName) (i : Nat) : (x.supersede n r i).core = x.core := rfl
@[simp] theorem Warp.supersede_part (x : Warp) (n : Nat) (r : RegName) (i : Nat) : (x.supersede n r i).part = x.part := rfl
@[simp] theorem Warp.supersede_slot (x : Warp) (n : Nat) (r : RegName) (i : Nat) : (x.supersede n r i).slot = x.slot := rfl
@[simp] theorem Warp.supersede_index (x : Warp) (n : Nat) (r : RegName) (i : Nat) : (x.supersede n r i).index = x.index := rfl
@[simp] theorem Warp.supersede_gangIndex (x : Warp) (n : Nat) (r : RegName) (i : Nat) : (x.supersede n r i).gangIndex = x.gangIndex := rfl
@[simp] theorem Warp.supersede_vregs (x : Warp) (n : Nat) (r : RegName) (i : Nat) : (x.supersede n r i).vregs = x.vregs := rfl
@[simp] theorem Warp.supersede_accs (x : Warp) (n : Nat) (r : RegName) (i : Nat) : (x.supersede n r i).accs = x.accs := rfl
@[simp] theorem Warp.supersede_walker (x : Warp) (n : Nat) (r : RegName) (i : Nat) : (x.supersede n r i).walker = x.walker := rfl
@[simp] theorem Warp.supersede_halted (x : Warp) (n : Nat) (r : RegName) (i : Nat) : (x.supersede n r i).halted = x.halted := rfl
@[simp] theorem Warp.supersede_stopping (x : Warp) (n : Nat) (r : RegName) (i : Nat) : (x.supersede n r i).stopping = x.stopping := rfl
@[simp] theorem Warp.supersede_stage (x : Warp) (n : Nat) (r : RegName) (i : Nat) : (x.supersede n r i).stage = x.stage := rfl
@[simp] theorem Warp.supersede_task (x : Warp) (n : Nat) (r : RegName) (i : Nat) : (x.supersede n r i).task = x.task := rfl
@[simp] theorem Warp.supersede_recDepth (x : Warp) (n : Nat) (r : RegName) (i : Nat) : (x.supersede n r i).recDepth = x.recDepth := rfl
@[simp] theorem Warp.supersede_v (x : Warp) (n : Nat) (r : RegName) (i : Nat) : (x.supersede n r i).v = x.v := rfl
@[simp] theorem Warp.supersede_g (x : Warp) (n : Nat) (r : RegName) (i : Nat) : (x.supersede n r i).g = x.g := rfl
@[simp] theorem Warp.supersede_o (x : Warp) (n : Nat) (r : RegName) (i : Nat) : (x.supersede n r i).o = x.o := rfl
@[simp] theorem Warp.supersede_pv (x : Warp) (n : Nat) (r : RegName) (i : Nat) : (x.supersede n r i).pv = x.pv := rfl
@[simp] theorem Warp.supersede_pg (x : Warp) (n : Nat) (r : RegName) (i : Nat) : (x.supersede n r i).pg = x.pg := rfl
@[simp] theorem Warp.supersede_po (x : Warp) (n : Nat) (r : RegName) (i : Nat) : (x.supersede n r i).po = x.po := rfl
@[simp] theorem Warp.supersede_fpstat (x : Warp) (n : Nat) (r : RegName) (i : Nat) : (x.supersede n r i).fpstat = x.fpstat := rfl
@[simp] theorem Warp.supersede_fptrap (x : Warp) (n : Nat) (r : RegName) (i : Nat) : (x.supersede n r i).fptrap = x.fptrap := rfl
@[simp] theorem Warp.supersede_utvec (x : Warp) (n : Nat) (r : RegName) (i : Nat) : (x.supersede n r i).utvec = x.utvec := rfl
@[simp] theorem Warp.supersede_usave (x : Warp) (n : Nat) (r : RegName) (i : Nat) : (x.supersede n r i).usave = x.usave := rfl
@[simp] theorem Warp.supersede_ssave (x : Warp) (n : Nat) (r : RegName) (i : Nat) : (x.supersede n r i).ssave = x.ssave := rfl
@[simp] theorem Warp.supersede_callspill (x : Warp) (n : Nat) (r : RegName) (i : Nat) : (x.supersede n r i).callspill = x.callspill := rfl
@[simp] theorem Warp.supersede_splits (x : Warp) (n : Nat) (r : RegName) (i : Nat) : (x.supersede n r i).splits = x.splits := rfl
@[simp] theorem Warp.supersede_stack (x : Warp) (n : Nat) (r : RegName) (i : Nat) : (x.supersede n r i).stack = x.stack := rfl
@[simp] theorem Warp.supersede_tbs (x : Warp) (n : Nat) (r : RegName) (i : Nat) : (x.supersede n r i).tbs = x.tbs := rfl
@[simp] theorem Warp.supersede_maps (x : Warp) (n : Nat) (r : RegName) (i : Nat) : (x.supersede n r i).maps = x.maps := rfl
@[simp] theorem Warp.supersede_kinds (x : Warp) (n : Nat) (r : RegName) (i : Nat) : (x.supersede n r i).kinds = x.kinds := rfl
@[simp] theorem Warp.supersede_acc (x : Warp) (n : Nat) (r : RegName) (i : Nat) : (x.supersede n r i).acc = x.acc := rfl
@[simp] theorem Warp.supersede_bseq (x : Warp) (n : Nat) (r : RegName) (i : Nat) : (x.supersede n r i).bseq = x.bseq := rfl
@[simp] theorem Warp.supersede_openOps (x : Warp) (n : Nat) (r : RegName) (i : Nat) : (x.supersede n r i).openOps = x.openOps := rfl
@[simp] theorem Warp.supersede_closed (x : Warp) (n : Nat) (r : RegName) (i : Nat) : (x.supersede n r i).closed = x.closed := rfl
@[simp] theorem Warp.supersede_abandoned (x : Warp) (n : Nat) (r : RegName) (i : Nat) : (x.supersede n r i).abandoned = x.abandoned := rfl
@[simp] theorem Warp.supersede_frags (x : Warp) (n : Nat) (r : RegName) (i : Nat) : (x.supersede n r i).frags = x.frags := rfl
@[simp] theorem Warp.supersede_vout (x : Warp) (n : Nat) (r : RegName) (i : Nat) : (x.supersede n r i).vout = x.vout := rfl
@[simp] theorem Warp.supersede_voutDone (x : Warp) (n : Nat) (r : RegName) (i : Nat) : (x.supersede n r i).voutDone = x.voutDone := rfl
@[simp] theorem Warp.supersede_bypass (x : Warp) (n : Nat) (r : RegName) (i : Nat) : (x.supersede n r i).bypass = x.bypass := rfl

/-! ### Warp.retire -/

@[simp] theorem Warp.retire_wg (x : Warp) (n : Nat) : (x.retire n).wg = x.wg := rfl
@[simp] theorem Warp.retire_gang (x : Warp) (n : Nat) : (x.retire n).gang = x.gang := rfl
@[simp] theorem Warp.retire_ctx (x : Warp) (n : Nat) : (x.retire n).ctx = x.ctx := rfl
@[simp] theorem Warp.retire_core (x : Warp) (n : Nat) : (x.retire n).core = x.core := rfl
@[simp] theorem Warp.retire_part (x : Warp) (n : Nat) : (x.retire n).part = x.part := rfl
@[simp] theorem Warp.retire_slot (x : Warp) (n : Nat) : (x.retire n).slot = x.slot := rfl
@[simp] theorem Warp.retire_index (x : Warp) (n : Nat) : (x.retire n).index = x.index := rfl
@[simp] theorem Warp.retire_gangIndex (x : Warp) (n : Nat) : (x.retire n).gangIndex = x.gangIndex := rfl
@[simp] theorem Warp.retire_vregs (x : Warp) (n : Nat) : (x.retire n).vregs = x.vregs := rfl
@[simp] theorem Warp.retire_accs (x : Warp) (n : Nat) : (x.retire n).accs = x.accs := rfl
@[simp] theorem Warp.retire_walker (x : Warp) (n : Nat) : (x.retire n).walker = x.walker := rfl
@[simp] theorem Warp.retire_halted (x : Warp) (n : Nat) : (x.retire n).halted = x.halted := rfl
@[simp] theorem Warp.retire_stopping (x : Warp) (n : Nat) : (x.retire n).stopping = x.stopping := rfl
@[simp] theorem Warp.retire_stage (x : Warp) (n : Nat) : (x.retire n).stage = x.stage := rfl
@[simp] theorem Warp.retire_task (x : Warp) (n : Nat) : (x.retire n).task = x.task := rfl
@[simp] theorem Warp.retire_recDepth (x : Warp) (n : Nat) : (x.retire n).recDepth = x.recDepth := rfl
@[simp] theorem Warp.retire_v (x : Warp) (n : Nat) : (x.retire n).v = x.v := rfl
@[simp] theorem Warp.retire_g (x : Warp) (n : Nat) : (x.retire n).g = x.g := rfl
@[simp] theorem Warp.retire_o (x : Warp) (n : Nat) : (x.retire n).o = x.o := rfl
@[simp] theorem Warp.retire_pv (x : Warp) (n : Nat) : (x.retire n).pv = x.pv := rfl
@[simp] theorem Warp.retire_pg (x : Warp) (n : Nat) : (x.retire n).pg = x.pg := rfl
@[simp] theorem Warp.retire_po (x : Warp) (n : Nat) : (x.retire n).po = x.po := rfl
@[simp] theorem Warp.retire_fpstat (x : Warp) (n : Nat) : (x.retire n).fpstat = x.fpstat := rfl
@[simp] theorem Warp.retire_fptrap (x : Warp) (n : Nat) : (x.retire n).fptrap = x.fptrap := rfl
@[simp] theorem Warp.retire_utvec (x : Warp) (n : Nat) : (x.retire n).utvec = x.utvec := rfl
@[simp] theorem Warp.retire_usave (x : Warp) (n : Nat) : (x.retire n).usave = x.usave := rfl
@[simp] theorem Warp.retire_ssave (x : Warp) (n : Nat) : (x.retire n).ssave = x.ssave := rfl
@[simp] theorem Warp.retire_callspill (x : Warp) (n : Nat) : (x.retire n).callspill = x.callspill := rfl
@[simp] theorem Warp.retire_splits (x : Warp) (n : Nat) : (x.retire n).splits = x.splits := rfl
@[simp] theorem Warp.retire_stack (x : Warp) (n : Nat) : (x.retire n).stack = x.stack := rfl
@[simp] theorem Warp.retire_tbs (x : Warp) (n : Nat) : (x.retire n).tbs = x.tbs := rfl
@[simp] theorem Warp.retire_maps (x : Warp) (n : Nat) : (x.retire n).maps = x.maps := rfl
@[simp] theorem Warp.retire_kinds (x : Warp) (n : Nat) : (x.retire n).kinds = x.kinds := rfl
@[simp] theorem Warp.retire_acc (x : Warp) (n : Nat) : (x.retire n).acc = x.acc := rfl
@[simp] theorem Warp.retire_bseq (x : Warp) (n : Nat) : (x.retire n).bseq = x.bseq := rfl
@[simp] theorem Warp.retire_openOps (x : Warp) (n : Nat) : (x.retire n).openOps = x.openOps := rfl
@[simp] theorem Warp.retire_closed (x : Warp) (n : Nat) : (x.retire n).closed = x.closed := rfl
@[simp] theorem Warp.retire_abandoned (x : Warp) (n : Nat) : (x.retire n).abandoned = x.abandoned := rfl
@[simp] theorem Warp.retire_frags (x : Warp) (n : Nat) : (x.retire n).frags = x.frags := rfl
@[simp] theorem Warp.retire_vout (x : Warp) (n : Nat) : (x.retire n).vout = x.vout := rfl
@[simp] theorem Warp.retire_voutDone (x : Warp) (n : Nat) : (x.retire n).voutDone = x.voutDone := rfl
@[simp] theorem Warp.retire_bypass (x : Warp) (n : Nat) : (x.retire n).bypass = x.bypass := rfl

/-! ### Warp.raise -/

@[simp] theorem Warp.raise_wg (x : Warp) (fl : FpFlags) : (x.raise fl).wg = x.wg := rfl
@[simp] theorem Warp.raise_gang (x : Warp) (fl : FpFlags) : (x.raise fl).gang = x.gang := rfl
@[simp] theorem Warp.raise_ctx (x : Warp) (fl : FpFlags) : (x.raise fl).ctx = x.ctx := rfl
@[simp] theorem Warp.raise_core (x : Warp) (fl : FpFlags) : (x.raise fl).core = x.core := rfl
@[simp] theorem Warp.raise_part (x : Warp) (fl : FpFlags) : (x.raise fl).part = x.part := rfl
@[simp] theorem Warp.raise_slot (x : Warp) (fl : FpFlags) : (x.raise fl).slot = x.slot := rfl
@[simp] theorem Warp.raise_index (x : Warp) (fl : FpFlags) : (x.raise fl).index = x.index := rfl
@[simp] theorem Warp.raise_gangIndex (x : Warp) (fl : FpFlags) : (x.raise fl).gangIndex = x.gangIndex := rfl
@[simp] theorem Warp.raise_vregs (x : Warp) (fl : FpFlags) : (x.raise fl).vregs = x.vregs := rfl
@[simp] theorem Warp.raise_accs (x : Warp) (fl : FpFlags) : (x.raise fl).accs = x.accs := rfl
@[simp] theorem Warp.raise_walker (x : Warp) (fl : FpFlags) : (x.raise fl).walker = x.walker := rfl
@[simp] theorem Warp.raise_halted (x : Warp) (fl : FpFlags) : (x.raise fl).halted = x.halted := rfl
@[simp] theorem Warp.raise_stopping (x : Warp) (fl : FpFlags) : (x.raise fl).stopping = x.stopping := rfl
@[simp] theorem Warp.raise_stage (x : Warp) (fl : FpFlags) : (x.raise fl).stage = x.stage := rfl
@[simp] theorem Warp.raise_task (x : Warp) (fl : FpFlags) : (x.raise fl).task = x.task := rfl
@[simp] theorem Warp.raise_recDepth (x : Warp) (fl : FpFlags) : (x.raise fl).recDepth = x.recDepth := rfl
@[simp] theorem Warp.raise_v (x : Warp) (fl : FpFlags) : (x.raise fl).v = x.v := rfl
@[simp] theorem Warp.raise_g (x : Warp) (fl : FpFlags) : (x.raise fl).g = x.g := rfl
@[simp] theorem Warp.raise_o (x : Warp) (fl : FpFlags) : (x.raise fl).o = x.o := rfl
@[simp] theorem Warp.raise_pv (x : Warp) (fl : FpFlags) : (x.raise fl).pv = x.pv := rfl
@[simp] theorem Warp.raise_pg (x : Warp) (fl : FpFlags) : (x.raise fl).pg = x.pg := rfl
@[simp] theorem Warp.raise_po (x : Warp) (fl : FpFlags) : (x.raise fl).po = x.po := rfl
@[simp] theorem Warp.raise_fptrap (x : Warp) (fl : FpFlags) : (x.raise fl).fptrap = x.fptrap := rfl
@[simp] theorem Warp.raise_utvec (x : Warp) (fl : FpFlags) : (x.raise fl).utvec = x.utvec := rfl
@[simp] theorem Warp.raise_usave (x : Warp) (fl : FpFlags) : (x.raise fl).usave = x.usave := rfl
@[simp] theorem Warp.raise_ssave (x : Warp) (fl : FpFlags) : (x.raise fl).ssave = x.ssave := rfl
@[simp] theorem Warp.raise_callspill (x : Warp) (fl : FpFlags) : (x.raise fl).callspill = x.callspill := rfl
@[simp] theorem Warp.raise_splits (x : Warp) (fl : FpFlags) : (x.raise fl).splits = x.splits := rfl
@[simp] theorem Warp.raise_stack (x : Warp) (fl : FpFlags) : (x.raise fl).stack = x.stack := rfl
@[simp] theorem Warp.raise_pend (x : Warp) (fl : FpFlags) : (x.raise fl).pend = x.pend := rfl
@[simp] theorem Warp.raise_tbs (x : Warp) (fl : FpFlags) : (x.raise fl).tbs = x.tbs := rfl
@[simp] theorem Warp.raise_maps (x : Warp) (fl : FpFlags) : (x.raise fl).maps = x.maps := rfl
@[simp] theorem Warp.raise_kinds (x : Warp) (fl : FpFlags) : (x.raise fl).kinds = x.kinds := rfl
@[simp] theorem Warp.raise_acc (x : Warp) (fl : FpFlags) : (x.raise fl).acc = x.acc := rfl
@[simp] theorem Warp.raise_bseq (x : Warp) (fl : FpFlags) : (x.raise fl).bseq = x.bseq := rfl
@[simp] theorem Warp.raise_openOps (x : Warp) (fl : FpFlags) : (x.raise fl).openOps = x.openOps := rfl
@[simp] theorem Warp.raise_closed (x : Warp) (fl : FpFlags) : (x.raise fl).closed = x.closed := rfl
@[simp] theorem Warp.raise_abandoned (x : Warp) (fl : FpFlags) : (x.raise fl).abandoned = x.abandoned := rfl
@[simp] theorem Warp.raise_frags (x : Warp) (fl : FpFlags) : (x.raise fl).frags = x.frags := rfl
@[simp] theorem Warp.raise_vout (x : Warp) (fl : FpFlags) : (x.raise fl).vout = x.vout := rfl
@[simp] theorem Warp.raise_voutDone (x : Warp) (fl : FpFlags) : (x.raise fl).voutDone = x.voutDone := rfl
@[simp] theorem Warp.raise_bypass (x : Warp) (fl : FpFlags) : (x.raise fl).bypass = x.bypass := rfl

end Sys2Proof.Machine
end

