-- ==== Sys2Proof/Laws/Store.lean ====
section
/-!
SUPPORT. Laws of the sparse tables: reading what was set, other keys left alone, and the canonical form kept by every operation.
-/
namespace Sys2Proof.Machine

variable {β : Type}

@[simp] theorem Tab.get?_nil (a : Nat) : Tab.get? ([] : Tab β) a = none := rfl

theorem Tab.get?_cons (k : Nat) (v : β) (t : Tab β) (a : Nat) :
    Tab.get? ((k, v) :: t) a = if k = a then some v else Tab.get? t a := rfl

theorem Tab.get?_erase_ne {a b : Nat} (h : a ≠ b) (m : Tab β) : Tab.get? (Tab.erase m a) b = Tab.get? m b := by
  induction m with
  | nil => rfl
  | cons p t ih =>
    obtain ⟨k, v⟩ := p
    simp only [Tab.erase, List.filter_cons] at ih ⊢
    by_cases hk : k = a
    · subst hk; simpa [Tab.get?_cons, h] using ih
    · simpa [hk, Tab.get?_cons] using congrArg (fun r => if k = b then some v else r) ih

@[simp] theorem Tab.get?_erase_self (m : Tab β) (a : Nat) : Tab.get? (Tab.erase m a) a = none := by
  induction m with
  | nil => rfl
  | cons p t ih =>
    obtain ⟨k, v⟩ := p
    simp only [Tab.erase, List.filter_cons] at ih ⊢
    by_cases hk : k = a <;> simpa [hk, Tab.get?_cons] using ih

theorem Tab.get?_insert_ne {a b : Nat} (h : a ≠ b) (m : Tab β) (x : β) : Tab.get? (Tab.insert m a x) b = Tab.get? m b := by
  induction m with
  | nil => simp [Tab.insert, Tab.get?_cons, h]
  | cons p t ih =>
    obtain ⟨k, v⟩ := p
    by_cases hk : a < k <;> simp [Tab.insert, hk, Tab.get?_cons, h, ih]

theorem Tab.get?_insert_self (m : Tab β) (a : Nat) (x : β) (h : Tab.get? m a = none) :
    Tab.get? (Tab.insert m a x) a = some x := by
  induction m with
  | nil => simp [Tab.insert, Tab.get?_cons]
  | cons p t ih =>
    obtain ⟨k, v⟩ := p
    simp only [Tab.get?_cons] at h
    by_cases hk : k = a
    · simp [hk] at h
    · simp only [hk, if_false] at h
      by_cases hl : a < k
      · simp [Tab.insert, hl, Tab.get?_cons]
      · simp [Tab.insert, hl, Tab.get?_cons, hk, ih h]

@[simp] theorem Tab.get?_set_self (m : Tab β) (a : Nat) (x : β) : Tab.get? (Tab.set m a x) a = some x :=
  Tab.get?_insert_self _ _ _ (Tab.get?_erase_self m a)

theorem Tab.get?_set_ne {a b : Nat} (h : a ≠ b) (m : Tab β) (x : β) : Tab.get? (Tab.set m a x) b = Tab.get? m b := by
  rw [Tab.set, Tab.get?_insert_ne h, Tab.get?_erase_ne h]

theorem Tab.get?_set (m : Tab β) (a b : Nat) (x : β) : Tab.get? (Tab.set m a x) b = if a = b then some x else Tab.get? m b := by
  by_cases h : a = b
  · subst h; simp
  · simp [h, Tab.get?_set_ne h]

theorem Tab.get?_modify (m : Tab β) (a b : Nat) (f : β → β) :
    Tab.get? (Tab.modify m a f) b = if b = a then (Tab.get? m b).map f else Tab.get? m b := by
  induction m with
  | nil => simp [Tab.modify]
  | cons p t ih =>
    obtain ⟨k, v⟩ := p
    simp only [Tab.modify, List.map_cons] at ih ⊢
    by_cases hk : k = a
    · subst hk
      by_cases hb : k = b
      · subst hb; simp [Tab.get?_cons]
      · simp [Tab.get?_cons, hb, ih, Ne.symm hb]
    · by_cases hb : k = b
      · subst hb; simp [Tab.get?_cons, hk]
      · simp [Tab.get?_cons, hk, hb, ih]

/-! ### The canonical form -/

/-- Every key of a table lies above a number. -/
def Tab.above (m : Tab β) (a : Nat) : Prop := ∀ p ∈ m, a < p.1

theorem Tab.sorted_cons (a : Nat) (x : β) (t : Tab β) : Tab.sorted ((a, x) :: t) = true ↔ Tab.above t a ∧ Tab.sorted t = true := by
  induction t generalizing a x with
  | nil => simp [Tab.sorted, Tab.above]
  | cons p t ih =>
    obtain ⟨b, y⟩ := p
    simp only [Tab.sorted, Bool.and_eq_true, decide_eq_true_eq]
    constructor
    · rintro ⟨h, hs⟩
      refine ⟨?_, hs⟩
      intro q hq
      rcases List.mem_cons.mp hq with rfl | hq
      · exact h
      · exact Nat.lt_trans h (((ih b y).mp hs).1 q hq)
    · rintro ⟨h, hs⟩
      exact ⟨h (b, y) (List.mem_cons_self ..), hs⟩

theorem Tab.sorted_filter (m : Tab β) (p : Nat × β → Bool) (h : Tab.sorted m = true) : Tab.sorted (m.filter p) = true := by
  induction m with
  | nil => rfl
  | cons q t ih =>
    obtain ⟨a, x⟩ := q
    obtain ⟨ha, hs⟩ := (Tab.sorted_cons a x t).mp h
    rw [List.filter_cons]
    split
    · exact (Tab.sorted_cons a x _).mpr ⟨fun r hr => ha r (List.mem_filter.mp hr |>.1), ih hs⟩
    · exact ih hs

theorem Tab.mem_insert {m : Tab β} {a : Nat} {x : β} {p : Nat × β} : p ∈ Tab.insert m a x ↔ p = (a, x) ∨ p ∈ m := by
  induction m with
  | nil => simp [Tab.insert]
  | cons q t ih =>
    obtain ⟨k, v⟩ := q
    by_cases h : a < k
    · simp [Tab.insert, h]
    · simp only [Tab.insert, h, if_false, List.mem_cons, ih]
      constructor
      · rintro (h | h | h) <;> simp [h]
      · rintro (h | h | h) <;> simp [h]

theorem Tab.sorted_insert (m : Tab β) (a : Nat) (x : β) (h : Tab.sorted m = true) (hn : ∀ p ∈ m, p.1 ≠ a) :
    Tab.sorted (Tab.insert m a x) = true := by
  induction m with
  | nil => rfl
  | cons q t ih =>
    obtain ⟨k, v⟩ := q
    obtain ⟨hk, hs⟩ := (Tab.sorted_cons k v t).mp h
    by_cases hl : a < k
    · simp only [Tab.insert, hl, if_true]
      refine (Tab.sorted_cons a x _).mpr ⟨?_, h⟩
      intro r hr
      rcases List.mem_cons.mp hr with rfl | hr
      · exact hl
      · exact Nat.lt_trans hl (hk r hr)
    · simp only [Tab.insert, hl, if_false]
      refine (Tab.sorted_cons k v _).mpr ⟨?_, ih hs fun p hp => hn p (List.mem_cons_of_mem _ hp)⟩
      intro r hr
      rcases Tab.mem_insert.mp hr with rfl | hr
      · have := hn (k, v) (List.mem_cons_self ..)
        simp only at this ⊢
        omega
      · exact hk r hr

theorem Tab.sorted_erase (m : Tab β) (a : Nat) (h : Tab.sorted m = true) : Tab.sorted (Tab.erase m a) = true :=
  Tab.sorted_filter m _ h

theorem Tab.sorted_set (m : Tab β) (a : Nat) (x : β) (h : Tab.sorted m = true) : Tab.sorted (Tab.set m a x) = true := by
  refine Tab.sorted_insert _ _ _ (Tab.sorted_erase m a h) ?_
  intro p hp
  simpa using (List.mem_filter.mp hp).2

theorem Tab.sorted_modify (m : Tab β) (a : Nat) (f : β → β) (h : Tab.sorted m = true) : Tab.sorted (Tab.modify m a f) = true := by
  induction m with
  | nil => rfl
  | cons q t ih =>
    obtain ⟨k, v⟩ := q
    obtain ⟨hk, hs⟩ := (Tab.sorted_cons k v t).mp h
    have above : Tab.above (Tab.modify t a f) k := by
      intro r hr
      obtain ⟨p, hp, rfl⟩ := List.mem_map.mp hr
      have := hk p hp
      split <;> exact this
    show Tab.sorted ((if k = a then (k, f v) else (k, v)) :: Tab.modify t a f) = true
    split <;> exact (Tab.sorted_cons _ _ _).mpr ⟨above, ih hs⟩

/-! ### Stores and memories -/

variable {w : Nat}

@[simp] theorem Store.get_nil (a : Nat) : Store.get ([] : Store w) a = 0 := rfl

@[simp] theorem Store.get_set_self (m : Store w) (a : Nat) (x : BitVec w) : Store.get (Store.set m a x) a = x := by
  unfold Store.set Store.get
  split <;> simp_all

theorem Store.get_set_ne {a b : Nat} (h : a ≠ b) (m : Store w) (x : BitVec w) : Store.get (Store.set m a x) b = Store.get m b := by
  unfold Store.set Store.get
  split
  · rw [Tab.get?_erase_ne h]
  · rw [Tab.get?_set_ne h]

theorem Store.get_set (m : Store w) (a b : Nat) (x : BitVec w) : Store.get (Store.set m a x) b = if a = b then x else Store.get m b := by
  by_cases h : a = b
  · subst h; simp
  · simp [h, Store.get_set_ne h]

theorem Store.wf_iff (m : Store w) : Store.wf m = true ↔ Tab.sorted m = true ∧ ∀ p ∈ m, p.2 ≠ 0 := by
  simp [Store.wf]

theorem Store.wf_filter (m : Store w) (p : Nat × BitVec w → Bool) (h : Store.wf m = true) : Store.wf (m.filter p : Store w) = true := by
  rw [Store.wf_iff] at h ⊢
  exact ⟨Tab.sorted_filter m p h.1, fun q hq => h.2 q (List.mem_filter.mp hq |>.1)⟩

theorem Store.wf_set (m : Store w) (a : Nat) (x : BitVec w) (h : Store.wf m = true) : Store.wf (Store.set m a x) = true := by
  unfold Store.set
  split
  · exact Store.wf_filter m _ h
  · rename_i hx
    rw [Store.wf_iff] at h ⊢
    refine ⟨Tab.sorted_set m a x h.1, fun q hq => ?_⟩
    rcases Tab.mem_insert.mp hq with rfl | hq
    · exact hx
    · exact h.2 q (List.mem_filter.mp hq |>.1)

theorem Memory.wf_write (m : Memory) (a : Nat) (x : Byte) (h : m.wf = true) : (m.write a x).wf = true := Store.wf_set m a x h

theorem Memory.wf_filter (m : Memory) (p : Nat × Byte → Bool) (h : m.wf = true) : Memory.wf (m.filter p) = true :=
  Store.wf_filter m p h

theorem Memory.wf_writeAll (m : Memory) (bs : List (Nat × Byte)) (h : m.wf = true) : (m.writeAll bs).wf = true := by
  induction bs generalizing m with
  | nil => exact h
  | cons b t ih => exact ih _ (Memory.wf_write m b.1 b.2 h)

theorem Memory.wf_writeNat (m : Memory) (a n v : Nat) (h : m.wf = true) : (m.writeNat a n v).wf = true :=
  Memory.wf_writeAll m _ h

@[simp] theorem Memory.wf_nil : Memory.wf [] = true := rfl

@[simp] theorem Memory.read_write_self (m : Memory) (a : Nat) (x : Byte) : (m.write a x).read a = x := Store.get_set_self m a x

theorem Memory.read_write_ne {a b : Nat} (h : a ≠ b) (m : Memory) (x : Byte) : (m.write a x).read b = m.read b :=
  Store.get_set_ne h m x

/-- Bytes written leave every other address alone. -/
theorem Memory.read_writeAll_ne (m : Memory) (bs : List (Nat × Byte)) (b : Nat) (h : ∀ p ∈ bs, p.1 ≠ b) :
    (m.writeAll bs).read b = m.read b := by
  induction bs generalizing m with
  | nil => rfl
  | cons p t ih =>
    have hp := h p (List.mem_cons_self ..)
    rw [Memory.writeAll, List.foldl_cons]
    refine (ih _ fun q hq => h q (List.mem_cons_of_mem _ hq)).trans (Memory.read_write_ne hp m p.2)

theorem Store.get_of_mem (m : Store w) (h : Tab.sorted m = true) {p : Nat × BitVec w} (hp : p ∈ m) : Store.get m p.1 = p.2 := by
  induction m with
  | nil => exact absurd hp (by simp)
  | cons q t ih =>
    obtain ⟨k, v⟩ := q
    obtain ⟨hk, hs⟩ := (Tab.sorted_cons k v t).mp h
    rcases List.mem_cons.mp hp with rfl | hp
    · simp [Store.get, Tab.get?_cons]
    · have hlt : k < p.1 := hk p hp
      have hne : k ≠ p.1 := Nat.ne_of_lt hlt
      have := ih hs hp
      simp only [Store.get, Tab.get?_cons, if_neg hne] at this ⊢
      exact this

theorem Store.get_above (m : Store w) (a : Nat) (h : Tab.above m a) : Store.get m a = 0 := by
  induction m with
  | nil => rfl
  | cons q t ih =>
    obtain ⟨k, v⟩ := q
    have hk : a < k := h (k, v) (List.mem_cons_self ..)
    have hne : k ≠ a := Nat.ne_of_gt hk
    have := ih fun r hr => h r (List.mem_cons_of_mem _ hr)
    simp only [Store.get, Tab.get?_cons, if_neg hne] at this ⊢
    exact this

/-- Two stores in canonical form that read alike are the same list. -/
theorem Store.ext_of_wf (m n : Store w) (hm : Store.wf m = true) (hn : Store.wf n = true) (h : ∀ a, Store.get m a = Store.get n a) :
    m = n := by
  rw [Store.wf_iff] at hm hn
  induction m generalizing n with
  | nil =>
    cases n with
    | nil => rfl
    | cons q t =>
      have h1 := h q.1
      rw [Store.get_nil, Store.get_of_mem _ hn.1 (List.mem_cons_self ..)] at h1
      exact absurd h1.symm (hn.2 q (List.mem_cons_self ..))
  | cons p s ih =>
    cases n with
    | nil =>
      have h1 := h p.1
      rw [Store.get_nil, Store.get_of_mem _ hm.1 (List.mem_cons_self ..)] at h1
      exact absurd h1 (hm.2 p (List.mem_cons_self ..))
    | cons q t =>
      obtain ⟨a, x⟩ := p
      obtain ⟨b, y⟩ := q
      obtain ⟨ha, hs⟩ := (Tab.sorted_cons a x s).mp hm.1
      obtain ⟨hb, ht⟩ := (Tab.sorted_cons b y t).mp hn.1
      have hx : x ≠ 0 := hm.2 (a, x) (List.mem_cons_self ..)
      have hy : y ≠ 0 := hn.2 (b, y) (List.mem_cons_self ..)
      have ga : Store.get ((a, x) :: s : Store w) a = x := Store.get_of_mem _ hm.1 (List.mem_cons_self ..)
      have gb : Store.get ((b, y) :: t : Store w) b = y := Store.get_of_mem _ hn.1 (List.mem_cons_self ..)
      have hab : a = b := by
        rcases Nat.lt_trichotomy a b with hl | he | hl
        · have h1 := h a
          rw [ga, Store.get_above _ a] at h1
          · exact absurd h1 hx
          · intro r hr
            rcases List.mem_cons.mp hr with rfl | hr
            · exact hl
            · exact Nat.lt_trans hl (hb r hr)
        · exact he
        · have h1 := h b
          rw [gb, Store.get_above _ b] at h1
          · exact absurd h1.symm hy
          · intro r hr
            rcases List.mem_cons.mp hr with rfl | hr
            · exact hl
            · exact Nat.lt_trans hl (ha r hr)
      subst hab
      have hxy : x = y := by rw [← ga, h a, gb]
      subst hxy
      have : s = t := by
        refine ih t ⟨hs, fun q hq => hm.2 q (List.mem_cons_of_mem _ hq)⟩ ⟨ht, fun q hq => hn.2 q (List.mem_cons_of_mem _ hq)⟩ ?_
        intro c
        by_cases hc : a = c
        · subst hc
          rw [Store.get_above s a ha, Store.get_above t a hb]
        · have h1 := h c
          simp only [Store.get, Tab.get?_cons, if_neg hc] at h1 ⊢
          exact h1
      rw [this]

end Sys2Proof.Machine
end

