-- ==== Sys2Proof/Laws/Warp.lean ====
section
/-!
SUPPORT. What the split tables' own movements leave alone: leaving an instruction, the end step of a loop and the settling of the
tables change a warp's splits and stack and nothing else.
-/
namespace Sys2Proof.Machine

theorem Warp.eq_of_rest {x y : Warp} (h : x.rest = y.rest) : x = { y with splits := x.splits, stack := x.stack, pend := x.pend } := by
  cases x; cases y; simp_all [Warp.rest]

theorem Warp.pend_of_rest {x y : Warp} (h : x.rest = y.rest) :
    (x.pend.map fun p => { p with mask := 0 }) = y.pend.map fun p => { p with mask := 0 } := congrArg Warp.pend h

@[simp] theorem Warp.rest_order (x : Warp) (l : Word) : (x.order l).rest = x.rest := by
  simp only [Warp.rest, Warp.order, List.map_map, Warp.mk.injEq, true_and, and_true]
  congr 1
  funext p
  simp only [Function.comp]
  split <;> rfl

@[simp] theorem Warp.rest_splits (x : Warp) (p : Tab Split) (q : List StackEntry) : ({ x with splits := p, stack := q } : Warp).rest = x.rest := rfl
@[simp] theorem Warp.rest_setSplit (x : Warp) (k : Nat) (sp : Split) : (x.setSplit k sp).rest = x.rest := rfl
@[simp] theorem Warp.rest_modSplit (x : Warp) (k : Nat) (f : Split → Split) : (x.modSplit k f).rest = x.rest := rfl
@[simp] theorem Warp.rest_dropSplit (x : Warp) (k : Nat) : (x.dropSplit k).rest = x.rest := rfl

@[simp] theorem Warp.rest_endStep (x : Warp) (k : Nat) (succ : DWord → DWord) (n : Nat) : (x.endStep k succ n).rest = x.rest := by
  induction n generalizing x with
  | zero => rfl
  | succ n ih =>
    unfold Warp.endStep
    split
    · rfl
    · split
      · rfl
      · dsimp only
        repeat' split
        all_goals first | rfl | exact Warp.rest_order x _ | (rw [ih]; first | rfl | exact Warp.rest_order x _)

@[simp] theorem Warp.rest_leaveAt (x : Warp) (k : Nat) (a : DWord) (succ : DWord → DWord) : (x.leaveAt k a succ).rest = x.rest := by
  unfold Warp.leaveAt
  split
  · rfl
  · split
    · rfl
    · dsimp only
      split
      · split
        · rw [Warp.rest_endStep]; rfl
        · rfl
      · rfl

@[simp] theorem Warp.rest_complete (x : Warp) (i : Nat) (j : DWord) (ex : Word) (f : Frame) (hd : Handler) (y : Nat)
    (succ : DWord → DWord) : (x.complete i j ex f hd y succ).rest = x.rest := by
  unfold Warp.complete
  dsimp only
  split
  · rw [Warp.rest_leaveAt]; exact Warp.rest_order x _
  · split
    · show (Warp.leaveAt _ _ _ _).rest = _
      rw [Warp.rest_leaveAt]; exact Warp.rest_order x _
    · show (Warp.leaveAt _ _ _ _).rest = _
      rw [Warp.rest_leaveAt]; exact Warp.rest_order x _

@[simp] theorem Warp.rest_completeLoop (x : Warp) (n i : Nat) (j : DWord) (ex : Word) (f : Frame) (hd : Handler) (y : Nat)
    (succ : DWord → DWord) : (x.completeLoop n i j ex f hd y succ).rest = x.rest := by
  unfold Warp.completeLoop
  split
  · rw [Warp.rest_endStep]; exact Warp.rest_order x _
  · rfl

theorem Warp.rest_settleOnce {x x' : Warp} {y : Nat} {succ : DWord → DWord} (h : x.settleOnce y succ = some x') : x'.rest = x.rest := by
  unfold Warp.settleOnce at h
  repeat' split at h
  all_goals first
    | (cases h; done)
    | (obtain rfl := Option.some.inj h; first | rfl | simp)

@[simp] theorem Warp.rest_settle (x : Warp) (y : Nat) (succ : DWord → DWord) (n : Nat) : (x.settle y succ n).rest = x.rest := by
  induction n generalizing x with
  | zero => rfl
  | succ n ih =>
    unfold Warp.settle
    split
    · rfl
    · rename_i h; rw [ih, Warp.rest_settleOnce h]

/-- What writing a late result can change: registers, their poison marks, what older operations still owe, and what traps saved. -/
theorem Warp.applyResult_frame (w : Warp) (p : PendOp) (vals : List (Nat × List Word × Nat)) : ∃ v g o pv pg po pend splits stack,
    w.applyResult p vals = { w with v, g, o, pv, pg, po, pend, splits, stack } := by
  have key : ∀ (l : List DstWord) (w : Warp), ∃ v g o pv pg po pend splits stack,
      l.foldl (fun w d => match vals.find? (fun v => v.1 = d.lane) with
        | some v =>
          let w := (w.supersede p.id d.reg d.lane).setReg d.reg d.lane (v.2.1.getD d.word 0)
          if v.2.2 = 0 then w else w.setPoison d.reg d.lane v.2.2
        | none => w) w = { w with v, g, o, pv, pg, po, pend, splits, stack } := by
    intro l
    induction l with
    | nil => exact fun w => ⟨w.v, w.g, w.o, w.pv, w.pg, w.po, w.pend, w.splits, w.stack, rfl⟩
    | cons d l ih =>
      intro w
      simp only [List.foldl_cons]
      split
      · rename_i x _
        obtain ⟨v, g, o, pv, pg, po, pend, splits, stack, h⟩ := ih (if x.2.2 = 0 then (w.supersede p.id d.reg d.lane).setReg d.reg d.lane (x.2.1.getD d.word 0)
          else ((w.supersede p.id d.reg d.lane).setReg d.reg d.lane (x.2.1.getD d.word 0)).setPoison d.reg d.lane x.2.2)
        refine ⟨v, g, o, pv, pg, po, pend, splits, stack, h.trans ?_⟩
        cases d.reg <;> split <;> rfl
      · exact ih w
  obtain ⟨v, g, o, pv, pg, po, pend, splits, stack, h⟩ := key p.dsts (w.mapSaved fun x => x.due p.id vals)
  exact ⟨v, g, o, pv, pg, po, pend, splits, stack, h⟩
end Sys2Proof.Machine
end

