-- ==== Sys2Proof/Laws/Ops.lean ====
section
/-!
SUPPORT. What the shared operations of an issuing instruction do, said once: its start, its end, a stall, and how the parts compose.
-/
namespace Sys2Proof.Machine

/-! ### One warp only -/

theorem OnlyWarp.refl (s : State) (w : Nat) : OnlyWarp s s w := ⟨rfl, fun _ _ => rfl⟩

theorem OnlyWarp.trans {a b c : State} {w : Nat} (h : OnlyWarp a b w) (g : OnlyWarp b c w) : OnlyWarp a c w := by
  obtain ⟨h1, h2⟩ := h
  obtain ⟨g1, g2⟩ := g
  refine ⟨?_, fun q hq => (g2 q hq).trans (h2 q hq)⟩
  rw [g1, h1]

theorem OnlyWarp.modWarp (s : State) (w : Nat) (f : Warp → Warp) : OnlyWarp s (s.modWarp w f) w :=
  ⟨rfl, fun q hq => by simp [State.warp?, State.modWarp, Tab.get?_modify, hq]⟩

theorem OnlyWarp.bump (s : State) (w : Nat) : OnlyWarp s s.bump w := ⟨rfl, fun _ _ => rfl⟩

theorem OnlyWarp.settleWarp (s : State) (w : Nat) (g : DWord → DWord) : OnlyWarp s (s.settleWarp w g) w :=
  (OnlyWarp.modWarp s w _).trans (OnlyWarp.bump _ w)

@[simp] theorem State.warp?_modWarp_self (s : State) (w : Nat) (f : Warp → Warp) : (s.modWarp w f).warp? w = (s.warp? w).map f := by
  simp [State.warp?, State.modWarp, Tab.get?_modify]

@[simp] theorem State.warp?_bump (s : State) (w : Nat) : s.bump.warp? w = s.warp? w := rfl

@[simp] theorem State.warp?_settleWarp (s : State) (w : Nat) (g : DWord → DWord) :
    (s.settleWarp w g).warp? w = (s.warp? w).map fun x => x.settle s.nextId g := by
  simp [State.settleWarp]

@[simp] theorem Warp.split?_modSplit_self (x : Warp) (k : Nat) (f : Split → Split) : (x.modSplit k f).split? k = (x.split? k).map f := by
  simp [Warp.split?, Warp.modSplit, Tab.get?_modify]

theorem Warp.split?_modSplit_ne (x : Warp) {k q : Nat} (h : q ≠ k) (f : Split → Split) : (x.modSplit k f).split? q = x.split? q := by
  simp [Warp.split?, Warp.modSplit, Tab.get?_modify, h]

@[simp] theorem Warp.split?_setSplit_self (x : Warp) (k : Nat) (sp : Split) : (x.setSplit k sp).split? k = some sp := by
  simp [Warp.split?, Warp.setSplit]

theorem Warp.split?_setSplit_ne (x : Warp) {k q : Nat} (h : q ≠ k) (sp : Split) : (x.setSplit k sp).split? q = x.split? q := by
  simp [Warp.split?, Warp.setSplit, Tab.get?_set_ne (Ne.symm h)]

/-! ### The issue -/

theorem State.issue?_some {s : State} {f : Form} {e : Enc} {c : Issue} (h : s.issue? f e = some c) :
    s.warp? c.w = some (c.now s) ∧ c.now s = { c.warp with g := (c.now s).g } ∧ c.warp.split? c.k = some c.sp ∧ c.e = e ∧ c.f = f ∧
      c.em = execMask c.warp c.sp e ∧ ∃ u, s.cur = some u ∧ u.warp = c.w ∧ u.entry = c.k := by
  simp only [State.issue?, Option.bind_eq_some_iff, Option.map_eq_some_iff] at h
  obtain ⟨u, hu, w, hw, sp, hsp, rfl⟩ := h
  simp only [Issue.now, hw, Option.getD_some]
  refine ⟨trivial, ?_, ?_, trivial, trivial, trivial, u, hu, rfl, rfl⟩
  · cases u.g <;> rfl
  · cases u.g <;> exact hsp

/-- What the issue reads besides g is the warp as it stands. -/
theorem Issue.now_tables {s : State} {f : Form} {e : Enc} {c : Issue} (h : s.issue? f e = some c) :
    (c.now s).splits = c.warp.splits ∧ (c.now s).stack = c.warp.stack ∧ (c.now s).pend = c.warp.pend ∧
      (c.now s).fpstat = c.warp.fpstat ∧ (c.now s).bare = c.warp.bare := by
  obtain ⟨_, h, _⟩ := State.issue?_some h
  rw [h]
  exact ⟨rfl, rfl, rfl, rfl, rfl⟩

theorem State.ready?_some {s : State} {f : Form} {e : Enc} {c : Issue} (h : s.ready? f e = some c) :
    s.issue? f e = some c ∧ c.precheck = none ∧ c.acquiring = false ∧ c.sp.mask ≠ 0 := by
  simp only [State.ready?, Option.bind_eq_some_iff] at h
  obtain ⟨c', hi, hc⟩ := h
  split at hc
  · rename_i hb
    obtain rfl := Option.some.inj hc
    simp only [Bool.and_eq_true, Option.isNone_iff_eq_none, Bool.not_eq_true', decide_eq_true_eq] at hb
    exact ⟨hi, hb.1.1, hb.1.2, hb.2⟩
  · cases hc

/-- An instruction that passes its checks runs its own body. -/
theorem runIsa_ready {s : State} {f : Form} {e : Enc} {c : Issue} (h : s.ready? f e = some c) (body : Issue → State → State) :
    runIsa f e body s = .next (body c (c.begin s)) := by
  obtain ⟨hi, hp, ha, _⟩ := State.ready?_some h
  simp [runIsa, hi, hp, ha]

/-- An instruction that fails a check takes its trap. -/
theorem runIsa_trap {s : State} {f : Form} {e : Enc} {c : Issue} {t : Trap} (h : s.issue? f e = some c) (hp : c.precheck = some t)
    (body : Issue → State → State) : runIsa f e body s = .next (c.trap (c.begin s) t) := by
  simp [runIsa, h, hp]

theorem Issue.begin_only (c : Issue) (s : State) : OnlyWarp s (c.begin s) c.w :=
  (OnlyWarp.modWarp s c.w _).trans (OnlyWarp.bump _ c.w)

theorem Issue.begin_warp {s : State} {f : Form} {e : Enc} {c : Issue} (h : s.issue? f e = some c) :
    (c.begin s).warp? c.w = some ((c.now s).modSplit c.k fun sp => { sp with wait := .ready, age := s.nextId, xfails := [] }) := by
  obtain ⟨hw, _⟩ := State.issue?_some h
  simp [Issue.begin, Issue.splitDo, hw]

/-! ### Settled tables -/

theorem Tab.mem_of_get? {β : Type} {m : Tab β} {k : Nat} {x : β} (h : Tab.get? m k = some x) : (k, x) ∈ m := by
  induction m with
  | nil => cases h
  | cons p t ih =>
    obtain ⟨a, v⟩ := p
    rw [Tab.get?_cons] at h
    by_cases ha : a = k
    · rw [if_pos ha] at h
      obtain rfl := Option.some.inj h
      rw [ha]; exact List.mem_cons_self ..
    · rw [if_neg ha] at h
      exact List.mem_cons_of_mem _ (ih h)

theorem Tab.mem_set {β : Type} {m : Tab β} {k : Nat} {x : β} {p : Nat × β} (h : p ∈ Tab.set m k x) : p = (k, x) ∨ p ∈ m := by
  rcases Tab.mem_insert.mp h with h | h
  · exact .inl h
  · exact .inr (List.mem_filter.mp h).1

theorem Warp.freeEntry_congr {x y : Warp} (h : ∀ q, (y.split? q).isNone = (x.split? q).isNone) : y.freeEntry = x.freeEntry := by
  unfold Warp.freeEntry
  congr 1
  funext q
  exact h q

/-- Settled tables stay settled where the stack, the entries in use and every entry's lanes and frame stay. -/
theorem Warp.settled_mono {x y : Warp} (hs : y.stack = x.stack) (hq : ∀ q, (y.split? q).isNone = (x.split? q).isNone)
    (hp : ∀ p ∈ y.splits, ∃ q ∈ x.splits, p.2.mask = q.2.mask ∧ p.2.frame = q.2.frame) (h : x.settled = true) : y.settled = true := by
  simp only [Warp.settled, Bool.and_eq_true, List.all_eq_true] at h ⊢
  obtain ⟨h1, h2⟩ := h
  refine ⟨fun p hpm => ?_, ?_⟩
  · obtain ⟨q, hqm, hm, hf⟩ := hp p hpm
    have := h1 q hqm
    rw [show p.2.live = q.2.live by simp [Split.live, hm, hf], hm, hf]
    exact this
  · rw [hs, Warp.freeEntry_congr hq]
    exact h2

theorem Warp.settleOnce_settled {x : Warp} (h : x.settled = true) (y : Nat) (g : DWord → DWord) : x.settleOnce y g = none := by
  simp only [Warp.settled, Bool.and_eq_true, List.all_eq_true] at h
  obtain ⟨h1, h2⟩ := h
  have pick : ∀ (p : StackEntry → Bool) (i : Nat), x.stack.findIdx? p = some i → ∃ a ∈ x.stack, p a = true := by
    intro p i hi
    obtain ⟨hlt, hp, _⟩ := List.findIdx?_eq_some_iff_getElem.mp hi
    exact ⟨_, List.getElem_mem hlt, hp⟩
  unfold Warp.settleOnce
  split
  · rename_i k q hk
    have hm := List.mem_of_find?_eq_some hk
    have hp := List.find?_some hk
    have := h1 _ hm
    simp_all
  · split
    · rename_i i hi
      obtain ⟨a, hm, hp⟩ := pick _ i hi
      have := h2 a hm
      cases a <;> simp_all
    · split
      · rename_i i hi
        obtain ⟨a, hm, hp⟩ := pick _ i hi
        have := h2 a hm
        cases a with
        | path => simp at hp
        | join j ex ar f hd lp =>
          exfalso
          simp only [Bool.and_eq_true, Bool.not_eq_true', decide_eq_true_eq] at hp this
          obtain ⟨_, h4⟩ := this
          rw [Bool.and_eq_false_iff] at h4
          rcases h4 with h4 | h4
          · exact absurd hp.1 (by simpa using h4)
          · rw [h4] at hp; exact absurd hp.2 (by simp)
      · split
        · rename_i k q hk
          have hm := List.mem_of_find?_eq_some hk
          have hp := List.find?_some hk
          have := h1 _ hm
          simp_all
        · split
          · rename_i n i hn hi
            split
            · rename_i pc seq m a f hd hget
              have hmem : StackEntry.path pc seq m a f hd ∈ x.stack := List.mem_of_getElem? hget
              have := h2 _ hmem
              simp [hn] at this
            · rfl
          · rfl

theorem Warp.settle_settled {x : Warp} (h : x.settled = true) (y : Nat) (g : DWord → DWord) (n : Nat) : x.settle y g n = x := by
  cases n with
  | zero => rfl
  | succ n => rw [Warp.settle, Warp.settleOnce_settled h]

/-! ### A split on its way through an instruction -/

/-- x is the issuing warp in the middle of its instruction: its tables stand, but for what its issuing split, now sp, holds besides its
lanes and its frame. -/
structure Steady (c : Issue) (x : Warp) (sp : Split) : Prop where
  stack : x.stack = c.warp.stack
  mine : x.split? c.k = some sp
  mask : sp.mask = c.sp.mask
  frame : sp.frame = c.sp.frame
  others : ∀ q, q ≠ c.k → x.split? q = c.warp.split? q
  settled : c.warp.settled = true → x.settled = true

theorem Steady.congr {c : Issue} {x y : Warp} {sp : Split} (h : Steady c x sp) (h1 : y.splits = x.splits) (h2 : y.stack = x.stack) :
    Steady c y sp := by
  have hq : ∀ q, y.split? q = x.split? q := fun q => by simp [Warp.split?, h1]
  refine ⟨h2.trans h.stack, (hq _).trans h.mine, h.mask, h.frame, fun q hn => (hq q).trans (h.others q hn), fun hs => ?_⟩
  refine Warp.settled_mono h2 (fun q => by rw [hq]) (fun p hp => ⟨p, by rw [← h1]; exact hp, rfl, rfl⟩) (h.settled hs)

theorem Steady.modSplit {c : Issue} {x : Warp} {sp : Split} (h : Steady c x sp) (g : Split → Split)
    (hm : ∀ q, (g q).mask = q.mask) (hf : ∀ q, (g q).frame = q.frame) : Steady c (x.modSplit c.k g) (g sp) := by
  refine ⟨h.stack, by simp [h.mine], (hm _).trans h.mask, (hf _).trans h.frame,
    fun q hn => (Warp.split?_modSplit_ne x hn g).trans (h.others q hn), fun hs => ?_⟩
  refine Warp.settled_mono (x := x) rfl (fun q => ?_) (fun p hp => ?_) (h.settled hs)
  · by_cases hn : q = c.k
    · subst hn; simp
    · rw [Warp.split?_modSplit_ne x hn]
  · obtain ⟨q, hqm, rfl⟩ := List.mem_map.mp hp
    refine ⟨q, hqm, ?_⟩
    split <;> simp [hm, hf]

theorem Steady.start {s : State} {f : Form} {e : Enc} {c : Issue} (h : s.issue? f e = some c) :
    Steady c (c.now s) c.sp := by
  obtain ⟨_, _, hk, _⟩ := State.issue?_some h
  obtain ⟨h1, h2, _⟩ := Issue.now_tables h
  exact (show Steady c c.warp c.sp from ⟨rfl, hk, rfl, rfl, fun _ _ => rfl, id⟩).congr h1 h2

theorem Steady.begin {s : State} {f : Form} {e : Enc} {c : Issue} (h : s.issue? f e = some c) :
    Steady c ((c.now s).modSplit c.k fun sp => { sp with wait := .ready, age := s.nextId, xfails := [] }) (c.issued s) :=
  (Steady.start h).modSplit _ (fun _ => rfl) fun _ => rfl

/-- A split put back over itself keeps the tables. -/
theorem Steady.setSplit {c : Issue} {x : Warp} {sp sp' : Split} (h : Steady c x sp) (hm : sp'.mask = sp.mask) (hf : sp'.frame = sp.frame) :
    Steady c (x.setSplit c.k sp') sp' := by
  refine ⟨h.stack, by simp, hm.trans h.mask, hf.trans h.frame,
    fun q hn => (Warp.split?_setSplit_ne x hn sp').trans (h.others q hn), fun hs => ?_⟩
  refine Warp.settled_mono (x := x) rfl (fun q => ?_) (fun p hp => ?_) (h.settled hs)
  · by_cases hn : q = c.k
    · subst hn; simp [h.mine]
    · rw [Warp.split?_setSplit_ne x hn]
  · rcases Tab.mem_set hp with rfl | hp
    · exact ⟨_, Tab.mem_of_get? h.mine, hm, hf⟩
    · exact ⟨p, hp, rfl, rfl⟩

/-! ### Ends of an instruction -/

theorem Issue.leave_only (c : Issue) (s : State) : OnlyWarp s (c.leave s) c.w :=
  (OnlyWarp.modWarp s c.w _).trans (OnlyWarp.settleWarp _ c.w _)

/-- Leaving an instruction changes the issuing warp's tables alone; where no loop ends and the tables are settled, the split goes on to
the successor and nothing else moves. -/
theorem Issue.leave_goes {c : Issue} {s : State} {x : Warp} {sp : Split} (hx : s.warp? c.w = some x) (h : Steady c x sp)
    (hm : c.sp.mask ≠ 0) :
    ∃ y, Goes c (c.leave s) y { sp with pc := c.succ s c.sp.pc, seq := true } ∧ y.rest = x.rest ∧ Orders c x y := by
  have key : c.atEnd = false → c.warp.settled = true →
      Steady c (x.setSplit c.k { sp with pc := c.succ s c.sp.pc, seq := true }) { sp with pc := c.succ s c.sp.pc, seq := true } ∧
      (x.leaveAt c.k c.sp.pc (c.succ s)).settle s.nextId (c.succ s) = x.setSplit c.k { sp with pc := c.succ s c.sp.pc, seq := true } := by
    intro he hs
    have hl : x.leaveAt c.k c.sp.pc (c.succ s) = x.setSplit c.k { sp with pc := c.succ s c.sp.pc, seq := true } := by
      unfold Warp.leaveAt
      rw [h.mine]
      dsimp only
      rw [h.frame, h.mask, if_neg hm]
      unfold Issue.atEnd at he
      split
      · rename_i n l hi
        have hm : l ∈ c.sp.frame.loops ∧ l.depth = c.sp.frame.depth := by
          unfold Frame.inner at hi
          split at hi
          · rename_i l' hl'
            split at hi
            · cases hi
              exact ⟨List.mem_of_getLast? hl', ‹_›⟩
            · cases hi
          · cases hi
        have : l.stop ≠ c.sp.pc := by
          intro hp
          simp at he
          exact he l hm.1 hm.2 hp
        rw [if_neg this]
      · rfl
    have hst : Steady c (x.setSplit c.k { sp with pc := c.succ s c.sp.pc, seq := true }) _ := h.setSplit rfl rfl
    exact ⟨hst, by rw [hl, Warp.settle_settled (hst.settled hs)]⟩
  refine ⟨(x.leaveAt c.k c.sp.pc (c.succ s)).settle s.nextId (c.succ s), ⟨?_, ?_⟩, by simp, ?_⟩
  · simp [Issue.leave, hx]
  · intro he hs
    obtain ⟨hst, hl⟩ := key he hs
    rw [hl]
    exact ⟨hst.stack, hst.mine, hst.others⟩
  · intro he hs
    rw [(key he hs).2]
    rfl

/-- The successor of an instruction is read from the code alone. -/
theorem State.blockStart_congr {s t : State} {core ctx : Nat} (h : ∀ a, t.codeWord? core ctx a = s.codeWord? core ctx a) (n : Nat)
    (a : DWord) : t.blockStart core ctx a n = s.blockStart core ctx a n := by
  induction n generalizing a with
  | zero => rfl
  | succ n ih => simp only [State.blockStart, h, ih]

theorem Issue.succ_congr {s t : State} {c : Issue} (hf : t.free = s.free)
    (h : ∀ a, t.codeWord? c.warp.core c.warp.codeCtx a = s.codeWord? c.warp.core c.warp.codeCtx a) (a : DWord) : c.succ t a = c.succ s a := by
  simp only [Issue.succ, State.succAt, State.succLen, h, hf, State.blockStart_congr h]

/-! The code a split finds is the same whatever the warps hold. -/

theorem State.homeLine_warps (s : State) (ws : Tab Warp) (n a : Nat) :
    ({ s with warps := ws, nextId := n } : State).homeLine a = s.homeLine a := rfl

theorem State.peekHome_warps (s : State) (ws : Tab Warp) (n a k : Nat) :
    ({ s with warps := ws, nextId := n } : State).peekHome a k = s.peekHome a k := by
  simp only [State.peekHome, State.homeLine_warps]
  rfl

theorem State.walk_warps (s : State) (ws : Tab Warp) (n ctx va level table : Nat) :
    ({ s with warps := ws, nextId := n } : State).walk ctx va level table = s.walk ctx va level table := by
  induction level generalizing table with
  | zero => unfold State.walk; simp only [State.peekHome_warps]
  | succ l ih => unfold State.walk; simp only [State.peekHome_warps, ih]

theorem State.findLeaf_warps (s : State) (ws : Tab Warp) (n d ctx : Nat) (va : DWord) :
    ({ s with warps := ws, nextId := n } : State).findLeaf d ctx va = s.findLeaf d ctx va := by
  simp only [State.findLeaf, State.walk_warps]
  rfl

theorem State.codeLine_warps (s : State) (ws : Tab Warp) (n d a : Nat) :
    ({ s with warps := ws, nextId := n } : State).codeLine d a = s.codeLine d a := by
  simp only [State.codeLine, State.peekLine, State.homeLine_warps]
  rfl

theorem State.codeWord?_warps (s : State) (ws : Tab Warp) (n core ctx a : Nat) :
    ({ s with warps := ws, nextId := n } : State).codeWord? core ctx a = s.codeWord? core ctx a := by
  simp only [State.codeWord?, State.findLeaf_warps, State.codeLine_warps]
  rfl

theorem OnlyWarp.succ {s t : State} {w : Nat} (h : OnlyWarp s t w) (c : Issue) (a : DWord) : c.succ t a = c.succ s a := by
  refine Issue.succ_congr (by rw [h.1]) (fun a => ?_) a
  rw [h.1]
  exact State.codeWord?_warps s t.warps t.nextId _ _ a

end Sys2Proof.Machine
end

