-- ==== Sys2Proof/Laws/Regs.lean ====
section
/-!
SUPPORT. Reading registers after writes: what a result's words leave in the registers that a destination names, and in every other.
-/
namespace Sys2Proof.Machine

/-- A register word of a lane is the one another name and lane give. -/
def sameWord (r : RegName) (l : Nat) (q : RegName) (m : Nat) : Prop := r = q ∧ ((∃ n, r = .g n) ∨ l = m)

theorem laneKey_inj {n m i j : Nat} (hi : i < 32) (hj : j < 32) : laneKey n i = laneKey m j ↔ n = m ∧ i = j := by
  unfold laneKey; omega

@[simp] theorem Warp.getReg_supersede (x : Warp) (n : Nat) (r q : RegName) (i l : Nat) : (x.supersede n r i).getReg q l = x.getReg q l := by
  cases q <;> rfl
@[simp] theorem Warp.poison_supersede (x : Warp) (n : Nat) (r q : RegName) (i l : Nat) : (x.supersede n r i).poison q l = x.poison q l := by
  cases q <;> rfl

theorem Warp.put_same (x : Warp) {r q : RegName} {l m : Nat} (h : sameWord r l q m) (v : Word) :
    (x.put r l v).getReg q m = v ∧ (x.put r l v).poison q m = 0 := by
  obtain ⟨rfl, h⟩ := h
  cases r with
  | g n => simp [Warp.put, Warp.setReg, Warp.getReg, Warp.poison, Warp.supersede]
  | v n =>
    obtain rfl : l = m := by rcases h with ⟨_, h⟩ | h; cases h; exact h
    simp [Warp.put, Warp.setReg, Warp.getReg, Warp.poison, Warp.supersede]
  | o n =>
    obtain rfl : l = m := by rcases h with ⟨_, h⟩ | h; cases h; exact h
    simp [Warp.put, Warp.setReg, Warp.getReg, Warp.poison, Warp.supersede]

theorem Warp.put_other (x : Warp) {r q : RegName} {l m : Nat} (hl : l < 32) (hm : m < 32) (h : ¬ sameWord r l q m) (v : Word) :
    (x.put r l v).getReg q m = x.getReg q m ∧ (x.put r l v).poison q m = x.poison q m := by
  have key : ∀ n k, ¬ (n = k ∧ l = m) → laneKey n l ≠ laneKey k m := fun n k hn he => hn ((laneKey_inj hl hm).mp he)
  cases r <;> cases q <;>
    simp only [Warp.put, Warp.setReg, Warp.getReg, Warp.poison, Warp.supersede, and_self] <;>
    (rename_i n k
     first
      | (have := key n k (fun hk => h ⟨by rw [hk.1], .inr hk.2⟩)
         exact ⟨Store.get_set_ne this _ _, by rw [Tab.get?_erase_ne this]⟩)
      | (have : n ≠ k := fun hk => h ⟨by rw [hk], .inl ⟨n, rfl⟩⟩
         exact ⟨Store.get_set_ne this _ _, by rw [Tab.get?_erase_ne this]⟩))

/-- Words put into registers one after the other. -/
def Warp.putAll (x : Warp) (as : List (RegName × Nat × Word)) : Warp := as.foldl (fun w a => w.put a.1 a.2.1 a.2.2) x

theorem Warp.putAll_other (x : Warp) (as : List (RegName × Nat × Word)) {q : RegName} {m : Nat} (hm : m < 32)
    (hl : ∀ a ∈ as, a.2.1 < 32) (h : ∀ a ∈ as, ¬ sameWord a.1 a.2.1 q m) :
    (x.putAll as).getReg q m = x.getReg q m ∧ (x.putAll as).poison q m = x.poison q m := by
  induction as generalizing x with
  | nil => exact ⟨rfl, rfl⟩
  | cons a t ih =>
    obtain ⟨h1, h2⟩ := ih (x.put a.1 a.2.1 a.2.2) (fun b hb => hl b (List.mem_cons_of_mem _ hb)) (fun b hb => h b (List.mem_cons_of_mem _ hb))
    obtain ⟨g1, g2⟩ := x.put_other (hl a (List.mem_cons_self ..)) hm (h a (List.mem_cons_self ..)) a.2.2
    exact ⟨h1.trans g1, h2.trans g2⟩

/-- Where every word put into a register word is v, and one is, the word is v. -/
theorem Warp.putAll_same (x : Warp) (as : List (RegName × Nat × Word)) {q : RegName} {m : Nat} {v : Word} (hm : m < 32)
    (hl : ∀ a ∈ as, a.2.1 < 32) (hv : ∀ a ∈ as, sameWord a.1 a.2.1 q m → a.2.2 = v) (h : ∃ a ∈ as, sameWord a.1 a.2.1 q m) :
    (x.putAll as).getReg q m = v ∧ (x.putAll as).poison q m = 0 := by
  induction as generalizing x with
  | nil => obtain ⟨a, ha, _⟩ := h; cases ha
  | cons a t ih =>
    have hl' : ∀ b ∈ t, b.2.1 < 32 := fun b hb => hl b (List.mem_cons_of_mem _ hb)
    by_cases ht : ∃ b ∈ t, sameWord b.1 b.2.1 q m
    · exact ih (x.put a.1 a.2.1 a.2.2) hl' (fun b hb => hv b (List.mem_cons_of_mem _ hb)) ht
    · have hn : ∀ b ∈ t, ¬ sameWord b.1 b.2.1 q m := fun b hb hs => ht ⟨b, hb, hs⟩
      have ha : sameWord a.1 a.2.1 q m := by
        obtain ⟨b, hb, hs⟩ := h
        rcases List.mem_cons.mp hb with rfl | hb
        · exact hs
        · exact absurd hs (hn b hb)
      obtain ⟨h1, h2⟩ := (x.put a.1 a.2.1 a.2.2).putAll_other t hm hl' hn
      obtain ⟨g1, g2⟩ := x.put_same ha a.2.2
      obtain rfl := hv a (List.mem_cons_self ..) ha
      exact ⟨h1.trans g1, h2.trans g2⟩

/-- What a word put changes besides the registers: the results still due to it. -/
theorem Warp.bare_put (x : Warp) (r : RegName) (l : Nat) (v : Word) : (x.put r l v).bare = x.bare ∧
    (x.put r l v).fpstat = x.fpstat ∧ (x.put r l v).splits = x.splits ∧ (x.put r l v).stack = x.stack ∧
    (x.put r l v).pend.map (·.mask) = x.pend.map (·.mask) := by
  have h1 : ∀ (ps : List PendOp), (ps.map fun p => if p.id < allOps then p.overtaken r l true else p).map
      (fun p => { p with mask := 0, dsts := [] }) = ps.map fun p => { p with mask := 0, dsts := [] } := by
    intro ps
    rw [List.map_map]
    congr 1
    funext p
    simp only [Function.comp]
    split <;> rfl
  have h2 : ∀ (ps : List PendOp), (ps.map fun p => if p.id < allOps then p.overtaken r l true else p).map (·.mask) = ps.map (·.mask) := by
    intro ps
    rw [List.map_map]
    congr 1
    funext p
    simp only [Function.comp]
    split <;> rfl
  cases r <;> exact ⟨by simp only [Warp.bare, Warp.put, Warp.setReg, Warp.supersede, beq_self_eq_true, h1], rfl, rfl, rfl, h2 _⟩

theorem Warp.bare_putAll (x : Warp) (as : List (RegName × Nat × Word)) : (x.putAll as).bare = x.bare ∧
    (x.putAll as).fpstat = x.fpstat ∧ (x.putAll as).splits = x.splits ∧ (x.putAll as).stack = x.stack ∧
    (x.putAll as).pend.map (·.mask) = x.pend.map (·.mask) := by
  induction as generalizing x with
  | nil => exact ⟨rfl, rfl, rfl, rfl, rfl⟩
  | cons a t ih =>
    obtain ⟨h1, h2, h3, h4, h5⟩ := ih (x.put a.1 a.2.1 a.2.2)
    obtain ⟨g1, g2, g3, g4, g5⟩ := x.bare_put a.1 a.2.1 a.2.2
    exact ⟨h1.trans g1, h2.trans g2, h3.trans g3, h4.trans g4, h5.trans g5⟩

/-! ### A result's words -/

/-- The register words a lane's result is put into. -/
def Issue.wordsOut (c : Issue) (spec : Nat) (p : Nat × List Word) : List (RegName × Nat × Word) :=
  (p.2.zip (List.range p.2.length)).filterMap fun q => (c.reg spec q.2).map fun r => (r, p.1, q.1)

theorem Issue.putWords_eq (c : Issue) (x : Warp) (spec lane : Nat) (xs : List Word) :
    c.putWords x spec lane xs = x.putAll (c.wordsOut spec (lane, xs)) := by
  unfold Issue.putWords Warp.putAll Issue.wordsOut
  rw [List.foldl_filterMap]
  congr 1
  funext w p
  cases c.reg spec p.2 <;> rfl

theorem Issue.mem_wordsOut {c : Issue} {spec : Nat} {p : Nat × List Word} {a : RegName × Nat × Word} :
    a ∈ c.wordsOut spec p ↔ ∃ j, p.2[j]? = some a.2.2 ∧ c.reg spec j = some a.1 ∧ a.2.1 = p.1 := by
  simp only [Issue.wordsOut, List.mem_filterMap, Option.map_eq_some_iff]
  constructor
  · rintro ⟨⟨x, j⟩, hz, r, hr, rfl⟩
    obtain ⟨i, hi, he⟩ := List.mem_iff_getElem.mp hz
    simp only [List.getElem_zip, List.getElem_range, Prod.mk.injEq] at he
    obtain ⟨h1, rfl⟩ := he
    simp only [List.length_zip, List.length_range, Nat.min_self] at hi
    exact ⟨i, by rw [List.getElem?_eq_getElem hi, h1], hr, rfl⟩
  · rintro ⟨j, hj, hr, hl⟩
    obtain ⟨hlt, he⟩ := List.getElem?_eq_some_iff.mp hj
    refine ⟨(a.2.2, j), ?_, a.1, hr, by rw [← hl]⟩
    rw [List.mem_iff_getElem]
    exact ⟨j, by simpa using hlt, by simp [he]⟩

/-- The words of every lane's result put into registers. -/
theorem Issue.putOuts_eq (c : Issue) (x : Warp) (spec : Nat) (outs : List (Nat × List Word)) :
    outs.foldl (fun w p => c.putWords w spec p.1 p.2) x = x.putAll (outs.flatMap (c.wordsOut spec)) := by
  rw [Warp.putAll, List.foldl_flatMap]
  congr 1
  funext w p
  exact c.putWords_eq w spec p.1 p.2

theorem rotName_inj (sp : Split) {a b : Nat} (h : rotName sp a = rotName sp b) : a = b := by
  unfold rotName at h
  split at h
  · rename_i l _
    have key : ∀ n, 192 ≤ n → n < 192 + l.win → 192 + (n - 192 + l.rb) % l.win < 192 + l.win := by
      intro n h1 h2
      have := Nat.mod_lt (n - 192 + l.rb) (show 0 < l.win by omega)
      omega
    by_cases ha : l.depth = sp.frame.depth ∧ 192 ≤ a ∧ a < 192 + l.win
    · by_cases hb : l.depth = sp.frame.depth ∧ 192 ≤ b ∧ b < 192 + l.win
      · rw [if_pos ha, if_pos hb] at h
        have he : (a - 192 + l.rb) % l.win = (b - 192 + l.rb) % l.win := by omega
        have h1 := Nat.sub_mod_eq_zero_of_mod_eq he
        have h2 := Nat.sub_mod_eq_zero_of_mod_eq he.symm
        rw [Nat.mod_eq_of_lt (by omega)] at h1 h2
        omega
      · rw [if_pos ha, if_neg hb] at h
        have := key a ha.2.1 ha.2.2
        omega
    · by_cases hb : l.depth = sp.frame.depth ∧ 192 ≤ b ∧ b < 192 + l.win
      · rw [if_neg ha, if_pos hb] at h
        have := key b hb.2.1 hb.2.2
        omega
      · rw [if_neg ha, if_neg hb] at h
        exact h
  · exact h

/-- Two words of a destination are two registers. -/
theorem Issue.reg_inj (c : Issue) {spec i j : Nat} {r : RegName} (hi : c.reg spec i = some r) (hj : c.reg spec j = some r) : i = j := by
  unfold Issue.reg at hi hj
  split at hi
  · rename_i h; rw [if_pos h] at hj; simp only [Option.some.injEq] at hi hj; rw [← hi] at hj; injection hj; omega
  · rename_i h; rw [if_neg h] at hj
    split at hi
    · rename_i h; rw [if_pos h] at hj; simp only [Option.some.injEq] at hi hj; rw [← hi] at hj
      have := rotName_inj c.sp (by injection hj); omega
    · rename_i h; rw [if_neg h] at hj
      split at hi
      · rename_i h; rw [if_pos h] at hj; simp only [Option.some.injEq] at hi hj; rw [← hi] at hj; injection hj; omega
      · rename_i h; rw [if_neg h] at hj
        split at hi
        · rename_i h; rw [if_pos h] at hj; simp only [Option.some.injEq] at hi hj; rw [← hi] at hj; injection hj; omega
        · cases hi

/-- The results of lanes, each lane once, put into the registers that D names. -/
theorem wrote_putAll (c : Issue) (s : State) (x : Warp) (outs : List (Nat × List Word)) (hl : ∀ p ∈ outs, p.1 < 32)
    (hd : outs.Pairwise fun p q => p.1 ≠ q.1) (hx : ∀ r l, x.getReg r l = (c.now s).getReg r l ∧ x.poison r l = (c.now s).poison r l) :
    Wrote c s (x.putAll (outs.flatMap (c.wordsOut c.e.d.toNat))) outs := by
  have mem : ∀ a, a ∈ outs.flatMap (c.wordsOut c.e.d.toNat) ↔
      ∃ p ∈ outs, ∃ j, p.2[j]? = some a.2.2 ∧ c.reg c.e.d.toNat j = some a.1 ∧ a.2.1 = p.1 := by
    intro a; simp only [List.mem_flatMap, Issue.mem_wordsOut]
  have hlt : ∀ a ∈ outs.flatMap (c.wordsOut c.e.d.toNat), a.2.1 < 32 := by
    intro a ha
    obtain ⟨p, hp, j, _, _, h⟩ := (mem a).mp ha
    rw [h]; exact hl p hp
  have uniq : ∀ p ∈ outs, ∀ q ∈ outs, p.1 = q.1 → p = q := by
    intro p hp q hq h
    clear hl hx mem hlt
    induction outs with
    | nil => cases hp
    | cons a t ih =>
      obtain ⟨h1, h2⟩ := List.pairwise_cons.mp hd
      rcases List.mem_cons.mp hp with e | hp' <;> rcases List.mem_cons.mp hq with g | hq'
      · rw [e, g]
      · exact absurd h (e ▸ h1 q hq')
      · exact absurd h.symm (g ▸ h1 p hp')
      · exact ih h2 hp' hq'
  intro r lane hlane
  refine ⟨fun p hp j v hj hr hcase => ?_, fun hno => ?_⟩
  · refine Warp.putAll_same x _ hlane hlt (fun a ha hs => ?_) ⟨(r, p.1, v), (mem _).mpr ⟨p, hp, j, hj, hr, rfl⟩, rfl, ?_⟩
    · obtain ⟨q, hq, i, hi, hri, hli⟩ := (mem a).mp ha
      obtain ⟨he, hl'⟩ := hs
      rw [he] at hri
      obtain rfl := c.reg_inj hr hri
      have hpq : p = q := by
        rcases hcase with ⟨_, hone⟩ | ⟨hng, hpl⟩
        · obtain ⟨z, rfl⟩ := List.length_eq_one_iff.mp hone
          rw [List.mem_singleton] at hp hq
          rw [hp, hq]
        · rcases hl' with ⟨n, hn⟩ | hl'
          · exact absurd (he ▸ hn) (hng n)
          · exact uniq p hp q hq (by rw [hpl, ← hl', hli])
      rw [← hpq] at hi
      exact Option.some.inj (hi.symm.trans hj)
    · rcases hcase with ⟨hg, _⟩ | ⟨_, hpl⟩
      · exact .inl hg
      · exact .inr hpl
  · have := Warp.putAll_other x _ hlane hlt (q := r) (m := lane) (fun a ha hs => by
      obtain ⟨q, hq, i, hi, hri, hli⟩ := (mem a).mp ha
      obtain ⟨he, hs⟩ := hs
      rw [he] at hri
      obtain ⟨h1, h2⟩ := hno q hq i _ hi hri
      rcases hs with ⟨n, hn⟩ | hs
      · exact h2 n (he ▸ hn)
      · exact h1 (hli ▸ hs))
    exact ⟨this.1.trans (hx r lane).1, this.2.trans (hx r lane).2⟩

end Sys2Proof.Machine
end

