-- ==== Sys2Proof/Laws/Direct.lean ====
section
/-!
SUPPORT. What a direct-class instruction does, said once: its results in D's registers, l0 pushed, flags ORed into FPSTAT, the split gone
on to the next instruction, and nothing else changed.
-/
namespace Sys2Proof.Machine

theorem lanesOf_lt {m : Word} {i : Nat} (h : i ∈ lanesOf m) : i < 32 := List.mem_range.mp (List.mem_filter.mp h).1

theorem lanesOf_distinct (m : Word) : (lanesOf m).Pairwise fun i j => i ≠ j :=
  (List.nodup_range (n := 32)).filter _

theorem Issue.lanes_lt {c : Issue} {i : Nat} (h : i ∈ c.lanes) : i < 32 := by
  unfold Issue.lanes at h
  split at h
  · split at h
    · cases h
    · rw [List.mem_singleton] at h; omega
  · exact lanesOf_lt h

theorem Issue.lanes_distinct (c : Issue) : c.lanes.Pairwise fun i j => i ≠ j := by
  unfold Issue.lanes
  split
  · split <;> simp
  · exact lanesOf_distinct _

/-- The common end of a direct-class instruction from a warp whose registers have been written. -/
theorem Issue.flagEnd_goes {c : Issue} {s : State} {x : Warp} {sp : Split} {fs : List (Nat × FpFlags)} (hx : s.warp? c.w = some x)
    (h : Steady c x sp) (hm : c.sp.mask ≠ 0) (hf : c.untrapped fs) :
    ∃ y, Goes c (c.flagEnd s fs) y { sp with pc := c.succ s c.sp.pc, seq := true } ∧ y.rest = (x.raise (unionFlags fs)).rest ∧
      Orders c x y ∧ OnlyWarp s (c.flagEnd s fs) c.w := by
  have h1 : (c.warpDo s fun w => w.raise (unionFlags fs)).warp? c.w = some (x.raise (unionFlags fs)) := by
    simp [Issue.warpDo, hx]
  obtain ⟨y, hy, hr, hq⟩ := c.leave_goes h1 (h.congr (y := x.raise (unionFlags fs)) rfl rfl) hm
  have he : c.flagEnd s fs = c.leave (c.warpDo s fun w => w.raise (unionFlags fs)) := by
    unfold Issue.flagEnd
    rw [show trapLanes c.warp fs = 0 from hf]
    rfl
  rw [he]
  have ho := OnlyWarp.modWarp s c.w fun w => w.raise (unionFlags fs)
  rw [show c.succ (c.warpDo s fun w => w.raise (unionFlags fs)) c.sp.pc = c.succ s c.sp.pc from ho.succ c c.sp.pc] at hy
  exact ⟨y, hy, hr, hq, (OnlyWarp.modWarp s c.w _).trans (c.leave_only _)⟩

theorem Steady.push {c : Issue} {x : Warp} {sp : Split} (h : Steady c x sp) (outs : List (Nat × List Word)) (hl : sp.latches = c.sp.latches) :
    Steady c (c.push x (outs.map fun p => (p.1, low64 p.2))) { sp with latches := c.pushed outs } := by
  unfold Issue.push Issue.pushed
  split
  · rw [← hl]; exact h
  · have := h.modSplit (fun q => { q with latches := q.latches.push (outs.map fun p => (p.1, low64 p.2)) }) (fun _ => rfl) fun _ => rfl
    rw [hl] at this
    exact this

theorem Warp.push_keeps (c : Issue) (x : Warp) (res : List (Nat × DWord)) :
    (c.push x res).bare = x.bare ∧ (c.push x res).fpstat = x.fpstat ∧
    (∀ r l, (c.push x res).getReg r l = x.getReg r l ∧ (c.push x res).poison r l = x.poison r l) := by
  unfold Issue.push
  split
  · exact ⟨rfl, rfl, fun _ _ => ⟨rfl, rfl⟩⟩
  · exact ⟨rfl, rfl, fun r _ => by cases r <;> exact ⟨rfl, rfl⟩⟩

theorem Warp.keeps_of_rest {x y : Warp} (h : y.rest = x.rest) :
    y.bare = x.bare ∧ y.fpstat = x.fpstat ∧ (∀ r l, y.getReg r l = x.getReg r l ∧ y.poison r l = x.poison r l) := by
  have hp := congrArg (List.map fun p : PendOp => { p with mask := 0, dsts := [] }) (Warp.pend_of_rest h)
  simp only [List.map_map, Function.comp_def] at hp
  rw [Warp.eq_of_rest h]
  exact ⟨by simp only [Warp.bare, hp], rfl, fun r _ => by cases r <;> exact ⟨rfl, rfl⟩⟩

theorem Wrote.congr {c : Issue} {s : State} {x y : Warp} {outs : List (Nat × List Word)} (h : Wrote c s x outs)
    (e : ∀ r l, y.getReg r l = x.getReg r l ∧ y.poison r l = x.poison r l) : Wrote c s y outs := by
  intro r l hl
  rw [(e r l).1, (e r l).2]
  exact h r l hl

/-- What results, put into registers and pushed, leave: the end of every direct-class instruction. -/
theorem Issue.results_spec {s : State} {f : Form} {e : Enc} {c : Issue} (h : s.issue? f e = some c) (dest pushOuts : List (Nat × List Word))
    (fs : List (Nat × FpFlags)) (hl : ∀ p ∈ dest, p.1 < 32) (hd : dest.Pairwise fun p q => p.1 ≠ q.1) (hm : c.sp.mask ≠ 0)
    (hf : c.untrapped fs) :
    ∃ y, Goes c (c.flagEnd (c.warpDo (c.begin s) fun w =>
          c.push (w.putAll (dest.flatMap (c.wordsOut c.e.d.toNat))) (pushOuts.map fun p => (p.1, low64 p.2))) fs) y
        { c.after s with latches := c.pushed pushOuts } ∧
      OnlyWarp s (c.flagEnd (c.warpDo (c.begin s) fun w =>
          c.push (w.putAll (dest.flatMap (c.wordsOut c.e.d.toNat))) (pushOuts.map fun p => (p.1, low64 p.2))) fs) c.w ∧
      Orders c c.warp y ∧ Wrote c s y dest ∧ y.fpstat = c.warp.fpstat ||| (unionFlags fs).setWidth 32 ∧ y.bare = c.warp.bare := by
  let x0 := (c.now s).modSplit c.k fun sp => { sp with wait := .ready, age := s.nextId, xfails := [] }
  let x1 := x0.putAll (dest.flatMap (c.wordsOut c.e.d.toNat))
  let x2 := c.push x1 (pushOuts.map fun p => (p.1, low64 p.2))
  have hw : (c.begin s).warp? c.w = some x0 := c.begin_warp h
  have h2 : (c.warpDo (c.begin s) fun w =>
      c.push (w.putAll (dest.flatMap (c.wordsOut c.e.d.toNat))) (pushOuts.map fun p => (p.1, low64 p.2))).warp? c.w = some x2 := by
    simp [Issue.warpDo, hw, x2, x1]
  obtain ⟨n1, n2, n3, n4, n5⟩ := Issue.now_tables h
  obtain ⟨b1, b2, b3, b4, b5⟩ := Warp.bare_putAll x0 (dest.flatMap (c.wordsOut c.e.d.toNat))
  have st : Steady c x2 { c.issued s with latches := c.pushed pushOuts } :=
    Steady.push ((Steady.begin h).congr b3 b4) pushOuts rfl
  obtain ⟨y, hy, hr, hq, ho⟩ := c.flagEnd_goes h2 st hm hf
  obtain ⟨p1, p2, p3⟩ := Warp.push_keeps c x1 (pushOuts.map fun p => (p.1, low64 p.2))
  obtain ⟨k1, k2, k3⟩ := Warp.keeps_of_rest hr
  have only : OnlyWarp s (c.warpDo (c.begin s) fun w =>
      c.push (w.putAll (dest.flatMap (c.wordsOut c.e.d.toNat))) (pushOuts.map fun p => (p.1, low64 p.2))) c.w :=
    (c.begin_only s).trans (OnlyWarp.modWarp _ c.w _)
  refine ⟨y, ?_, only.trans ho, fun he hs => ?_, ?_, ?_, ?_⟩
  · rw [only.succ] at hy
    exact hy
  · rw [hq he hs, ← n3]
    exact (congrArg (List.map (·.mask)) (show x2.pend = x1.pend by unfold x2 Issue.push; split <;> rfl)).trans b5
  · have hx0 : ∀ r l, x0.getReg r l = (c.now s).getReg r l ∧ x0.poison r l = (c.now s).poison r l := fun r _ => by cases r <;> exact ⟨rfl, rfl⟩
    refine (wrote_putAll c s x0 dest hl hd hx0).congr fun r l => ?_
    have hraise : (x2.raise (unionFlags fs)).getReg r l = x2.getReg r l ∧ (x2.raise (unionFlags fs)).poison r l = x2.poison r l := by
      cases r <;> exact ⟨rfl, rfl⟩
    exact ⟨((k3 r l).1.trans hraise.1).trans (p3 r l).1, ((k3 r l).2.trans hraise.2).trans (p3 r l).2⟩
  · rw [k2]
    show x2.fpstat ||| _ = _
    rw [p2, b2, ← n4]
    rfl
  · rw [k1]
    show x2.bare = _
    rw [p1, b1, ← n5]
    rfl

theorem pairs_distinct {β : Type} (g : Nat → β) {ls : List Nat} (h : ls.Pairwise fun i j => i ≠ j) :
    (ls.map fun i => (i, g i)).Pairwise fun p q => p.1 ≠ q.1 := List.pairwise_map.mpr h

theorem Issue.direct_spec {s : State} {f : Form} {e : Enc} {c : Issue} (h : s.issue? f e = some c) (g : Nat → LaneOut)
    (hm : c.sp.mask ≠ 0) (hf : c.untrapped (c.flags g)) :
    ∃ y, Goes c (c.direct (c.begin s) g) y { c.after s with latches := c.pushed (c.outs g) } ∧
      OnlyWarp s (c.direct (c.begin s) g) c.w ∧
      Orders c c.warp y ∧ Wrote c s y (c.kept (c.outs g)) ∧ y.fpstat = c.warp.fpstat ||| (unionFlags (c.flags g)).setWidth 32 ∧ y.bare = c.warp.bare := by
  have hl : ∀ p ∈ c.outs g, p.1 < 32 := by
    intro p hp
    obtain ⟨i, hi, rfl⟩ := List.mem_map.mp hp
    exact Issue.lanes_lt hi
  have hd : (c.outs g).Pairwise fun p q => p.1 ≠ q.1 := pairs_distinct _ c.lanes_distinct
  have hk : ∀ p ∈ c.kept (c.outs g), p.1 < 32 := by
    unfold Issue.kept; split
    · intro p hp; cases hp
    · exact hl
  have hkd : (c.kept (c.outs g)).Pairwise fun p q => p.1 ≠ q.1 := by
    unfold Issue.kept; split
    · exact .nil
    · exact hd
  have he : c.direct (c.begin s) g = c.flagEnd (c.warpDo (c.begin s) fun w =>
      c.push (w.putAll ((c.kept (c.outs g)).flatMap (c.wordsOut c.e.d.toNat))) ((c.outs g).map fun p => (p.1, low64 p.2))) (c.flags g) := by
    unfold Issue.direct
    simp only [List.map_map, Function.comp_def, Issue.outs, Issue.flags]
    congr 2
    funext w
    congr 1
    unfold Issue.kept
    split
    · rfl
    · rw [← Issue.putOuts_eq, List.foldl_map, List.foldl_map]
  rw [he]
  exact Issue.results_spec h _ _ _ hk hkd hm hf

theorem Issue.laneResult_spec {s : State} {f : Form} {e : Enc} {c : Issue} (h : s.issue? f e = some c) (r : Nat → List Word) (g : List Word)
    (fs : List (Nat × FpFlags)) (hm : c.sp.mask ≠ 0) (hf : c.untrapped fs) :
    ∃ y, Goes c (c.laneResult (c.begin s) r g fs) y { c.after s with latches := c.pushed ((lanesOf c.em).map fun i => (i, r i)) } ∧
      OnlyWarp s (c.laneResult (c.begin s) r g fs) c.w ∧
      Orders c c.warp y ∧ Wrote c s y (c.kept (c.laneDest r g)) ∧ y.fpstat = c.warp.fpstat ||| (unionFlags fs).setWidth 32 ∧ y.bare = c.warp.bare := by
  have hk : ∀ p ∈ c.kept (c.laneDest r g), p.1 < 32 := by
    unfold Issue.kept Issue.laneDest
    intro p hp
    split at hp
    · cases hp
    · split at hp
      · split at hp
        · cases hp
        · rw [List.mem_singleton] at hp; subst hp; exact Nat.zero_lt_succ 31
      · obtain ⟨i, hi, rfl⟩ := List.mem_map.mp hp
        exact lanesOf_lt hi
  have hkd : (c.kept (c.laneDest r g)).Pairwise fun p q => p.1 ≠ q.1 := by
    unfold Issue.kept Issue.laneDest
    split
    · exact .nil
    · split
      · split <;> simp
      · exact pairs_distinct _ (lanesOf_distinct _)
  have he : c.laneResult (c.begin s) r g fs = c.flagEnd (c.warpDo (c.begin s) fun w =>
      c.push (w.putAll ((c.kept (c.laneDest r g)).flatMap (c.wordsOut c.e.d.toNat)))
        (((lanesOf c.em).map fun i => (i, r i)).map fun p => (p.1, low64 p.2))) fs := by
    unfold Issue.laneResult
    dsimp only
    congr 2
    funext w
    congr 1
    unfold Issue.kept Issue.laneDest
    split
    · rfl
    · split
      · split
        · rfl
        · rw [← Issue.putOuts_eq]; rfl
      · rw [← Issue.putOuts_eq]
  rw [he]
  exact Issue.results_spec h _ _ _ hk hkd hm hf

end Sys2Proof.Machine
end

