-- ==== Sys2Proof/Laws/Exec.lean ====
section
/-!
SUPPORT. The dispatch, arm by arm.
-/
namespace Sys2Proof.Machine

@[simp] theorem exec_nop {e} {s : State} : exec (.nop e) s = execNop e s := rfl
@[simp] theorem exec_mov {e} {s : State} : exec (.mov e) s = execMov e s := rfl
@[simp] theorem exec_movk {e} {s : State} : exec (.movk e) s = execMovk e s := rfl
@[simp] theorem exec_iadd {e} {s : State} : exec (.iadd e) s = execIadd e s := rfl
@[simp] theorem exec_isub {e} {s : State} : exec (.isub e) s = execIsub e s := rfl
@[simp] theorem exec_iadd3 {e} {s : State} : exec (.iadd3 e) s = execIadd3 e s := rfl
@[simp] theorem exec_imul {e} {s : State} : exec (.imul e) s = execImul e s := rfl
@[simp] theorem exec_imulh {e} {s : State} : exec (.imulh e) s = execImulh e s := rfl
@[simp] theorem exec_imad {e} {s : State} : exec (.imad e) s = execImad e s := rfl
@[simp] theorem exec_imadw {e} {s : State} : exec (.imadw e) s = execImadw e s := rfl
@[simp] theorem exec_iadd64 {e} {s : State} : exec (.iadd64 e) s = execIadd64 e s := rfl
@[simp] theorem exec_imin {e} {s : State} : exec (.imin e) s = execImin e s := rfl
@[simp] theorem exec_imax {e} {s : State} : exec (.imax e) s = execImax e s := rfl
@[simp] theorem exec_iabs {e} {s : State} : exec (.iabs e) s = execIabs e s := rfl
@[simp] theorem exec_icmp {e} {s : State} : exec (.icmp e) s = execIcmp e s := rfl
@[simp] theorem exec_icmp64 {e} {s : State} : exec (.icmp64 e) s = execIcmp64 e s := rfl
@[simp] theorem exec_sel {e} {s : State} : exec (.sel e) s = execSel e s := rfl
@[simp] theorem exec_and {e} {s : State} : exec (.and e) s = execAnd e s := rfl
@[simp] theorem exec_or {e} {s : State} : exec (.or e) s = execOr e s := rfl
@[simp] theorem exec_xor {e} {s : State} : exec (.xor e) s = execXor e s := rfl
@[simp] theorem exec_andn {e} {s : State} : exec (.andn e) s = execAndn e s := rfl
@[simp] theorem exec_bool3 {e} {s : State} : exec (.bool3 e) s = execBool3 e s := rfl
@[simp] theorem exec_shl {e} {s : State} : exec (.shl e) s = execShl e s := rfl
@[simp] theorem exec_shr {e} {s : State} : exec (.shr e) s = execShr e s := rfl
@[simp] theorem exec_sar {e} {s : State} : exec (.sar e) s = execSar e s := rfl
@[simp] theorem exec_shf {e} {s : State} : exec (.shf e) s = execShf e s := rfl
@[simp] theorem exec_bfe {e} {s : State} : exec (.bfe e) s = execBfe e s := rfl
@[simp] theorem exec_bfi {e} {s : State} : exec (.bfi e) s = execBfi e s := rfl
@[simp] theorem exec_popc {e} {s : State} : exec (.popc e) s = execPopc e s := rfl
@[simp] theorem exec_clz {e} {s : State} : exec (.clz e) s = execClz e s := rfl
@[simp] theorem exec_ctz {e} {s : State} : exec (.ctz e) s = execCtz e s := rfl
@[simp] theorem exec_brev {e} {s : State} : exec (.brev e) s = execBrev e s := rfl
@[simp] theorem exec_lea {e} {s : State} : exec (.lea e) s = execLea e s := rfl
@[simp] theorem exec_bytex {e} {s : State} : exec (.bytex e) s = execBytex e s := rfl
@[simp] theorem exec_shfl {e} {s : State} : exec (.shfl e) s = execShfl e s := rfl
@[simp] theorem exec_vote {e} {s : State} : exec (.vote e) s = execVote e s := rfl
@[simp] theorem exec_matchLanes {e} {s : State} : exec (.matchLanes e) s = execMatch e s := rfl
@[simp] theorem exec_redw {e} {s : State} : exec (.redw e) s = execRedw e s := rfl
@[simp] theorem exec_scanw {e} {s : State} : exec (.scanw e) s = execScanw e s := rfl
@[simp] theorem exec_ksort {e} {s : State} : exec (.ksort e) s = execKsort e s := rfl
@[simp] theorem exec_vtog {e} {s : State} : exec (.vtog e) s = execVtog e s := rfl
@[simp] theorem exec_fadd {e} {s : State} : exec (.fadd e) s = execFadd e s := rfl
@[simp] theorem exec_fmul {e} {s : State} : exec (.fmul e) s = execFmul e s := rfl
@[simp] theorem exec_ffma {e} {s : State} : exec (.ffma e) s = execFfma e s := rfl
@[simp] theorem exec_fmin {e} {s : State} : exec (.fmin e) s = execFmin e s := rfl
@[simp] theorem exec_fmax {e} {s : State} : exec (.fmax e) s = execFmax e s := rfl
@[simp] theorem exec_fcmp {e} {s : State} : exec (.fcmp e) s = execFcmp e s := rfl
@[simp] theorem exec_frnd {e} {s : State} : exec (.frnd e) s = execFrnd e s := rfl
@[simp] theorem exec_fclass {e} {s : State} : exec (.fclass e) s = execFclass e s := rfl
@[simp] theorem exec_frcp {e} {s : State} : exec (.frcp e) s = execFrcp e s := rfl
@[simp] theorem exec_frsq {e} {s : State} : exec (.frsq e) s = execFrsq e s := rfl
@[simp] theorem exec_fsqrt {e} {s : State} : exec (.fsqrt e) s = execFsqrt e s := rfl
@[simp] theorem exec_fexp2 {e} {s : State} : exec (.fexp2 e) s = execFexp2 e s := rfl
@[simp] theorem exec_flog2 {e} {s : State} : exec (.flog2 e) s = execFlog2 e s := rfl
@[simp] theorem exec_fsin {e} {s : State} : exec (.fsin e) s = execFsin e s := rfl
@[simp] theorem exec_fcos {e} {s : State} : exec (.fcos e) s = execFcos e s := rfl
@[simp] theorem exec_ftanh {e} {s : State} : exec (.ftanh e) s = execFtanh e s := rfl
@[simp] theorem exec_hadd2 {e} {s : State} : exec (.hadd2 e) s = execHadd2 e s := rfl
@[simp] theorem exec_hmul2 {e} {s : State} : exec (.hmul2 e) s = execHmul2 e s := rfl
@[simp] theorem exec_hfma2 {e} {s : State} : exec (.hfma2 e) s = execHfma2 e s := rfl
@[simp] theorem exec_hmin2 {e} {s : State} : exec (.hmin2 e) s = execHmin2 e s := rfl
@[simp] theorem exec_hmax2 {e} {s : State} : exec (.hmax2 e) s = execHmax2 e s := rfl
@[simp] theorem exec_hcmp2 {e} {s : State} : exec (.hcmp2 e) s = execHcmp2 e s := rfl
@[simp] theorem exec_fdot2 {e} {s : State} : exec (.fdot2 e) s = execFdot2 e s := rfl
@[simp] theorem exec_dadd {e} {s : State} : exec (.dadd e) s = execDadd e s := rfl
@[simp] theorem exec_dmul {e} {s : State} : exec (.dmul e) s = execDmul e s := rfl
@[simp] theorem exec_dfma {e} {s : State} : exec (.dfma e) s = execDfma e s := rfl
@[simp] theorem exec_dmin {e} {s : State} : exec (.dmin e) s = execDmin e s := rfl
@[simp] theorem exec_dmax {e} {s : State} : exec (.dmax e) s = execDmax e s := rfl
@[simp] theorem exec_dcmp {e} {s : State} : exec (.dcmp e) s = execDcmp e s := rfl
@[simp] theorem exec_drcp {e} {s : State} : exec (.drcp e) s = execDrcp e s := rfl
@[simp] theorem exec_drsq {e} {s : State} : exec (.drsq e) s = execDrsq e s := rfl
@[simp] theorem exec_dclass {e} {s : State} : exec (.dclass e) s = execDclass e s := rfl
@[simp] theorem exec_drnd {e} {s : State} : exec (.drnd e) s = execDrnd e s := rfl
@[simp] theorem exec_cvt {e} {s : State} : exec (.cvt e) s = execCvt e s := rfl
@[simp] theorem exec_f2i {e} {s : State} : exec (.f2i e) s = execF2i e s := rfl
@[simp] theorem exec_i2f {e} {s : State} : exec (.i2f e) s = execI2f e s := rfl
@[simp] theorem exec_packq {e} {s : State} : exec (.packq e) s = execPackq e s := rfl
@[simp] theorem exec_unpackq {e} {s : State} : exec (.unpackq e) s = execUnpackq e s := rfl
@[simp] theorem exec_scalex {e} {s : State} : exec (.scalex e) s = execScalex e s := rfl
@[simp] theorem exec_bra {e} {s : State} : exec (.bra e) s = execBra e s := rfl
@[simp] theorem exec_brx {e} {s : State} : exec (.brx e) s = execBrx e s := rfl
@[simp] theorem exec_switch {e} {s : State} : exec (.switch e) s = execSwitch e s := rfl
@[simp] theorem exec_join {e} {s : State} : exec (.join e) s = execJoin e s := rfl
@[simp] theorem exec_call {e} {s : State} : exec (.call e) s = execCall e s := rfl
@[simp] theorem exec_callx {e} {s : State} : exec (.callx e) s = execCallx e s := rfl
@[simp] theorem exec_ret {e} {s : State} : exec (.ret e) s = execRet e s := rfl
@[simp] theorem exec_exit {e} {s : State} : exec (.exit e) s = execExit e s := rfl
@[simp] theorem exec_yields {e} {s : State} : exec (.yields e) s = execYields e s := rfl
@[simp] theorem exec_loop {e} {s : State} : exec (.loop e) s = execLoop e s := rfl
@[simp] theorem exec_loopp {e} {s : State} : exec (.loopp e) s = execLoopp e s := rfl
@[simp] theorem exec_breakLoop {e} {s : State} : exec (.breakLoop e) s = execBreak e s := rfl
@[simp] theorem exec_lcget {e} {s : State} : exec (.lcget e) s = execLcget e s := rfl
@[simp] theorem exec_lcset {e} {s : State} : exec (.lcset e) s = execLcset e s := rfl
@[simp] theorem exec_ipref {e} {s : State} : exec (.ipref e) s = execIpref e s := rfl
@[simp] theorem exec_trap {e} {s : State} : exec (.trap e) s = execTrap e s := rfl
@[simp] theorem exec_bkpt {e} {s : State} : exec (.bkpt e) s = execBkpt e s := rfl
@[simp] theorem exec_tbbind {e} {s : State} : exec (.tbbind e) s = execTbbind e s := rfl
@[simp] theorem exec_ld {e} {s : State} : exec (.ld e) s = execLd e s := rfl
@[simp] theorem exec_st {e} {s : State} : exec (.st e) s = execSt e s := rfl
@[simp] theorem exec_ldx {e} {s : State} : exec (.ldx e) s = execLdx e s := rfl
@[simp] theorem exec_stx {e} {s : State} : exec (.stx e) s = execStx e s := rfl
@[simp] theorem exec_lds {e} {s : State} : exec (.lds e) s = execLds e s := rfl
@[simp] theorem exec_sts {e} {s : State} : exec (.sts e) s = execSts e s := rfl
@[simp] theorem exec_ldr {e} {s : State} : exec (.ldr e) s = execLdr e s := rfl
@[simp] theorem exec_str {e} {s : State} : exec (.str e) s = execStr e s := rfl
@[simp] theorem exec_pref {e} {s : State} : exec (.pref e) s = execPref e s := rfl
@[simp] theorem exec_clean {e} {s : State} : exec (.clean e) s = execClean e s := rfl
@[simp] theorem exec_inval {e} {s : State} : exec (.inval e) s = execInval e s := rfl
@[simp] theorem exec_cpy {e} {s : State} : exec (.cpy e) s = execCpy e s := rfl
@[simp] theorem exec_cpyo {e} {s : State} : exec (.cpyo e) s = execCpyo e s := rfl
@[simp] theorem exec_cpyr {e} {s : State} : exec (.cpyr e) s = execCpyr e s := rfl
@[simp] theorem exec_waitc {e} {s : State} : exec (.waitc e) s = execWaitc e s := rfl
@[simp] theorem exec_qinit {e} {s : State} : exec (.qinit e) s = execQinit e s := rfl
@[simp] theorem exec_qpush {e} {s : State} : exec (.qpush e) s = execQpush e s := rfl
@[simp] theorem exec_qpop {e} {s : State} : exec (.qpop e) s = execQpop e s := rfl
@[simp] theorem exec_atom {e} {s : State} : exec (.atom e) s = execAtom e s := rfl
@[simp] theorem exec_atomc {e} {s : State} : exec (.atomc e) s = execAtomc e s := rfl
@[simp] theorem exec_red {e} {s : State} : exec (.red e) s = execRed e s := rfl
@[simp] theorem exec_fence {e} {s : State} : exec (.fence e) s = execFence e s := rfl
@[simp] theorem exec_afence {e} {s : State} : exec (.afence e) s = execAfence e s := rfl
@[simp] theorem exec_ticket {e} {s : State} : exec (.ticket e) s = execTicket e s := rfl
@[simp] theorem exec_served {e} {s : State} : exec (.served e) s = execServed e s := rfl
@[simp] theorem exec_advance {e} {s : State} : exec (.advance e) s = execAdvance e s := rfl
@[simp] theorem exec_waitmon {e} {s : State} : exec (.waitmon e) s = execWaitmon e s := rfl
@[simp] theorem exec_tokpass {e} {s : State} : exec (.tokpass e) s = execTokpass e s := rfl
@[simp] theorem exec_map {e} {s : State} : exec (.map e) s = execMap e s := rfl
@[simp] theorem exec_mma {e} {s : State} : exec (.mma e) s = execMma e s := rfl
@[simp] theorem exec_mmas {e} {s : State} : exec (.mmas e) s = execMmas e s := rfl
@[simp] theorem exec_mzero {e} {s : State} : exec (.mzero e) s = execMzero e s := rfl
@[simp] theorem exec_mlda {e} {s : State} : exec (.mlda e) s = execMlda e s := rfl
@[simp] theorem exec_mdrain {e} {s : State} : exec (.mdrain e) s = execMdrain e s := rfl
@[simp] theorem exec_mbyp {e} {s : State} : exec (.mbyp e) s = execMbyp e s := rfl
@[simp] theorem exec_mfence {e} {s : State} : exec (.mfence e) s = execMfence e s := rfl
@[simp] theorem exec_mwait {e} {s : State} : exec (.mwait e) s = execMwait e s := rfl
@[simp] theorem exec_tldt {e} {s : State} : exec (.tldt e) s = execTldt e s := rfl
@[simp] theorem exec_tstt {e} {s : State} : exec (.tstt e) s = execTstt e s := rfl
@[simp] theorem exec_ordbegin {e} {s : State} : exec (.ordbegin e) s = execOrdbegin e s := rfl
@[simp] theorem exec_ordend {e} {s : State} : exec (.ordend e) s = execOrdend e s := rfl
@[simp] theorem exec_sample {e} {s : State} : exec (.sample e) s = execSample e s := rfl
@[simp] theorem exec_sampleg {e} {s : State} : exec (.sampleg e) s = execSampleg e s := rfl
@[simp] theorem exec_tfetch {e} {s : State} : exec (.tfetch e) s = execTfetch e s := rfl
@[simp] theorem exec_istore {e} {s : State} : exec (.istore e) s = execIstore e s := rfl
@[simp] theorem exec_trace {e} {s : State} : exec (.trace e) s = execTrace e s := rfl
@[simp] theorem exec_emit {e} {s : State} : exec (.emit e) s = execEmit e s := rfl
@[simp] theorem exec_vout {e} {s : State} : exec (.vout e) s = execVout e s := rfl
@[simp] theorem exec_discard {e} {s : State} : exec (.discard e) s = execDiscard e s := rfl
@[simp] theorem exec_rdsys {e} {s : State} : exec (.rdsys e) s = execRdsys e s := rfl
@[simp] theorem exec_wrsys {e} {s : State} : exec (.wrsys e) s = execWrsys e s := rfl
@[simp] theorem exec_sret {e} {s : State} : exec (.sret e) s = execSret e s := rfl
@[simp] theorem exec_uret {e} {s : State} : exec (.uret e) s = execUret e s := rfl
@[simp] theorem exec_tlbfill {e} {s : State} : exec (.tlbfill e) s = execTlbfill e s := rfl
@[simp] theorem exec_tlbinv {e} {s : State} : exec (.tlbinv e) s = execTlbinv e s := rfl
@[simp] theorem exec_dharv {e} {s : State} : exec (.dharv e) s = execDharv e s := rfl
@[simp] theorem exec_walkpop {e} {s : State} : exec (.walkpop e) s = execWalkpop e s := rfl
@[simp] theorem exec_handover {e} {s : State} : exec (.handover e) s = execHandover e s := rfl
@[simp] theorem exec_tokdef {e} {s : State} : exec (.tokdef e) s = execTokdef e s := rfl
@[simp] theorem exec_tokdefDel {e} {s : State} : exec (.tokdefDel e) s = execTokdefDel e s := rfl
@[simp] theorem exec_crdef {e} {s : State} : exec (.crdef e) s = execCrdef e s := rfl
@[simp] theorem exec_crdefDel {e} {s : State} : exec (.crdefDel e) s = execCrdefDel e s := rfl
@[simp] theorem exec_crdefRd {e} {s : State} : exec (.crdefRd e) s = execCrdefRd e s := rfl
@[simp] theorem exec_crdefRdclr {e} {s : State} : exec (.crdefRdclr e) s = execCrdefRdclr e s := rfl
@[simp] theorem exec_resumew {e} {s : State} : exec (.resumew e) s = execResumew e s := rfl
@[simp] theorem exec_haltw {e} {s : State} : exec (.haltw e) s = execHaltw e s := rfl
@[simp] theorem exec_rdwarp {e} {s : State} : exec (.rdwarp e) s = execRdwarp e s := rfl
@[simp] theorem exec_wrwarp {e} {s : State} : exec (.wrwarp e) s = execWrwarp e s := rfl
@[simp] theorem exec_time {e} {s : State} : exec (.time e) s = execTime e s := rfl
@[simp] theorem exec_bbmark {e} {s : State} : exec (.bbmark e) s = execBbmark e s := rfl
@[simp] theorem exec_launch {e} {s : State} : exec (.launch e) s = execLaunch e s := rfl
@[simp] theorem exec_reservedOpcode {op e} {s : State} : exec (.reservedOpcode op e) s = execReservedOpcode op e s := rfl
@[simp] theorem exec_loadDataApplied {w o err} {s : State} : exec (.loadDataApplied w o err) s = execLoadDataApplied w o err s := rfl
@[simp] theorem exec_storePerformed {w o} {s : State} : exec (.storePerformed w o) s = execStorePerformed w o s := rfl
@[simp] theorem exec_atomicAct {w op o} {s : State} : exec (.atomicAct w op o) s = execAtomicAct w op o s := rfl
@[simp] theorem exec_homeRetry {line} {s : State} : exec (.homeRetry line) s = execHomeRetry line s := rfl
@[simp] theorem exec_copyStart {w op} {s : State} : exec (.copyStart w op) s = execCopyStart w op s := rfl
@[simp] theorem exec_copyComplete {w op} {s : State} : exec (.copyComplete w op) s = execCopyComplete w op s := rfl
@[simp] theorem exec_ldrResult {w o} {s : State} : exec (.ldrResult w o) s = execLdrResult w o s := rfl
@[simp] theorem exec_strPerformed {w op} {s : State} : exec (.strPerformed w op) s = execStrPerformed w op s := rfl
@[simp] theorem exec_remotePushArrival {w op} {s : State} : exec (.remotePushArrival w op) s = execRemotePushArrival w op s := rfl
@[simp] theorem exec_remotePushAppend {wg q} {s : State} : exec (.remotePushAppend wg q) s = execRemotePushAppend wg q s := rfl
@[simp] theorem exec_qpushWake {w k} {s : State} : exec (.qpushWake w k) s = execQpushWake w k s := rfl
@[simp] theorem exec_qpopWake {w k} {s : State} : exec (.qpopWake w k) s = execQpopWake w k s := rfl
@[simp] theorem exec_waitcWake {w k} {s : State} : exec (.waitcWake w k) s = execWaitcWake w k s := rfl
@[simp] theorem exec_granuleWaitEnd {w k} {s : State} : exec (.granuleWaitEnd w k) s = execGranuleWaitEnd w k s := rfl
@[simp] theorem exec_matrixOpStart {eng err} {s : State} : exec (.matrixOpStart eng err) s = execMatrixOpStart eng err s := rfl
@[simp] theorem exec_matrixReadComplete {eng} {s : State} : exec (.matrixReadComplete eng) s = execMatrixReadComplete eng s := rfl
@[simp] theorem exec_matrixOpComplete {eng} {s : State} : exec (.matrixOpComplete eng) s = execMatrixOpComplete eng s := rfl
@[simp] theorem exec_mwaitWake {w k} {s : State} : exec (.mwaitWake w k) s = execMwaitWake w k s := rfl
@[simp] theorem exec_servedWake {w k} {s : State} : exec (.servedWake w k) s = execServedWake w k s := rfl
@[simp] theorem exec_waitmonWake {w k} {s : State} : exec (.waitmonWake w k) s = execWaitmonWake w k s := rfl
@[simp] theorem exec_waitmonTimeout {w k} {s : State} : exec (.waitmonTimeout w k) s = execWaitmonTimeout w k s := rfl
@[simp] theorem exec_waitmonReread {w k} {s : State} : exec (.waitmonReread w k) s = execWaitmonReread w k s := rfl
@[simp] theorem exec_ordbeginGrant {w k} {s : State} : exec (.ordbeginGrant w k) s = execOrdbeginGrant w k s := rfl
@[simp] theorem exec_tldtResult {w op} {s : State} : exec (.tldtResult w op) s = execTldtResult w op s := rfl
@[simp] theorem exec_textureResult {w op} {s : State} : exec (.textureResult w op) s = execTextureResult w op s := rfl
@[simp] theorem exec_traceComplete {w op} {s : State} : exec (.traceComplete w op) s = execTraceComplete w op s := rfl
@[simp] theorem exec_emitAppend {w k} {s : State} : exec (.emitAppend w k) s = execEmitAppend w k s := rfl
@[simp] theorem exec_tokenHandoffIdle {region} {s : State} : exec (.tokenHandoffIdle region) s = execTokenHandoffIdle region s := rfl
@[simp] theorem exec_tokenHandoffTimeout {region} {s : State} : exec (.tokenHandoffTimeout region) s = execTokenHandoffTimeout region s := rfl
@[simp] theorem exec_icacheFill {core line err} {s : State} : exec (.icacheFill core line err) s = execIcacheFill core line err s := rfl
@[simp] theorem exec_walkerStart {die} {s : State} : exec (.walkerStart die) s = execWalkerStart die s := rfl
@[simp] theorem exec_harvestInterval {ctx} {s : State} : exec (.harvestInterval ctx) s = execHarvestInterval ctx s := rfl
@[simp] theorem exec_handoverDrain {stack} {s : State} : exec (.handoverDrain stack) s = execHandoverDrain stack s := rfl
@[simp] theorem exec_electrumWriteback {core line} {s : State} : exec (.electrumWriteback core line) s = execElectrumWriteback core line s := rfl
@[simp] theorem exec_homeWriteback {core line err} {s : State} : exec (.homeWriteback core line err) s = execHomeWriteback core line err s := rfl
@[simp] theorem exec_correctionRecord {unit corrections address} {s : State} : exec (.correctionRecord unit corrections address) s = execCorrectionRecord unit corrections address s := rfl
@[simp] theorem exec_warpEnd {w} {s : State} : exec (.warpEnd w) s = execWarpEnd w s := rfl
@[simp] theorem exec_streamDescriptorWrite {slot data} {s : State} : exec (.streamDescriptorWrite slot data) s = execStreamDescriptorWrite slot data s := rfl
@[simp] theorem exec_tailAdvance {slot} {s : State} : exec (.tailAdvance slot) s = execTailAdvance slot s := rfl
@[simp] theorem exec_recordStart {slot} {s : State} : exec (.recordStart slot) s = execRecordStart slot s := rfl
@[simp] theorem exec_launchComplete {launch} {s : State} : exec (.launchComplete launch) s = execLaunchComplete launch s := rfl
@[simp] theorem exec_waitConditionMet {slot seq} {s : State} : exec (.waitConditionMet slot seq) s = execWaitConditionMet slot seq s := rfl
@[simp] theorem exec_waitTimeout {slot seq} {s : State} : exec (.waitTimeout slot seq) s = execWaitTimeout slot seq s := rfl
@[simp] theorem exec_graphLoad {graph} {s : State} : exec (.graphLoad graph) s = execGraphLoad graph s := rfl
@[simp] theorem exec_tileTaskRetire {o} {s : State} : exec (.tileTaskRetire o) s = execTileTaskRetire o s := rfl
@[simp] theorem exec_dispatchOpportunity {die} {s : State} : exec (.dispatchOpportunity die) s = execDispatchOpportunity die s := rfl
@[simp] theorem exec_classWaitLimit {gang} {s : State} : exec (.classWaitLimit gang) s = execClassWaitLimit gang s := rfl
@[simp] theorem exec_class3Promotion {gang} {s : State} : exec (.class3Promotion gang) s = execClass3Promotion gang s := rfl
@[simp] theorem exec_class0Request {gang} {s : State} : exec (.class0Request gang) s = execClass0Request gang s := rfl
@[simp] theorem exec_victimSave {gang} {s : State} : exec (.victimSave gang) s = execVictimSave gang s := rfl
@[simp] theorem exec_orderedSectionTimeout {w} {s : State} : exec (.orderedSectionTimeout w) s = execOrderedSectionTimeout w s := rfl
@[simp] theorem exec_saveAreaCopy {o} {s : State} : exec (.saveAreaCopy o) s = execSaveAreaCopy o s := rfl
@[simp] theorem exec_watchdogFire {ctx} {s : State} : exec (.watchdogFire ctx) s = execWatchdogFire ctx s := rfl
@[simp] theorem exec_xwaitTimeout {ctx} {s : State} : exec (.xwaitTimeout ctx) s = execXwaitTimeout ctx s := rfl
@[simp] theorem exec_thermalInterval {core celsius} {s : State} : exec (.thermalInterval core celsius) s = execThermalInterval core celsius s := rfl
@[simp] theorem exec_migration {wg} {s : State} : exec (.migration wg) s = execMigration wg s := rfl
@[simp] theorem exec_migrationAbandon {wg} {s : State} : exec (.migrationAbandon wg) s = execMigrationAbandon wg s := rfl
@[simp] theorem exec_powerSample {milliwatts} {s : State} : exec (.powerSample milliwatts) s = execPowerSample milliwatts s := rfl
@[simp] theorem exec_powerStateEntry {unit} {s : State} : exec (.powerStateEntry unit) s = execPowerStateEntry unit s := rfl
@[simp] theorem exec_unitWake {unit} {s : State} : exec (.unitWake unit) s = execUnitWake unit s := rfl
@[simp] theorem exec_frontEndBatch {pass} {s : State} : exec (.frontEndBatch pass) s = execFrontEndBatch pass s := rfl
@[simp] theorem exec_subpassRasterise {task} {s : State} : exec (.subpassRasterise task) s = execSubpassRasterise task s := rfl
@[simp] theorem exec_fragmentWarpStart {task} {s : State} : exec (.fragmentWarpStart task) s = execFragmentWarpStart task s := rfl
@[simp] theorem exec_lateTest {task} {s : State} : exec (.lateTest task) s = execLateTest task s := rfl
@[simp] theorem exec_verticalBlank {head} {s : State} : exec (.verticalBlank head) s = execVerticalBlank head s := rfl
@[simp] theorem exec_headConfigWrite {head offset data} {s : State} : exec (.headConfigWrite head offset data) s = execHeadConfigWrite head offset data s := rfl
@[simp] theorem exec_peerApertureWrite {aperture data} {s : State} : exec (.peerApertureWrite aperture data) s = execPeerApertureWrite aperture data s := rfl
@[simp] theorem exec_ptrootWrite {ctx data} {s : State} : exec (.ptrootWrite ctx data) s = execPtrootWrite ctx data s := rfl
@[simp] theorem exec_registerWrite {offset wide data} {s : State} : exec (.registerWrite offset wide data) s = execRegisterWrite offset wide data s := rfl
@[simp] theorem exec_hostMemRead {pa exclusive} {s : State} : exec (.hostMemRead pa exclusive) s = execHostMemRead pa exclusive s := rfl
@[simp] theorem exec_hostMemWrite {pa mask data} {s : State} : exec (.hostMemWrite pa mask data) s = execHostMemWrite pa mask data s := rfl
@[simp] theorem exec_birsp {line half mask data} {s : State} : exec (.birsp line half mask data) s = execBirsp line half mask data s := rfl
@[simp] theorem exec_snpdata {core pa} {s : State} : exec (.snpdata core pa) s = execSnpdata core pa s := rfl
@[simp] theorem exec_snpinv {core pa} {s : State} : exec (.snpinv core pa) s = execSnpinv core pa s := rfl
@[simp] theorem exec_snpcur {core pa} {s : State} : exec (.snpcur core pa) s = execSnpcur core pa s := rfl
@[simp] theorem exec_peerCompletion {w o} {s : State} : exec (.peerCompletion w o) s = execPeerCompletion w o s := rfl
@[simp] theorem exec_coldStart {s : State} : exec .coldStart s = execColdStart s := rfl
@[simp] theorem exec_linkTraining {fullRate} {s : State} : exec (.linkTraining fullRate) s = execLinkTraining fullRate s := rfl
@[simp] theorem exec_linkRetrain {fullRate} {s : State} : exec (.linkRetrain fullRate) s = execLinkRetrain fullRate s := rfl
@[simp] theorem exec_loadfw {address} {s : State} : exec (.loadfw address) s = execLoadfw address s := rfl
@[simp] theorem exec_warm {s : State} : exec .warm s = execWarm s := rfl
@[simp] theorem exec_resync {address} {s : State} : exec (.resync address) s = execResync address s := rfl
@[simp] theorem exec_debugrd {arg0 arg1} {s : State} : exec (.debugrd arg0 arg1) s = execDebugrd arg0 arg1 s := rfl
@[simp] theorem exec_flowcopy {address} {s : State} : exec (.flowcopy address) s = execFlowcopy address s := rfl
@[simp] theorem exec_spdmRequest {code data} {s : State} : exec (.spdmRequest code data) s = execSpdmRequest code data s := rfl
@[simp] theorem exec_ldsResult {w o} {s : State} : exec (.ldsResult w o) s = execLdsResult w o s := rfl
@[simp] theorem exec_scanLine {head line} {s : State} : exec (.scanLine head line) s = execScanLine head line s := rfl
@[simp] theorem exec_imageRegionError {s : State} : exec .imageRegionError s = execImageRegionError s := rfl

end Sys2Proof.Machine
end

