-- ==== Sys2Proof/Tests/Slice0.lean ====
section
/-!
SUPPORT. Tests: words of the spec's encoding examples decode to their instructions, ill-formed instructions are refused, single steps give
the values that the spec's own examples state, and for every statement a state and operands that meet its hypotheses.
-/
namespace Sys2Proof.Tests
open Sys2Proof.Machine

-- Theorem after theorem: the memory limit has no room for many at a time.
set_option Elab.async false

/-! ### Small states -/

/-- Fields of an instruction: LEN, U, F, then D, A, B, C (unused by default). -/
def E (len u f : Nat) (d a b c : Nat := 0x10F) : Enc := encOf len u 0 d 0 a b f c 0 0

/-- The part after reset with one warp whose split 0 has just been picked for an instruction; the warp and the part changed. -/
def at_ (i : Instr) (warp : Warp → Warp := id) (part : State → State := id) : State :=
  part ({ State.reset.placeProgram (encodeBits i) with agenda := [], cur := some { warp := 1, entry := 0 } }.modWarp 1 warp)

/-- The instruction passes its checks there, and state and issue satisfy p. -/
def meets (i : Instr) (p : State → Issue → Bool := fun _ _ => true) (warp : Warp → Warp := id) (part : State → State := id) : Bool :=
  match (at_ i warp part).formNow i with
  | some (f, e) => match (at_ i warp part).ready? f e with | some c => p (at_ i warp part) c | none => false
  | none => false

/-- The instruction names an issue there that satisfies p, whether or not it passes its checks. -/
def issues (i : Instr) (p : State → Issue → Bool) (warp : Warp → Warp := id) (part : State → State := id) : Bool :=
  match (at_ i warp part).formNow i with
  | some (f, e) => match (at_ i warp part).issue? f e with | some c => p (at_ i warp part) c | none => false
  | none => false

/-- Split 0 changed. -/
def split (f : Split → Split) (x : Warp) : Warp := x.modSplit 0 f

/-- Group-wide registers set. -/
def gs (l : List (Nat × Nat)) (x : Warp) : Warp := { x with g := l.foldl (fun g p => Store.set g p.1 (BitVec.ofNat 32 p.2)) x.g }

/-- W = 1. -/
def latchOnly (e : Enc) : Enc := { e with w := 1 }

/-! ### Integer, lane and floating-point results -/

theorem witness_integer : ([.iadd (E 0 0 0 4 8 6), .isub (E 0 1 16 4 8 6), .iadd3 (E 1 0 0 4 8 6 10), .imul (E 0 0 1 4 8 6), .imulh (E 0 0 0 4 8 6),
    .imad (E 1 0 0 4 8 6 10), .imadw (E 1 0 0 4 8 6 10), .iadd64 (E 0 0 2 4 8 6), .imin (E 0 0 0 4 8 6), .imax (E 0 0 0 4 8 6), .iabs (E 0 0 0 4 8),
    .lea (E 0 0 0x70 4 8 6), .iadd (latchOnly (E 0 0 16 4 8 6))] : List Instr).all (meets ·) = true := by decide +kernel

theorem witness_logic : ([.nop (E 0 0 0), .mov (E 0 0 2 4 8), .movk (E 2 0 0 4), .movk (E 2 1 1 4), .movk (E 2 0 2 4 8), .sel (E 1 0 1 4 8 6 10),
    .icmp (E 0 0 0xA1 4 8 6), .icmp64 (E 0 0 2 4 8 6), .and (E 0 0 0 4 8 6), .or (E 0 0 0 4 8 6), .xor (E 0 0 0 4 8 6), .andn (E 0 0 0 4 8 6),
    .bool3 (E 1 0 0 4 8 6 10), .popc (E 0 0 0 4 8), .clz (E 0 0 0 4 8), .ctz (E 0 0 0 4 8), .brev (E 0 0 0 4 8)] : List Instr).all (meets ·) = true := by
  decide +kernel

theorem witness_shift : ([.shl (E 0 0 1 4 8 6), .shr (E 0 0 0 4 8 6), .sar (E 0 1 1 4 8 6), .shf (E 1 0 1 4 8 6 10), .bfe (E 0 0 0 4 8 6),
    .bfi (E 1 0 0 4 8 6 10), .bytex (E 1 0 0 4 8 6 10), .bytex { E 1 0 0 4 8 6 with x := 0x13210 }] : List Instr).all (meets ·) = true := by
  decide +kernel

theorem witness_lanes : ([.shfl (E 0 0 0 4 8 6), .vote (E 0 0 3 4 8), .matchLanes (E 0 0 1 0x142 8), .redw (E 0 0 0x50 4 8), .scanw (E 0 0 0x80 4 8),
    .ksort (E 0 0 0 4 8 6), .vtog (E 0 0 0 0x141 8), .vtog (E 0 0 3 0x142 8 0x180)] : List Instr).all (meets ·) = true := by decide +kernel

/-- The forms of the floating-point statements pass their checks, and no trap is enabled. -/
theorem witness_float : ([.fadd (E 0 0 4 4 8 6), .fmul (E 0 0 4 4 8 6), .ffma (E 1 0 4 4 8 6 10), .dadd (E 0 0 7 4 8 6), .dmul (E 0 0 7 4 8 6),
    .dfma (E 1 0 7 4 8 6 10), .hadd2 (E 0 0 5 4 8 6), .hmul2 (E 0 0 6 4 8 6), .hfma2 (E 1 0 5 4 8 6 10), .fdot2 (E 1 0 5 4 8 6 10),
    .frcp (E 0 0 4 4 8), .frsq (E 0 0 4 4 8), .fsqrt (E 0 0 4 4 8), .fexp2 (E 0 0 4 4 8), .flog2 (E 0 0 4 4 8), .fsin (E 0 0 4 4 8),
    .fcos (E 0 0 4 4 8), .ftanh (E 0 0 4 4 8), .drcp (E 0 0 7 4 8), .drsq (E 0 0 7 4 8), .fmin (E 0 0 4 4 8 6), .fmax (E 0 0 4 4 8 6),
    .dmin (E 0 0 7 4 8 6), .dmax (E 0 0 7 4 8 6), .hmin2 (E 0 0 5 4 8 6), .hmax2 (E 0 0 6 4 8 6), .fcmp (E 0 0 0x5004 4 8 6),
    .dcmp (E 0 0 7 4 8 6), .hcmp2 (E 0 0 5 4 8 6), .frnd (E 0 0 0x34 4 8), .drnd (E 0 0 7 4 8), .fclass (E 0 0 4 4 8), .dclass (E 0 0 7 4 8),
    .cvt (E 0 0 0x1445 4 8), .f2i (E 0 0 0x400 4 8), .i2f (E 0 0 0x304 4 8), .packq (E 0 0 0x88 4 8), .unpackq (E 0 0 8 4 8 6),
    .scalex (E 0 0 8 0x141 8)] : List Instr).all (meets · fun _ c => trapLanes c.warp ((lanesOf c.em).map fun i => (i, (0x1F : FpFlags))) = 0) = true := by
  decide +kernel

/-! ### Checks, traps and returns -/

/-- A loop level that stops at an address, with the fields most tests leave alone. -/
def level (stop : DWord) (count started exitmask : Word := 1) : Loop :=
  { pipelined := false, start := 0x1000, stop, count, started, exitmask, depth := 0, stages := 0, stagemask := 0, win := 0, rb := 0 }

/-- What a trap has saved. -/
def saved0 : Saved := { latches := .empty, loops := [], pend := false, ofile := [], omarks := [], odue := [], level := 0 }

/-- Split 0 with a loop level, and at a LEVEL. -/
def looping (l : Loop) : Warp → Warp := split fun q => { q with frame := { q.frame with loops := [l] } }
def atLevel (n : Nat) : Warp → Warp := split fun q => { q with level := n }

theorem witness_reserved : ((at_ (.reservedOpcode 0x022 (E 0 0 0))).cur.isSome &&
    ((at_ (.reservedOpcode 0x022 (E 0 0 0))).cur.all fun u =>
      (((at_ (.reservedOpcode 0x022 (E 0 0 0))).warp? u.warp).bind fun w => w.split? u.entry).isSome)) = true := by decide +kernel

/-- A check of each step of 02 R69 fails: U, a field, an operand, the allocation, the pipelined predicate, the level. -/
theorem witness_failed : ([.iadd (E 0 0 0x40 4 8 6), .ld (E 1 1 0 4 8), .iadd (E 0 0 0 4 0x139 6), .iadd64 (E 0 0 2 4 9 6),
    .iadd { E 0 0 0 4 8 6 with pred := 8 }, .walkpop (E 0 1 0 4)] : List Instr).all (issues · fun _ c => c.precheck.isSome) = true := by decide +kernel

theorem witness_privileged : ([.tlbfill (E 0 1 0 4 8), .sret (E 0 1 0), .uret (E 0 1 0), .rdsys (E 0 0 0x100 4), .wrsys (E 0 0 0x100 0x10F 4)] : List Instr).all
    (issues · fun _ c => decide (c.sp.level = 0)) = true ∧
    (formTlbfill.lenU (E 0 1 0 4 8) && formSret.lenU (E 0 1 0) && formUret.lenU (E 0 1 0) && formRdsys.lenU (E 0 0 0x100 4) &&
      formWrsys.lenU (E 0 0 0x100 0x10F 4)) = true := by decide +kernel

theorem witness_badEnd : ([.bra (E 1 0 0), .yields (E 0 0 0), .loop (E 1 0 0x40001)] : List Instr).all (fun i =>
    issues i (fun _ c => match i.form? with
      | some (f, e) => (c.sp.frame.loops.any fun l => l.depth = c.sp.frame.depth && l.stop = c.sp.pc) && f.badEnd && f.lenU e && !c.privileged && f.fieldsOk e &&
        !c.wordBeyond && (f.operands e c.warp.vregs).isNone && c.staleLatch.isNone && c.poisoned.isNone
      | none => false) (looping (level 0x1000))) = true := by decide +kernel

theorem witness_latchOnly : (issues (.iadd (latchOnly (E 0 1 0 4 8 6))) (fun _ c => formIadd.lenU c.e && !c.privileged) &&
    issues (.ld (latchOnly (E 1 0 0 4 8))) (fun _ c => formLd.lenU c.e && !c.privileged)) = true := by decide +kernel

/-- Supervisor entry: causes 0x01 and 0x0D; user entry: cause 0x0D with a handler installed; a trap at LEVEL 2. -/
theorem witness_entries : (issues (.iadd (E 0 0 0 4 8 6)) (fun _ c => c.sp.level < 2 && c.warp.utvec = 0) &&
    issues (.iadd (E 0 0 0 4 8 6)) (fun _ c => c.sp.level = 0 && c.warp.utvec ≠ 0) (fun x => { x with utvec := 0x2000 }) &&
    issues (.iadd (E 0 0 0 4 8 6)) (fun _ c => c.sp.level = 2) (atLevel 2)) = true := by decide +kernel

/-- A signalling NaN with the invalid trap enabled. -/
theorem witness_fpTrap : meets (.fadd (E 0 0 4 4 8 6)) (fun _ c => trapLanes c.warp (c.flags (rounded .f32 Issue.rnd [.a, .b] rowAdd c)) ≠ 0 &&
    c.sp.level = 0 && c.warp.utvec = 0) (fun x => { x with fptrap := 0x1F, v := Store.set x.v (laneKey 8 0) 0x7F800001 }) = true := by decide +kernel

theorem witness_trap : ([.trap (E 0 0 7), .bkpt (E 0 0 7)] : List Instr).all (fun i => meets i (fun _ c => c.em ≠ 0 && c.sp.level < 2) &&
    meets i (fun _ c => c.em ≠ 0 && c.sp.level < 2) (fun x => { x with utvec := 0x2000 })) = true := by decide +kernel

theorem witness_returns :
    (meets (.uret (E 0 1 0)) (fun _ c => c.em ≠ 0 && c.sp.level = 1 && c.sp.user.tact &&& c.warp.lanes &&& ~~~ c.sp.mask = 0 &&
      c.warp.stack.isEmpty && c.sp.mask ≠ 0 && c.warp.settled && c.sp.user.saved = some saved0)
      (split fun q => { q with level := 1, user := { q.user with saved := some saved0, tact := q.mask } }) &&
    meets (.sret (E 0 1 0)) (fun _ c => c.em ≠ 0 && c.sp.sup.smask &&& c.warp.lanes &&& ~~~ c.sp.mask = 0 && c.warp.stack.isEmpty &&
      c.sp.mask ≠ 0 && c.warp.settled && c.warp.pend.isEmpty && c.sp.sup.saved = some saved0)
      (split fun q => { q with level := 2, sup := { q.sup with saved := some saved0, smask := q.mask } })) = true := by decide +kernel

/-! ### Control flow -/

/-- Split 0 at a call depth, with a return stack. -/
def deep (n : Nat) : Warp → Warp := split fun q => { q with frame := { q.frame with depth := n, rstack := List.replicate (min n 8) 0x1100 } }

/-- An instruction with P = v0 bit 0, which holds the lane's index at the start (06 R132). -/
def byV0 (e : Enc) : Enc := { e with pred := 16 }

theorem witness_branches :
    let whole (c : Issue) : Bool := c.sp.mask ≠ 0 && (c.taken = 0 || c.taken = c.sp.mask)
    (meets (.bra (E 1 0 0)) (fun _ c => whole c && c.taken ≠ 0) &&
    meets (.bra { E 1 0 0 with pred := 17 }) (fun _ c => whole c && c.taken = 0) &&
    meets (.brx (E 0 0 0 0x10F 8)) (fun _ c => whole c && (lanesOf c.em).all fun i => c.rd64 8 i = c.rd64 8 c.first) &&
    meets (.brx (E 0 1 0 0x10F 8)) (fun _ c => whole c && c.e.uni) &&
    meets (.call (E 1 0 0)) (fun _ c => whole c && c.sp.frame.depth < 8) &&
    meets (.call (E 1 0 0)) (fun _ c => whole c && c.sp.frame.depth < 8) (deep 7) &&
    meets (.callx (E 0 1 0 0x10F 8)) (fun _ c => whole c && c.e.uni && c.sp.frame.depth < 8) &&
    ([1, 8].all fun d => meets (.ret (E 0 0 0))
      (fun _ c => c.em ≠ 0 && c.em = c.sp.mask && c.sp.frame.depth = d && c.sp.frame.inner.isNone && !c.openJoin) (deep d))) = true := by decide +kernel

/-- Split 0 three times more. -/
def fullTable (x : Warp) : Warp :=
  { x with splits := x.splits ++ (x.splits.take 1).flatMap fun p => [1, 2, 3].map fun n => (n, { p.2 with mask := 0x10000 <<< n }) }

/-- v8 differs between the halves of the warp. -/
def halves (x : Warp) : Warp := { x with v := (List.range 16).foldl (fun v i => Store.set v (laneKey 8 (16 + i)) 0x40) x.v }

/-- The case table of the SWITCH tests: its eight targets differ, the default's is d, the join lies behind them. -/
def caseTable (d : Nat) (s : State) : State := s.modCore 0 fun x => { x with icache := x.icache.map fun p =>
  (p.1, p.2 ||| BitVec.ofNat 1024 (2 ^ 256 * ((4 + 2 ^ 32 * 5 + 2 ^ 256 * d + 2 ^ 288 * 12)))) }

/-- BRA, CALL, BRX, CALLX and SWITCH on several paths: without a join address, with one and free entries, in a loop, without a free entry,
with a full stack. -/
theorem witness_diverges :
    let parts (c : Issue) : Bool := c.taken ≠ 0 && c.sp.mask &&& ~~~ c.taken ≠ 0
    let room (c : Issue) : Bool := c.warp.stack.length + 1 + (if c.warp.freeEntry.isSome then 0 else 1) ≤ 32
    let i (f : Nat) : Instr := .bra (byV0 (E 1 0 f))
    let by2 (c : Issue) : Bool := c.targetGroups.map (·.2) = [0xFFFF, 0xFFFF0000]
    (meets (i 0) (fun _ c => parts c && c.e.f = 0) &&
    meets (i 4) (fun _ c => parts c && c.e.f ≠ 0 && c.offset c.e.f ≠ 0 && room c && c.sp.frame.loops.isEmpty && c.warp.settled &&
      c.warp.freeEntry.isSome) &&
    meets (i 4) (fun _ c => parts c && c.offset c.e.f ≠ 0 && room c && c.warp.settled && c.warp.freeEntry.isNone) fullTable &&
    meets (i 4) (fun _ c => parts c && c.offset c.e.f ≠ 0 && c.warp.settled && !c.sp.frame.loops.isEmpty && c.sp.live &&& c.taken ≠ 0 &&
      c.sp.live &&& ~~~c.taken ≠ 0) (looping (level 0x1100 (exitmask := 0))) &&
    meets (i 4) (fun _ c => parts c && c.offset c.e.f ≠ 0 && !room c)
      fun x => { x with stack := List.replicate 32 (.join 0x1100 3 1 { depth := 0, rstack := [], loops := [] } .none none) }) = true ∧
    (meets (.call (byV0 (E 1 0 4))) (fun _ c => parts c && c.sp.frame.depth < 8 && c.warp.settled) &&
    meets (.brx (E 0 0 4 0x10F 8)) (fun _ c => by2 c && !c.e.uni && c.warp.settled) halves &&
    meets (.callx (E 0 0 4 0x10F 8)) (fun _ c => by2 c && !c.e.uni && c.em ≠ 0 && c.sp.frame.depth < 8 && c.warp.settled) halves) = true ∧
    ([0, 20] : List Nat).all (fun d => meets (.switch { byV0 (E 2 0 0 0 8 0x40 0) with x := 1 }) (fun s c =>
      match (c.begin s).codeWords (fetcherOf c.w c.k c.warp c.sp) ((c.sp.pc &&& ~~~(31 : DWord)) + 32) 10 with
      | (_, none, tab) => tab.getD 9 0 ≠ 0 && (tab.getD 8 0 = 0) = (d = 0) && c.em ≠ c.sp.mask && c.warp.settled &&
          (lanesOf c.em).any (fun i => c.switchCase tab i = 0) && (lanesOf c.em).any fun i => c.switchCase tab i = 1
      | _ => false) halves (caseTable d)) = true := by decide +kernel

/-- The table in the instruction's own line; every lane's index is 0, or all take the default. -/
theorem witness_switch :
    let table (c : Issue) (s : State) : Bool := match (c.begin s).codeWords (fetcherOf c.w c.k c.warp c.sp) ((c.sp.pc &&& ~~~(31 : DWord)) + 32) 10 with
      | (_, none, tab) => (lanesOf c.em).all fun i => c.switchCase tab i = c.switchCase tab 0
      | _ => false
    meets (.switch { E 2 0 0 0 8 0 0 with x := 1 }) (fun s c => c.sp.mask ≠ 0 && c.em = c.sp.mask && table c s) = true := by decide +kernel

theorem witness_joins :
    let f0 : Frame := { depth := 0, rstack := [], loops := [] }
    let rec0 (ex ar : Word) : StackEntry := .join 0x1000 ex ar f0 .none none
    (meets (.join (E 0 0 0)) (fun _ c => (c.warp.joinRec c.sp.pc c.sp.frame.depth c.sp.mask).isNone) &&
    meets (.yields (E 0 0 0)) (fun _ c => c.warp.oldestPath.isNone) &&
    ([0xFFFFFFFF, 0xFFFF] : List Word).all fun m => meets (.join (E 0 0 0)) (fun _ c => c.warp.joinRec c.sp.pc c.sp.frame.depth c.sp.mask = some 0 &&
      c.warp.stack[0]? = some (rec0 0xFFFFFFFF 0) && c.warp.settled && c.warp.freeEntry.isSome && c.sp.mask = m)
      fun x => { (split fun q => { q with mask := m }) x with stack := [rec0 0xFFFFFFFF 0] }) = true ∧
    meets (.yields (E 0 0 0)) (fun _ c => c.warp.oldestPath = some 0 && c.warp.stack[0]? = some (.path 0x1010 true 0xF 0x1100 f0 .none) &&
      c.warp.settled && c.sp.mask ≠ 0) (fun x => { x with
        stack := [.path 0x1010 true 0xF 0x1100 f0 .none],
        splits := x.splits.flatMap fun p => [0, 1, 2, 3].map fun n => (n, { p.2 with mask := 0xFF00 <<< (4 * n) }) }) = true := by decide +kernel

theorem witness_exit :
    let free (s : State) (c : Issue) : Bool := c.em ≠ 0 && c.warp.stack.isEmpty && c.warp.pend.isEmpty && c.warp.abandoned.isEmpty &&
      (c.warp.splits.all fun p => p.2.frame.loops.isEmpty) && (Tab.get? s.gangs c.warp.gang).any fun g => !g.victim
    (meets (.exit (E 0 0 0)) (fun s c => free s c && c.warp.task.isNone && c.em = c.sp.mask) &&
    meets (.exit (byV0 (E 0 0 0))) (fun s c => free s c && c.em ≠ c.sp.mask) &&
    meets (.exit (E 0 0 0)) (fun s c => free s c && c.sp.level = 2 && c.sp.sup.saved.isSome && c.sp.sup.held ≠ 0)
      (split fun q => { q with level := 2, mask := 0xFF, sup := { q.sup with saved := some saved0, held := 0xF00 } }) &&
    meets (.discard (E 0 0 0)) (fun s c => free s c && c.warp.stage = .rasterFragment) (fun x => { x with stage := .rasterFragment })) = true := by
  decide +kernel

/-- A split in the supervisor handler for a watchdog kill, and for another cause in a gang of a launch in being. -/
theorem witness_supervisorKill : ([0x14, 0x06] : List Nat).all (fun cause =>
    let s := at_ (.nop (E 0 0 0)) (split fun q => { q with level := 2, sup := { q.sup with saved := some saved0, cause } }) fun s =>
      s.launchDo 0 (Slot.mk true 0 2 0 0 false 1 0 0 0 0 0 0 0 0 0 []) { seq := 0, bytes := 0, st := .running }
    ((s.warp? 1).bind fun x => x.split? 0).any (fun sp => sp.level = 2 && sp.sup.saved.isSome && sp.sup.cause = cause) &&
      (Tab.get? s.gangs 1).any (fun g => g.source = .launch 1)) = true := by decide +kernel

/-- An instruction at the END of its innermost level: with copies still in the body, with a pass left, and after the last pass. -/
theorem witness_endSteps : ([(0xFFFF, 1, 2), (0xFFFFFFFF, 1, 2), (0xFFFFFFFF, 1, 1)] : List (Word × Word × Word)).all (fun (m, started, count) =>
    meets (.nop (E 0 0 0)) (fun _ c => c.sp.frame.inner = some (0, level 0x1000 count started 0) && c.warp.settled && c.warp.freeEntry.isSome &&
        c.sp.mask = m && c.warp.stack[0]? = some (.join 0x1000 0xFFFFFFFF 0 { depth := 0, rstack := [], loops := [] } .none (some 0)))
      fun x => { (looping (level 0x1000 count started 0) ∘ split fun q => { q with mask := m }) x with
        stack := [.join 0x1000 0xFFFFFFFF 0 { depth := 0, rstack := [], loops := [] } .none (some 0)] }) = true := by decide +kernel

/-- Depths 8 and 9, with one spill level for a call and for a return. -/
theorem witness_spills :
    let ok (v : Nat) (s : State) (c : Issue) : Bool := (s.wg? c.warp.wg).any fun x =>
      (lanesOf c.sp.mask).all fun i => c.warp.spillSlot v i + 8 ≤ x.alloc && !x.owned (c.warp.spillSlot v i) 8
    let room (s : State) : State := s
    (meets (.call (E 1 0 0)) (fun s c => c.sp.mask ≠ 0 && c.taken = c.sp.mask && c.sp.frame.depth = 8 &&
      c.sp.frame.depth + 1 ≤ 8 + c.warp.spillLevels && ok 1 s c) (fun x => { deep 8 x with callspill := 1 <<< 23 }) room &&
    meets (.callx (E 0 1 0 0x10F 8)) (fun s c => c.sp.mask ≠ 0 && c.taken = c.sp.mask && c.e.uni && c.sp.frame.depth = 8 &&
      c.sp.frame.depth + 1 ≤ 8 + c.warp.spillLevels && ok 1 s c) (fun x => { deep 8 x with callspill := 1 <<< 23 }) room &&
    meets (.ret (E 0 0 0)) (fun s c => c.em ≠ 0 && c.em = c.sp.mask && c.sp.frame.depth = 9 && c.sp.frame.inner.isNone && !c.openJoin && ok 1 s c)
      (fun x => { deep 9 x with callspill := 1 <<< 23 }) room) = true := by decide +kernel

theorem witness_loops :
    let skips (c : Issue) (s : State) : Bool := match (c.begin s).fetchLine (fetcherOf c.w c.k c.warp c.sp) c.loopEnd with | (_, .line _) => true | _ => false
    (meets (.loop { E 1 0 0x40005 with x := 8 }) (fun s c => c.sp.mask ≠ 0 && (c.loopTrap s none).isNone && c.warp.settled) &&
    meets (.loopp { E 2 0 0x40009 with x := 8, k := 5 }) (fun s c => c.sp.mask ≠ 0 && (c.loopTrap s (some 16)).isNone && c.warp.settled) &&
    meets (.loop { E 1 0 0x40000 with x := 8 }) (fun s c => (c.loopTrap s none).isNone && skips c s) &&
    meets (.loopp { E 2 0 0x40009 with x := 8 }) (fun s c => (c.loopTrap s (some 16)).isNone && skips c s) &&
    meets (.breakLoop (byV0 (E 0 0 0))) (fun _ c => c.sp.frame.inner.isSome && c.sp.live &&& ~~~ c.em ≠ 0) (looping (level 0x1100 (exitmask := 0))) &&
    meets (.lcget (E 0 0 1 4)) (fun _ _ => true) (looping (level 0x1100)) && meets (.lcget (E 0 0 8 4)) &&
    meets (.lcget (E 0 0 0x41 4)) (fun _ c => (c.savedFrame.map (·.loops)) = some [])
      (split fun q => { q with level := 1, user := { q.user with saved := some saved0 } }) &&
    meets (.lcset (E 0 0 2 0x10F 8)) (fun _ c => c.sp.frame.loops[lcLevel c.e]?.any fun l => c.lanes.head?.isSome && c.sp.live ≠ 0 &&
      c.sp.mask &&& ~~~(loopsExit (c.sp.frame.setLoop (lcLevel c.e) (l.setField (lcField c.e) c.sp.mask 0)).loops) ≠ 0)
      (looping (level 0x1100 (exitmask := 0))) &&
    meets (.lcset (E 0 0 0x42 0x10F 8)) (fun _ c => c.sp.level = 1 && lcSav c.e && c.lanes.head?.isSome &&
      c.sp.user.saved.any fun x => x.loops[lcLevel c.e]?.isSome)
      (split fun q => { q with level := 1, user := { q.user with saved := some { saved0 with loops := [level 0x1100] } } }) &&
    meets (.ipref (E 1 1 0))) = true := by decide +kernel

/-- P = v1 bit 0, which no lane has. -/
def off (e : Enc) : Enc := { e with pred := 17 }

theorem witness_predicatedOff : ([.tbbind (off (E 0 1 0 0x10F 4)), .ld (off (E 1 0 0 4 8)), .st (off (E 1 0 0 0x10F 8 4)), .ldx (off (E 0 0 0 4 8)), .stx (off (E 0 0 0 0x10F 8 4)),
    .clean (off (E 0 1 2 0x10F 8 6)), .inval (off (E 0 1 2 0x10F 8 6)), .cpy (off (E 2 1 0 0x10F 8 6)), .cpyo (off (E 2 1 0 0x10F 8 6)),
    .cpyr (off (E 2 1 0 0x10F 8 6)), .waitc (off (E 0 1 0)), .qpop (off (E 0 0 0 4)),
    .atom (off (E 0 0 0 4 8 6)), .atomc (off (E 0 0 0 4 8 6)), .red (off (E 0 0 0 0x10F 8 6)), .fence (off (E 0 1 0x600)), .afence (off (E 0 1 0)),
    .ticket (off (E 0 1 0x80 4 8)), .advance (off (E 0 1 0x80 0x10F 8)), .tokpass (off (E 0 1 0 4 8)), .sample (off (E 0 0 0 4 8 6)), .sampleg (off (E 0 0 0 4 8 6)),
    .tfetch (off (E 0 0 0 4 8 6)), .istore (off (E 0 0 0 4 8 12)), .trace (off (E 2 0 0 4 8 6 12)), .exit (off (E 0 0 0)), .ret (off (E 0 0 0)), .ipref (off (E 1 1 0)),
    .trap (off (E 0 0 0)), .bkpt (off (E 0 0 0)), .time (off (E 0 1 0 4)), .bbmark (off (E 0 1 0)), .launch (off (E 0 1 0 4 8 6))] : List Instr).all
      (meets · fun _ c => c.em = 0 && !c.warp.walker) = true ∧
    ([.uret (off (E 0 1 0)), .sret (off (E 0 1 0)), .tlbfill (off (E 0 1 0 4 8)), .tlbinv (off (E 0 1 2)), .dharv (off (E 0 1 2)), .walkpop (off (E 0 1 0 4)),
    .handover (off (E 0 1 0 4 8 6)), .tokdef (off (E 0 1 0 4 8 6)), .tokdefDel (off (E 0 1 1 4 8)), .crdef (off (E 0 1 0 4 8)),
    .crdefDel (off (E 0 1 1 4 0x10F 6)), .crdefRd (off (E 0 1 2 4 0x10F 6)), .crdefRdclr (off (E 0 1 3 4 0x10F 6)), .resumew (off (E 0 1 0 4 8)),
    .haltw (off (E 0 1 0 4 8)), .rdwarp (off (E 0 0 0 4 0x148 6)), .wrwarp (off (E 0 0 0 4 0x148 6))] : List Instr).all
      (meets · (fun _ c => c.em = 0 && !c.warp.walker) (atLevel 2)) = true := by decide +kernel

/-! ### Memory -/

/-- The translation of the page at 0x2000 to the same physical address, writable by users of either die. -/
def page2 : TlbEntry := { ctx := 0, vpn := 2, size := 0, leaf := 0x2415, ptepa := 0, a := true, d := true, used := 0 }

/-- That page in core 0's data TLB. -/
def data (s : State) : State := s.modCore 0 fun x => { x with l1 := [page2] }

/-- g8:g9 and g16:g17 hold 0x2000, a base is bound there, and v registers from 8 up are zero. -/
def based (x : Warp) : Warp := { gs [(8, 0x2000), (9, 0), (16, 0x2000), (17, 0)] x with tbs := [(0, TBase.bind 0x2000 page2 0)] }

/-- Every lane's address pair in v8:v9 holds 0x2000. -/
def flat (x : Warp) : Warp := { based x with v := (List.range 32).foldl (fun v i => Store.set v (laneKey 8 i) 0x2000) x.v }

/-- Lanes are admitted there, and what follows holds of the state, the lanes and the tokens. -/
def admits (c : Issue) (r : State × List LaneReq) (k : Access) (p : State → List LaneAddr → Bool := fun _ l => !l.isEmpty) : Bool :=
  match r.1.admission c k r.2 with | (s, .ok l _) => p s l | _ => false

/-- A walker, with pages and lines it may reach: physical addresses of its context's pool. -/
def walks (x : Warp) : Warp := { x with walker := true }

theorem witness_loads :
    let k (c : Issue) (w : Bool) : Access := { size := memBytes c.e, write := w, store := w }
    (meets (.tbbind (E 0 1 0 0x10F 8)) (fun s c => c.em ≠ 0 && !c.warp.walker &&
      tlbFind (s.core c.warp.core).l1 c.warp.ctx (c.rd64 c.e.a 0).toNat = some page2 && canonical (c.rd64 c.e.a 0)) based data &&
    meets (.ld (E 1 0 0 4 8)) (fun s c => c.em ≠ 0 && !c.warp.walker && !c.full .G && admits c (c.baseAccess (c.begin s)) (k c false)) based data &&
    meets (.ldx (E 0 0 0 4 8)) (fun s c => c.em ≠ 0 && !c.warp.walker && !c.full .G && admits c (c.begin s, c.flatAccess) (k c false)) flat data &&
    meets (.pref (E 0 1 0 0x10F 8)) (fun _ _ => true) based data &&
    meets (.st (E 1 0 0 0x10F 8 4)) (fun s c => c.em ≠ 0 && !c.warp.walker && !c.full .S && c.warp.task.isNone &&
      admits c (c.baseAccess (c.begin s)) (k c true)) based data &&
    meets (.stx (E 0 0 0 0x10F 8 4)) (fun s c => c.em ≠ 0 && !c.warp.walker && !c.full .S && c.warp.task.isNone &&
      admits c (c.begin s, c.flatAccess) (k c true)) flat data) = true := by decide +kernel

theorem witness_maintains :
    (meets (.clean (E 0 1 2 0x10F 8 0x10F)) (fun _ c => c.em ≠ 0 && c.rd c.e.b 0 = 0) &&
    meets (.inval (E 0 1 1 0x10F 8 16)) (fun _ c => c.em ≠ 0 && c.rd c.e.b 0 ≠ 0) based &&
    meets (.clean (E 0 1 2 0x10F 8 16)) (fun _ c => c.em ≠ 0 && c.rd c.e.b 0 ≠ 0 && !c.full .S) based &&
    meets (.inval (E 0 1 0xB 0x10F 8 16)) (fun _ c => c.em ≠ 0 && c.rd c.e.b 0 ≠ 0 && !c.full .S) based) = true := by decide +kernel

/-- A walker's flat load and store pass the walker's own check. -/
theorem witness_walker :
    (meets (.ldx (E 0 0 0 4 8)) (fun s c => c.em ≠ 0 && c.warp.walker && !c.full .G &&
      (match (c.begin s).walkerCheck c.warp.core (decide (c.e.fb 0 5 = 3)) (c.lanes.map fun i => (i, c.rd64 c.e.a i)) (memBytes c.e) false with
        | .inl none => true | _ => false)) (walks ∘ flat) &&
    meets (.stx (E 0 0 0 0x10F 8 4)) (fun s c => c.em ≠ 0 && c.warp.walker && !c.full .S && c.warp.task.isNone &&
      (match (c.begin s).walkerCheck c.warp.core false (c.lanes.map fun i => (i, c.rd64 c.e.a i)) (memBytes c.e) true with
        | .inl none => true | _ => false)) (walks ∘ flat)) = true := by decide +kernel

theorem witness_scratch :
    let offs (c : Issue) : List (Nat × Nat) := c.lanes.map fun i => (i, ((c.rd c.e.a i).toNat + c.e.fb 5 14) % 2 ^ 32)
    let behind (s : State) (c : Issue) : Bool :=
      (c.begin s).scratchBehind c.warp (c.begin s).nextId c.sp.mask ((offs c).map fun p => (c.warp.wg, p.2, memBytes c.e))
    (meets (.lds (E 0 0 0 4 8)) (fun s c => !c.lanes.isEmpty && !behind s c && (s.wg? c.warp.wg).any fun x => (x.check (offs c) (memBytes c.e) false).isNone) &&
    meets (.sts (E 0 0 0 0x10F 8 4)) (fun s c => !c.lanes.isEmpty && !behind s c && (s.wg? c.warp.wg).any fun x => (x.check (offs c) (memBytes c.e) true).isNone) &&
    meets (.ldr (E 0 0 0 4 8)) (fun s c => !c.lanes.isEmpty && !c.full .Q && (((c.begin s).seeFlips c.warp.core).windowCheck c.warp (offs c) (memBytes c.e) false).isNone) &&
    meets (.str (E 0 0 0 0x10F 8 4)) (fun s c => !c.lanes.isEmpty && !c.full .Q && (((c.begin s).seeFlips c.warp.core).windowCheck c.warp (offs c) (memBytes c.e) true).isNone)) = true := by
  decide +kernel

/-- Copies of 16 bytes: g16:g17 the global address, g20 the scratchpad offset, g24 the size; WAITC at and above its threshold. -/
theorem witness_copies :
    let at0 (dir : Nat) (s : State) (c : Issue) : State := if dir = 2 then (c.begin s).seeFlips c.warp.core else c.begin s
    let takes (dir : Nat) (s : State) (c : Issue) : Bool := c.em ≠ 0 && !c.warp.walker && !c.full .C && c.warp.task.isNone &&
      ((at0 dir s c).copyTrap c.warp (c.copyOf dir) (c.rd c.e.b 0).toNat).isNone && (s.core c.warp.core).copies.length < 80 &&
      ((at0 dir s c).copySpans c.warp (c.copyOf dir)).all fun q => ((at0 dir s c).wg? q.1).all fun g =>
        !g.ownedFor (at0 dir s c).timer c.warp.core q.2.1 q.2.2
    let sized (x : Warp) : Warp := gs [(16, 0x2000), (17, 0), (20, 0x100), (22, 0x200)] x
    (meets (.cpy { E 2 1 0 0x10F 16 20 with k := 4 }) (takes 0) sized data && meets (.cpyo { E 2 1 0 0x10F 16 20 with k := 4 }) (takes 1) sized data &&
    meets (.cpyr { E 2 1 0 0x10F 20 22 with k := 4 }) (takes 2) sized &&
    meets (.waitc (E 0 1 0)) (fun _ c => c.em ≠ 0 && c.warp.counter (pathOf (c.e.fb 0 3)) ≤ c.threshold) &&
    meets (.waitc (E 0 1 0)) (fun _ c => c.em ≠ 0 && c.threshold < c.warp.counter (pathOf (c.e.fb 0 3)) && (c.warp.waitHeld (pathOf (c.e.fb 0 3)) c.threshold).isNone)
      (fun x => { x with pend := [{ id := 9, path := some .G, mask := 1, done := false, dsts := [], granules := [], toks := [], held := none, user := true, xfails := [], body := .words [] }] })) = true := by
  decide +kernel

/-! ### Queues, atomics, fences -/

/-- Queue 0 bound at offset 0x100 with capacity 8 at workgroup scope, n entries in it. -/
def queued (n : Nat) (s : State) : State := s.modWg 1 fun x => { x with
  sp := ((x.sp.writeNat 0x104 4 n).writeNat 0x108 4 8).writeNat 0x10C 4 1, queues := [(0, { bound := true, header := 0x100, tags := [], pushers := [], poppers := [] })] }

theorem witness_queues :
    let wg (p : State → Issue → Workgroup → Bool) (s : State) (c : Issue) : Bool := c.em ≠ 0 && (s.wg? c.warp.wg).any fun x => c.e.fb 0 4 < x.qcount && p s c x
    (([fun s => s, queued 0] : List (State → State)).all fun f => meets (.qinit (E 0 1 0x1070 0x10F 0x10F)) (wg fun s c x => (c.e.fb 12 3 = 1 || c.e.fb 12 3 = 2) && (c.rd c.e.a 0).toNat % 32 = 0 &&
      (c.rd c.e.a 0).toNat + 32 + 4 * (c.e.fb 4 8 + 1) ≤ x.alloc && !x.owned (c.rd c.e.a 0).toNat (32 + 4 * (c.e.fb 4 8 + 1)) &&
      (!(x.queue (c.e.fb 0 4)).bound || (x.header (c.e.fb 0 4)).count = 0 && (x.queue (c.e.fb 0 4)).pushers.isEmpty && !(c.begin s).pushReleasing (x.queue (c.e.fb 0 4)))) id f) = true ∧
    ([(0, 0), (8, 0), (8, 0x10)] : List (Nat × Nat)).all (fun (n, f) => meets (.qpush { E 0 0 f (if f = 0 then 0x10F else 4) 8 with pred := 18 }) (wg fun s c x => c.e.fb 5 1 = 0 && (x.queue 0).bound && (x.queueFault 0 (x.header 0).tail c.lanes.length c.em).isNone &&
      ((x.queue 0).pushers.isEmpty && c.lanes.length ≤ (x.header 0).cap - (x.header 0).count) = decide (n < 8) &&
      (c.pushRelease ((c.begin s).modQueue c.warp.wg 0 fun q => q.beginRelease c.w c.k) (x.header 0).scope).2.isNone)
      (fun x => { x with v := Store.set x.v (laneKey 2 0) 1 }) (queued n)) = true ∧
    ([0, 0x10] : List Nat).all (fun f => meets (.qpush (E 0 0 f (if f = 0 then 0x10F else 4) 8)) (wg fun _ _ x => !(x.queue 0).bound)) = true ∧
    meets (.qpush (E 0 0 0x20 0x10F 8 0x180)) (wg fun s c _ => c.e.fb 5 1 = 1 && (c.rd c.e.b c.first).toNat < 4 && (s.peerWg c.warp (c.rd c.e.b c.first).toNat).isSome &&
      !c.full .Q && (c.pushRelease (c.begin s) 2).2.isNone) = true ∧
    meets (.qpop { E 0 0 0 4 with pred := 18 }) (wg fun s c x => (x.queue 0).bound && (x.queueFault 0 (x.header 0).head c.lanes.length c.em).isNone && c.lanes.length ≤ (x.header 0).count &&
      (x.queue 0).poppers.isEmpty && ((c.begin s).acquireAt c.warp.core (x.peekQueue 0 c.lanes.length).2).2)
      (fun x => { x with v := Store.set x.v (laneKey 2 0) 1 }) (queued 2) = true ∧
    ([0, 0x10] : List Nat).all (fun f => meets (.qpop (E 0 0 f 4)) (wg fun _ _ x => !(x.queue 0).bound)) = true := by decide +kernel

/-- Eight places, three taken: a push of two fits, a take of three empties it. -/
theorem witness_queueOrder : (((queued 3 (at_ (.nop (E 0 0 0)))).wg? 1).any fun x => (x.header 0).sound && (x.header 0).count = 3 && (x.header 0).cap = 8) = true := by
  decide +kernel

theorem witness_atomics :
    let glob (s : State) (c : Issue) (red : Bool) (r : State × List LaneReq) : Bool := c.em ≠ 0 && c.e.fb 5 1 = 0 && !c.warp.walker && !c.full (if red then .S else .G) && c.e.fb 9 2 = 0 &&
      c.warp.task.isNone && admits c r { size := typeBytes (c.e.fb 0 4), write := true, noView := true, noPeer := !peerTakes (c.e.fb 11 4) (c.e.fb 0 4) red } fun s1 l =>
        !l.isEmpty && (s1.yieldLines c.warp.core (c.e.fb 6 3) ((l.map fun l => l.pa / 128).foldl setAdd [])).2 && s.timer = s1.timer
    let flatR (c : Issue) (s : State) : State × List LaneReq := (s, flatReqs (c.lanes.map fun i => (i, c.rd64 c.e.a i)))
    let baseR (c : Issue) (s : State) : State × List LaneReq :=
      ((s.useBase c.w (c.e.fb 15 3)).1, baseReqs (s.useBase c.w (c.e.fb 15 3)).2 (typeBytes (c.e.fb 0 4)) (c.lanes.map fun i => (i, (c.rd c.e.a i).toInt)))
    let sp (s : State) (c : Issue) : Bool := c.em ≠ 0 && c.e.fb 5 1 = 1 && !c.full .G && !c.full .S && c.e.fb 9 2 = 0 &&
      (s.wg? c.warp.wg).any fun x => (x.check (c.lanes.map fun i => (i, (c.rd c.e.a i).toNat)) (typeBytes (c.e.fb 0 4)) true).isNone
    (([0x40000, 0x400C0] : List Nat).all fun f => meets (.atom (E 0 0 f 4 8 6)) (fun s c => glob s c false (flatR c (c.begin s))) flat data &&
      meets (.atomc (E 0 0 f 4 8 6)) (fun s c => glob s c false (flatR c (c.begin s))) flat data &&
      meets (.red (E 0 0 f 0x10F 8 6)) (fun s c => glob s c true (flatR c (c.begin s))) flat data) = true ∧
    meets (.atom (E 0 0 0x80 4 8 6)) (fun s c => glob s c false (baseR c (c.begin s))) based data = true ∧
    (meets (.atom (E 0 0 0x20 4 8 6)) sp && meets (.atomc (E 0 0 0x20 4 8 6)) sp && meets (.red (E 0 0 0x20 0x10F 8 6)) sp) = true ∧
    meets (.atom (E 0 0 0x40000 4 8 6)) (fun s c => c.em ≠ 0 && c.warp.walker && !c.full .G && c.warp.task.isNone &&
      (match (c.begin s).walkerCheck c.warp.core false (c.lanes.map fun i => (i, c.rd64 c.e.a i)) 4 true with | .inl none => true | _ => false)) (walks ∘ flat) = true := by
  decide +kernel

theorem witness_fences :
    (meets (.fence (E 0 1 0x600)) (fun s c => c.em ≠ 0 && !c.warp.undrained && !c.warp.pendingOn [.G, .Q] && ((c.begin s).acquireAt c.warp.core 0).2) &&
    meets (.fence (E 0 1 0x6C0)) (fun s c => c.em ≠ 0 && !c.warp.undrained && !c.warp.pendingOn [.G, .Q, .X] &&
      ((c.begin s).cleanColumn c.warp.core (fun _ => true)).2 && ((s.cleanColumn c.warp.core (fun _ => true)).1.acquireAt c.warp.core 3).2) &&
    meets (.afence (E 0 1 0)) (fun s c => c.em ≠ 0 && !c.warp.undrained && ((c.begin s).cleanColumn c.warp.core (fun _ => true)).2)) = true ∧
    (let k (w : Bool) : Access := { size := 16, write := w, noView := true, noPeer := true, dispenser := true }
    let one (c : Issue) : List LaneReq := flatReqs [(0, c.rd64 c.e.a 0)]
    let basics (c : Issue) : Bool := c.em ≠ 0 && !c.warp.walker && c.warp.task.isNone && !c.full .G && !c.full .S && !c.warp.undrained
    (meets (.ticket (E 0 1 0x80 4 8)) (fun s c => basics c && admits c (c.begin s, one c) (k true) fun s1 l => l.length = 1 && (s1.yieldLines c.warp.core 2 [0x40]).2) based data &&
    meets (.advance (E 0 1 0xC0 0x10F 8)) (fun s c => basics c && admits c (c.begin s, one c) (k true) fun s1 l => l.length = 1 && (s1.cleanColumn c.warp.core (fun _ => true)).2) based data &&
    let bad (n : Nat) (s : State) : State := { data s with memBad := if n = 0 then [] else [(0x40, BitVec.allOnes 128)] }
    (([(0, 0), (1, 0), (0, 1)] : List (Nat × Nat)).all fun (n, m) => meets (.served (E 0 1 0x80 0x10F 8 20)) (fun s c => basics c &&
      admits c (c.clearLatches (c.begin s), one c) (k false) fun s1 l => l.length = 1 && !c.warp.crosses c.sp.mask [(locOf (0x2000 + 8), 8)] &&
      match s1.ownRead c.warp.core none 2 (0x2000 + 8) 8 with
      | (s2, some (v, k)) => k = m && servedBy (BitVec.ofNat 64 v) (c.rd64 c.e.b 0) = decide (n = 0) && (s2.acquireAt c.warp.core 2).2
      | _ => false) (gs [(20, n)] ∘ based) (bad m)) &&
    (([(0, 0), (0x800, 0), (0, 1)] : List (Nat × Nat)).all fun (f, m) => meets (.waitmon (E 0 1 (0x40 + f) 4 8 0x180)) (fun s c => basics c &&
      admits c (c.clearLatches (c.begin s), one c) { size := 4, write := false, noView := true, noPeer := true } fun s1 l =>
      l.length = 1 && !externalMonitor 0x2000 1 && !s1.lineHeld c.w c.warp.core [0x40] && !c.warp.crosses c.sp.mask [(locOf 0x2000, 4)] &&
      match s1.ownRead c.warp.core c.warp.task 1 0x2000 4 with
      | (s2, some (v, k)) => k = m && monitorHolds (c.e.fb 11 3) 0 v 0 = decide (f = 0) && (s2.acquireAt c.warp.core 1).2
      | _ => false) based (bad m)))) = true := by decide +kernel

/-- A token region at 0x2000 in stack 0, held by a core. -/
def region (holder : Option Nat) (waiting : Tab Nat := []) : Region := { ctx := 0, base := 0x2000, pbase := 0x2000, k := 10, holder, waiting, lastWrite := 0 }

theorem witness_tokpass : ([[], [(0, region none)], [(0, region (some 0))], [(0, region (some 0) [(1, 0)])]] : List (Tab Region)).all (fun r =>
    meets (.tokpass (E 0 1 0 4 8)) (fun s c => c.em ≠ 0 && !c.warp.walker && c.warp.task.isNone && !c.warp.pendingOn [.S] &&
      admits c (c.begin s, flatReqs [(0, c.rd64 c.e.a 0)]) { size := 1, write := false, rows3 := true } fun s1 _ =>
        s1.regions = r && r.all fun p => (s1.passToken p.1 (s1.nextHolder p.2)).2) based fun s => { data s with regions := r }) = true := by decide +kernel

/-! ### Engines and graphics -/

/-- Two dense 32-by-32 maps of f16 elements at offsets 0 and 0x1000, one of f32, one sparse of 128 columns. -/
def map0 : MapDesc := { base := 0, pitch := 256, soff := 0, rows := 32, cols := 32, ty := 5, sparse := false, swz := 0, scl := false }
def maps (x : Warp) : Warp := { x with maps := [(0, map0), (1, { map0 with base := 0x4000 }), (2, { map0 with ty := 4 }), (3, { map0 with sparse := true })] }

/-- The engine takes an operation on the runs of some maps. -/
def takes (s : State) (c : Issue) (ms : List Nat) (claims : Bool := false) : Bool :=
  (s.wg? c.warp.wg).any fun x => (ms.all fun n => (Tab.get? c.warp.maps n).any fun m =>
    (m.runs 0).all fun r => r.1 + r.2 ≤ x.alloc && !x.owned r.1 r.2) && (s.engine c.warp.engineKey).queue.length < 32 &&
    (!claims || (s.engine c.warp.engineKey).bypass.all fun b => b.holder = none || b.holder = some c.w)

/-- The engine's bypass slot held by warp 1, with a 32-by-32 datum of f16. -/
def slotHeld (s : State) : State := s.modEngine 0 fun x => { x with bypass := some { holder := some 1, ty := 5, rows := 32, cols := 32, data := [] } }

theorem witness_multiply :
    let full (c : Issue) : Bool := !c.notFull && c.em ≠ 0 && c.e.fb 0 4 < c.warp.accs && shapeOk c.e (c.warp.kind (c.e.fb 0 4)) && regionSize (c.e.fb 12 2) = (32, 32)
    let fits (c : Issue) (ty : Nat) (sparse : Bool) : Bool := (Tab.get? c.warp.maps (c.e.fb 8 4)).any fun b =>
      b.rows = 32 && b.cols = 32 && !b.sparse && !b.scl && typesOk (c.warp.kind 0) ty b.ty sparse
    (meets (.mma (E 0 1 0x3100)) (fun s c => full c && fits c 5 false && takes s c [0, 1]) maps &&
    meets (.mmas (E 0 1 0x3130)) (fun s c => full c && fits c 5 true && (Tab.get? c.warp.maps 3).any (·.sparse) && takes s c [1, 3]) maps &&
    meets (.mma (E 0 1 0x13100)) (fun s c => full c && fits c 5 false && takes s c [1] && (s.engine c.warp.engineKey).bypass.any fun x => x.holder = some c.w) maps
      slotHeld) = true := by decide +kernel

theorem witness_tiles :
    let full (c : Issue) : Bool := !c.notFull && c.em ≠ 0
    let acc (c : Issue) : Bool := full c && c.e.fb 0 4 < c.warp.accs
    let region (c : Issue) (n kind ty : Nat) : Bool := shapeOk c.e kind && (Tab.get? c.warp.maps n).any fun d =>
      d.rows = (regionSize (c.e.fb 12 2)).1 && d.cols = (regionSize (c.e.fb 12 2)).2 && !d.sparse && !d.scl && d.ty = ty
    let op (closed : List (Nat × List Nat)) (x : Warp) : Warp := { x with openOps := [5], closed }
    let busy (s : State) : State := s.modEngine 0 fun x => { x with queue := [{
      warp := 1, id := 5, kind := 2, acc := 0, shape := 0, mo := 0, no := 0,
      mapA := none, mapB := none, bypass := false, tileKind := 0, ty := 0, scale := none, clamp := none, relu := false, granules := [], releases := false,
      started := false, readDone := false, failed := false }] }
    (meets (.map (E 0 1 0 0x10F 8)) (fun _ c => full c && (let g (k : Nat) : Word := c.warp.gReg (c.e.a.toNat + k)
        !mapBad (g 0) (g 2) (g 3) (mapOf (g 0) (g 1) (g 2) (g 3)))) (gs [(8, 0), (9, 256), (10, 0x1F001F), (11, 5)]) &&
    meets (.mzero (E 0 1 0)) (fun s c => acc c && takes s c []) &&
    meets (.mlda (E 0 1 0x3020)) (fun s c => acc c && region c 2 (c.e.fb 16 2) 4 && takes s c [2]) maps &&
    meets (.mdrain (E 0 1 0x3020)) (fun s c => acc c && region c 2 (c.warp.kind 0) 4 && (drainTypes (c.warp.kind 0)).contains 4 && takes s c [2]) maps &&
    meets (.mbyp (E 0 1 0x3050)) (fun s c => acc c && shapeOk c.e (c.warp.kind 0) && (bypTypes (c.warp.kind 0)).contains 5 && takes s c [] true) &&
    meets (.mfence (E 0 1 0 4)) (fun _ c => full c && c.warp.closed.length < 8) &&
    meets (.mfence (E 0 1 0 4)) (fun _ c => full c && c.warp.closed.length = 7) (op (List.replicate 7 (0, [5]))) busy &&
    meets (.mwait (E 0 1 1)) (fun s c => full c && (c.warp.abandonedIn c.waitOps).isNone && !c.waitOps.any (s.opOpen c.warp)) &&
    meets (.mwait (E 0 1 1)) (fun s c => full c && (c.warp.abandonedIn c.waitOps).isNone && c.waitOps.any (s.opOpen c.warp)) (op [(0, [5])]) busy) = true := by
  decide +kernel

theorem witness_notFull : meets (.mzero (E 0 1 0)) (fun _ c => c.sp.mask ≠ BitVec.allOnes 32) (split fun q => { q with mask := 1 }) = true := by decide +kernel

/-- A RASTER pass with one attachment of four bytes and one sample, and one of RECORD, whose ring is resource 1. -/
def rasterPass : Pass :=
  { kind := 1, part := 0, handover := false, spill := false, maxdepth := 0, kernel := none, gx := 1, gy := 1, tgangs := 1, ins := [], outs := [0], hostack := 0,
    rstate := 0, args := 0, ring := 1, die := 0, rbytes := [(2, 1), (128, 3)], vkernels := [], fkernels := [], taken := [], retired := [], finished := false,
    crossed := false }

def tileTask : Task :=
  { graph := 1, pass := 0, tile := 0, gangs := [1], left := 1, pinned := true, pinning := false, st := 1, core := some 0, recs := [], sub := 0, tm := [], frags := [], nextSeq := 0,
    phase := 1, rastered := true, drawn := 0, since := 0, aborts := 0 }

def image : Resource := { format := 3, stack := false, overflow := false, ts := 16, width := 16, height := 16, ringcap := 0, backing := 0, rva := 0, producer := none }

/-- A loaded graph of given passes and resources, with task 1 running on core 0. -/
def graphed (ps : List Pass) (cap : Nat := 64) (s : State) : State := { s with
  graphs := [(1, {
    slot := 0, seq := 0, ctx := 0, cls := 0, args := 0, header := 0, loaded := true, passes := ps, ress := [image, { image with format := 0, ringcap := cap }],
    edges := [], score := [], slots := [], rings := [], spilled := [], failed := none, waits := [], blocking := [], promoted := [] })],
  tasks := [(1, tileTask)] }

/-- A warp of the task in a stage; lane 0 shades a fragment. -/
def staged (st : Stage) (x : Warp) : Warp := { x with
  stage := st, task := some 1,
  frags := [(0, { x := 1, y := 2, smp := 0, cover := 1, prim := 0, front := true, seq := 0, depth := [], holds := false })] }

theorem witness_tile :
    let reaches (s : State) (c : Issue) : Bool := c.warp.stage.isTile && c.em ≠ 0 && (c.e.fb 5 1 = 0 || c.warp.stage = .rasterFragment) &&
      (c.taskOf (c.begin s)).any fun q => c.e.fb 0 4 < q.2.2.2.natt &&
        c.coords.all (fun p => !coordBad (passTs q.2.2.1 q.2.2.2) q.2.2.2.samples p.2) && attNames (q.2.2.2.esize 0) = 1 && q.2.1.pinned
    (meets (.tldt (E 0 0 0 4 8)) (fun s c => reaches s c && !c.full .X) (staged .rasterTile) (graphed [rasterPass]) &&
    meets (.tldt (E 0 0 0x28 4)) (fun s c => c.warp.stage = .rasterFragment && c.em ≠ 0 && c.e.fb 0 4 = 8 && c.e.fb 5 1 = 1 && !c.full .X &&
      (c.taskOf (c.begin s)).any fun q => c.coords.all fun p => !coordBad (passTs q.2.2.1 q.2.2.2) q.2.2.2.samples p.2) (staged .rasterFragment) (graphed [rasterPass]) &&
    meets (.tldt (E 0 0 0x20 4)) (fun s c => reaches s c && !c.full .X) (staged .rasterFragment) (graphed [rasterPass]) &&
    meets (.tstt (E 0 0 0 0x10F 8 4)) (fun s c => reaches s c && !c.full .S && ((c.begin s).pinTask 1).2) (staged .rasterTile) (graphed [rasterPass])) = true := by
  decide +kernel

theorem witness_sections :
    let free (c : Issue) : Bool := c.warp.stage = .rasterFragment && c.em ≠ 0 && c.warp.frags.all fun f => !f.2.holds
    let frag (n : Nat) : Frag := { seq := n, x := 1, y := 2, smp := none, cover := 1, prim := 0, st := 1, discarded := false, holds := decide (n = 7), released := false }
    let full (s : State) : State := { graphed [rasterPass] 64 s with tasks := [(1, { tileTask with frags := [frag 7, frag 8] })] }
    (meets (.ordbegin (E 0 0 0)) (fun s c => free c && (c.begin s).sectionsFree c.warp c.em) (staged .rasterFragment) (graphed [rasterPass]) &&
    meets (.ordbegin (E 0 0 0)) (fun s c => free c && !(c.begin s).sectionsFree c.warp c.em)
      (fun x => { staged .rasterFragment x with frags := (staged .rasterFragment x).frags.map fun p => (p.1, { p.2 with seq := 8 }) }) full &&
    meets (.ordend (E 0 0 0)) (fun _ c => c.warp.stage = .rasterFragment && c.em ≠ 0 && !c.warp.undrained) (staged .rasterFragment) (graphed [rasterPass]) &&
    ([0, 3] : List Nat).all fun f => meets (.vout (E 0 0 f 0x10F (if f = 3 then 0x10F else 8))) (fun _ c => c.warp.stage = .rasterVertex && !c.warp.voutDone && c.em ≠ 0 && !c.full .S)
      (staged .rasterVertex) (graphed [rasterPass])) = true := by decide +kernel

theorem witness_emit : ([64, 1] : List Nat).all (fun cap => meets (.emit (E 0 0 0x20 0x10F 8)) (fun s c => c.warp.stage ≠ .compute && c.em ≠ 0 && c.warp.recDepth ≠ 3 && !c.full .S &&
      ((c.begin s).pinTask 1).2 && ((c.begin s).pinTask 1).1.ringTakes 1 1 c.lanes.length = decide (cap = 64) &&
      (c.taskOf (c.begin s)).any (fun q => c.emitRing q.2.2.1 q.2.2.2 = some 1 && q.2.2.2.maxdepth = 3) &&
      (s.wg? c.warp.wg).any fun x => c.lanes.all fun i => (c.rd c.e.a i).toNat + 16 ≤ x.alloc && (c.rd c.e.a i).toNat % 16 = 0 && !x.owned (c.rd c.e.a i).toNat 16)
    (staged .graph) (graphed [{ rasterPass with kind := 4, maxdepth := 3 }] cap)) = true := by decide +kernel

theorem witness_texture :
    ([.sample (E 0 0 0 4 8 6), .sampleg (E 0 0 0 4 8 6), .tfetch (E 0 0 0 4 8 6), .istore (E 0 0 0 4 8 12)] : List Instr).all
      (meets · fun _ c => !c.warp.walker && c.em ≠ 0 && !c.full .X && !c.full .S) = true ∧
    meets (.trace (E 2 0 1 12 16 8 6)) (fun s c => !c.warp.walker && c.em ≠ 0 && c.warp.task.isNone && !c.full .T && (c.lanes.all fun i => (c.rd64 c.e.d i).toNat % 32 = 0) &&
      admits c (c.begin s, flatReqs (c.lanes.map fun i => (i, c.rd64 c.e.d i))) { size := 32, write := true, store := true })
      (fun x => { x with v := (List.range 32).foldl (fun v i => Store.set v (laneKey 12 i) 0x2000) x.v }) data = true ∧
    meets (.trace (E 2 0 0 12 16 8 6)) (fun s c => !c.warp.walker && c.em ≠ 0 && !c.full .T && (s.wg? c.warp.wg).any fun x => c.lanes.all fun i =>
      (c.rd c.e.d i).toNat % 32 = 0 && (c.rd c.e.d i).toNat + 32 ≤ x.alloc && !x.owned (c.rd c.e.d i).toNat 32) = true := by decide +kernel

/-! ### System instructions -/

theorem witness_system :
    (meets (.rdsys (E 0 0 9 4)) (fun _ c => c.e.fb 12 1 = 0) &&
    meets (.rdsys (E 0 0 0x1000 4)) (fun _ c => c.e.fb 12 1 = 1 && c.sp.level = 1) (atLevel 1) &&
    (([0x009, 0x00A, 0x00B, 0x00C, 0x00D, 0x006, 0x007, 0x008, 0x020, 0x021, 0x022, 0x023, 0x024, 0x025, 0x030, 0x031, 0x032, 0x033, 0x034, 0x035] : List Nat).all fun n =>
      meets (.wrsys (E 0 0 n 0x10F 8)) fun _ c => c.em ≠ 0 && c.e.fb 0 12 = n) &&
    (([0x10D, 0x120, 0x106, 0x107, 0x10A] : List Nat).all fun n => meets (.wrsys (E 0 0 n 0x10F 8)) (fun _ c => c.em ≠ 0 && c.e.fb 0 12 = n) (atLevel 2)) &&
    meets (.wrsys (E 0 0 0x1000 0x10F 8)) (fun _ c => c.em ≠ 0 && c.e.fb 12 1 = 1 && c.sp.level = 1) (atLevel 1) &&
    meets (.time (E 0 1 0 4)) (fun _ c => c.em ≠ 0) && meets (.bbmark (E 0 1 7)) (fun _ c => c.em ≠ 0)) = true := by decide +kernel

/-- g8:g9 an address, g10:g11 a leaf, g12:g13 the leaf's own address; a claimed miss for index 0. -/
def fills (leaf : Nat) (x : Warp) : Warp := gs [(8, 0x5000), (9, 0), (10, leaf), (11, 0), (12, 0x3000), (13, 0)] (walks (atLevel 2 x))

theorem witness_translation :
    let ok (c : Issue) : Bool := c.em ≠ 0
    let scope (s : State) (c : Issue) : State := ((c.begin s).removeTlb fun t => t.inScope c.warp.ctx c.invScope).staleMisses fun m => m.ctx = c.warp.ctx && pageInScope m.page c.invScope
    let missed (s : State) : State := { s with dies := [(0, { Die.init with miss := [(3, {
      ctx := 0, page := 5, fetch := false, write := true, hint := false, user := true,
      claim := none, stale := false, order := 0, reqs := [{ core := 0, warp := 1, entry := 0 }] })] }), (1, Die.init)] }
    (meets (.tlbfill (E 0 1 0 4 8)) (fun _ c => ok c && leafOk 0x2415 0 && pteBit 0x2415 0 && c.warp.gPair 10 = 0x2415) (fills 0x2415) &&
    meets (.tlbfill (E 0 1 0x30C 4 8)) (fun s c => ok c && (match c.fillGo (c.begin s) with | (_, .status n) => n = 3 | _ => false)) (fills 0) &&
    meets (.tlbfill (E 0 1 0 4 8)) (fun s c => ok c && (match c.fillGo (c.begin s) with | (_, .status n) => n = 1 | _ => false)) (fills 0x2414) &&
    (([0, 1, 2] : List Nat).all fun m => meets (.tlbinv (E 0 1 m 0x10F (if m < 2 then 8 else 0x10F) (if m = 1 then 12 else 0x10F)))
      (fun s c => ok c && c.sp.wait = .ready && (scope s c).accessesDone c.warp.ctx (scope s c).nextId) (fills 0) data) &&
    meets (.dharv (E 0 1 2)) (fun _ c => ok c) (fills 0) data &&
    meets (.walkpop (E 0 1 0 4)) (fun s c => ok c && c.warp.walker && ((s.die 0).oldestMiss fun m => m.ctx = c.warp.ctx).isSome) (fills 0) missed) = true := by
  decide +kernel

theorem witness_ownership :
    let a (c : Issue) : Nat := (c.rd c.e.a 0).toNat
    let good (s : State) (c : Issue) : Bool := c.em ≠ 0 && a c < 64 && a c / 8 % 2 = 0 && a c / 16 ≠ 3 && !(s.home (a c % 8)).failed && !s.inHandover (a c % 8)
    let h (n : Nat) (b : Nat) (p : State → Issue → Bool) (part : State → State := id) : Bool :=
      meets (.handover (E 0 1 0 4 8 b)) (fun s c => c.em ≠ 0 && p s c) (gs [(8, n), (16, 0x2000)] ∘ atLevel 2) part
    (h 0x80 0x10F (fun _ c => a c / 64 ≠ 0) && h 0x08 0x10F (fun _ c => a c / 8 % 2 = 1) && h 0x30 0x10F (fun _ c => a c / 16 = 3) &&
    h 0x00 0x10F (fun s c => good s c && (s.home 0).owner.owner = 0) &&
    h 0x00 16 (fun s c => good s c && admits c (c.begin s, flatReqs [(0, c.rd64 c.e.b 0)]) { size := 8, write := true, store := true, noView := true }) data &&
    h 0x04 0x10F (fun s c => good s c && (s.home 4).owner.owner = 1) &&
    h 0x10 0x10F (fun s c => good s c && (s.home 0).owner.owner = dieOf c.warp.core) &&
    h 0x20 0x10F (fun s c => good s c && !(c.begin s).stackMapped 0) &&
    h 0x20 0x10F (fun s c => good s c && (c.begin s).stackMapped 0) fun s => { data s with dies := [(0, { Die.init with l2 := [page2] }), (1, Die.init)] }) = true ∧
    (let t (k : Nat) : Bool := meets (.tokdef (E 0 1 0 4 8 (0x180 + k))) (fun _ c => c.em ≠ 0 && (c.rd c.e.b 0).toNat = k) (based ∘ atLevel 2) data
    (t 11 && t 12 && t 30 && t 31 &&
    meets (.tokdef (E 0 1 0 4 8 0x18C)) (fun s c => c.em ≠ 0 && (c.tokdefGo (c.begin s) (c.rd64 c.e.a 0) 12).2.isNone) (based ∘ atLevel 2) && meets (.tokdefDel (E 0 1 1 4 8)) (fun s c => c.em ≠ 0 && s.regions.isEmpty) (based ∘ atLevel 2) &&
    meets (.tokdefDel (E 0 1 1 4 8)) (fun s c => c.em ≠ 0 && (s.regions.find? fun r => r.2.base = c.rd64 c.e.a 0).isSome && !s.inHandover 0 &&
      ((c.begin s).passToken 0 none).2) (based ∘ atLevel 2) fun s => { s with regions := [(0, region none)] })) = true := by decide +kernel

/-- g8 to g15 define region 5: 4 KiB at 0x5000, raw at 0x8000; g20 a region number. -/
def defines (id : Nat) (x : Warp) : Warp := gs [(8, 0x5000), (9, 0), (10, 0x1000), (11, 0), (12, 0x8000), (13, 0), (14, 5), (15, 0), (20, id)] (atLevel 2 x)

theorem witness_electrum :
    let r : ElRegion := { vbase := 0x5000, size := 0x1000, rpa := 0x8000, bud := 0, twoD := false, pitch := 0, deleting := false, encodes := 7, drift := 0, errmax := 0 }
    let here (s : State) : State := { s with electrum := [(5, r)] }
    let words (c : Issue) : List Word := (List.range 8).map fun k => c.warp.gReg (c.e.a.toNat + k)
    let forms : List Instr := [.crdefDel (E 0 1 1 4 0x10F 20), .crdefRd (E 0 1 2 4 0x10F 20), .crdefRdclr (E 0 1 3 4 0x10F 20)]
    (meets (.crdef (E 0 1 0 4 8)) (fun s c => c.em ≠ 0 && s.crStatus (words c) = 0) (defines 5) &&
    meets (.crdef (E 0 1 0 4 8)) (fun s c => c.em ≠ 0 && s.crStatus (words c) ≠ 0) (defines 5) here &&
    (forms.all fun i => meets i (fun _ c => c.em ≠ 0 && 15 < (c.rd c.e.b 0).toNat) (defines 16) &&
      meets i (fun s c => c.em ≠ 0 && (c.rd c.e.b 0).toNat = 15 && (Tab.get? s.electrum 15).isNone) (defines 15) &&
      meets i (fun s c => c.em ≠ 0 && (Tab.get? s.electrum (c.rd c.e.b 0).toNat).any fun r => !r.deleting) (defines 5) here) &&
    meets (.crdefDel (E 0 1 1 4 0x10F 20)) (fun s c => c.em ≠ 0 && (Tab.get? s.electrum 5).isSome && !(s.tlbEntries fun p => pteBit p.leaf 56 && (p.leaf.toNat >>> 52) % 16 = 5).isEmpty)
      (defines 5) fun s => { here s with dies := [(0, { Die.init with l2 := [{ page2 with leaf := 0x0150000000002415 }] }), (1, Die.init)] }) = true := by decide +kernel

/-- A second warp, 2, of the workgroup, at index 1. -/
def second (halted : Bool) (s : State) : State := { s with warps := s.warps ++ s.warps.map fun p => (2, { p.2 with index := 1, halted }) }

theorem witness_warpControl :
    let named (s : State) (c : Issue) : Option (Nat × Warp) := (c.begin s).warpOf c.warp.wg (c.rd c.e.a 0).toNat
    let at1 (n : Nat) (x : Warp) : Warp := gs [(8, n)] (atLevel 2 x)
    (([.haltw (E 0 1 0 4 8), .resumew (E 0 1 0 4 8)] : List Instr).all fun i => meets i (fun s c => c.em ≠ 0 && (named s c).isNone) (at1 9) &&
      meets i (fun s c => c.em ≠ 0 && (named s c).any fun p => p.1 = c.w) (at1 0) &&
      ([true, false] : List Bool).all fun h => meets i (fun s c => c.em ≠ 0 && (named s c).any fun p => p.1 = 2 && p.2.halted = h) (at1 1) (second h)) = true ∧
    (([true, false] : List Bool).all fun b => meets (.resumew (E 0 1 0 4 8)) (fun s c => c.warp.undrained == b && (named s c).any fun p => p.1 = 2 && p.2.halted)
      (fun x => at1 1 { x with pend := if b then [{ id := 5, path := some .G, mask := 1, done := false, dsts := [], granules := [], toks := [], held := none,
                                                    user := true, xfails := [], body := .vout }] else [] }) (second true)) = true ∧
    meets (.haltw (E 0 1 0 4 8)) (fun s c => ((c.begin s).stopWarp 2).drained 2 && (named s c).isSome) (at1 1) (second false) = true ∧
    (meets (.rdwarp (E 0 0 0 4 0x148 6)) (fun s c => c.em ≠ 0 && (c.haltedWarp (c.begin s)).any fun p => p.1 = 2) (at1 1) (second true) &&
    meets (.wrwarp (E 0 0 0 4 0x148 6)) (fun s c => c.em ≠ 0 && (c.haltedWarp (c.begin s)).any fun p => p.1 = 2) (at1 1) (second true)) = true := by decide +kernel

/-- LAUNCH on slot 0 from a record at 0x2000: the slot absent, disabled, enabled with a record of kind 0 or of kind 2; slot number 32. -/
theorem witness_launch :
    let slot (en : Bool) : Slot := {
      enabled := en, qbase := 0x2000, qcap := 16, ctx := 0, cls := 0, devappend := true, weight := 1, tailaddr := 0x2100, doneaddr := 0x2200, done := 0,
      fetched := 0, tail := 0, errseq := 0, errtag := 0, errcode := 0, errcount := 0, recs := [] }
    let base (s : State) (c : Issue) (p : State → Nat → Bool := fun _ _ => true) : Bool := c.em ≠ 0 && c.warp.task.isNone && !c.warp.undrained &&
      admits c (c.begin s, flatReqs [(0, c.rd64 c.e.a 0)]) { size := 64, write := false } fun s1 l => (s1.cleanColumn c.warp.core (fun _ => true)).2 &&
        p (s1.cleanColumn c.warp.core (fun _ => true)).1 ((l.head?.map (·.pa)).getD 0)
    let front (k : Nat) (s : State) (pa : Nat) : Bool := match s.frontReadAt pa 64 with
      | (s4, .ok v) => v % 256 = k && (k = 0 || ((s4.appendRecord 0 (slot true) v).2).isSome)
      | _ => false
    let l (b : Nat) : Instr := .launch (E 0 1 0 4 8 b)
    (meets (l 0x180) (fun s c => base s c && (Tab.get? s.slots 0).isNone) based data &&
    meets (l 0x1A0) (fun s c => base s c && (c.rd c.e.b 0).toNat = 32) based data &&
    meets (l 0x180) (fun s c => base s c && (Tab.get? s.slots 0).any fun x => !x.enabled) based (fun s => { data s with slots := [(0, slot false)] }) &&
    ([0, 2] : List Nat).all fun k => meets (l 0x180) (fun s c => base s c (front k)) based fun s => { data s with slots := [(0, slot true)], mem := [(0x2000, 2), (0x2001, 0)].filter fun _ => k = 2 }) = true := by
  decide +kernel

/-! ### Values in memory -/

theorem witness_bytes :
    let s : State := State.reset.modCore 0 fun x => { x with lines := [(0x40, { data := 0, dirty := 0, poison := 0, h0 := 0, h1 := 0 })] }
    ((s.colLine 0 0x40).isSome && (List.range 12).all (fun cl => (s.clusterLine cl 0x40).isNone) &&
      (List.range 2).all fun d => s.winNat (0xE00 + 16 * d + 12) 1 % 2 = 0) = true := by decide +kernel

/-! ### Results, waits and units -/

/-- An outstanding operation, number 9. -/
def pending (body : OpBody) (path : Option Path := some .G) : PendOp :=
  { id := 9, path, mask := 0xFFFFFFFF, done := false, dsts := [], granules := [], toks := [], held := none, user := true, xfails := [], body }

/-- The warp has the operation outstanding, and what follows holds there. -/
def has (p : PendOp) (q : State → Warp → Bool) (warp : Warp → Warp := id) (part : State → State := id) : Bool :=
  let s := at_ (.nop (E 0 0 0)) (fun x => { warp x with pend := [p] }) part
  (s.warp? 1).any fun x => x.op? 9 = some p && q s x

/-- Lane 0 at a physical address. -/
def lane0 (pa : Nat := 0x2000) : List LaneAddr := [{ lane := 0, va := 0x2000, pa }]

/-- The first host GiB is peer memory. -/
def peered (s : State) : State := { s with win := (s.win.writeNat 0xF88 6 0x40000000).writeNat 0xF8E 1 1 }

/-- Core 0's column holds the line at 0x2000, dirty. -/
def cached (s : State) : State := s.modCore 0 fun x => { x with lines := [(0x40, { data := 5, dirty := 1, poison := 0, h0 := 0, h1 := 0 })] }

/-- The line at 0x2000 holds words lost to an uncorrectable error. -/
def lost (s : State) : State := { s with memBad := [(0x40, BitVec.allOnes 128)] }

theorem witness_results :
    let able (s : State) (x : Warp) (p : PendOp) (runs : Nat → List (Nat × Nat)) (g : Nat) : Bool :=
      p.body.targets.contains g && x.qFirstAt p.id g && !s.windowHeld x p.id (runs g) &&
        !s.scratchBehind x p.id p.mask ((runs g).filterMap fun r => (s.windowTarget x r.1 1).map fun a => (a.1, a.2, r.2))
    let ldr (l : List (Nat × Nat)) := pending (.ldr l 4 0) (some .Q)
    let str (l : List (Nat × Byte)) := pending (.str l) (some .Q)
    (has (pending (.words [(0, [1], 0)]) none) (fun _ _ => true) &&
    (([[], [(1, 0x200100)]] : List (List (Nat × Nat))).all fun l => has (ldr ((0, 0x100) :: l)) fun s x =>
      able s x (ldr ((0, 0x100) :: l)) (fun g => (((0, 0x100) :: l).filter fun q => q.2 / 2 ^ 21 = g).map fun q => (q.2, 4)) 0) &&
    (([[], [(0x200100, 7)]] : List (List (Nat × Byte))).all fun l => has (str ((0x100, 7) :: l)) fun s x =>
      able s x (str ((0x100, 7) :: l)) (fun g => (((0x100, 7) :: l).filter fun q => q.1 / 2 ^ 21 = g).map fun q => (q.1, 1)) 0 &&
        s.windowTarget x 0x100 1 = some (1, 0x100)) &&
    ([false, true] : List Bool).all (fun err => ([[], lane0 0x2080] : List (List LaneAddr)).all fun rest =>
      let p := pending (.load (lane0 ++ rest) 4 0 false 5)
      has p (fun s x => !x.behind p && !s.lineHeld 1 x.core (OpBody.load lane0 4 0 false 5).lineKeys && !s.isPeer 0x2000 && !x.walker &&
        (let s0 : State := if err then s.readError x.core 0x40 else s
         (s0.readLanes x lane0 4 0 true (x.queued p)).2.isSome && ((s0.readLanes x lane0 4 0 true (x.queued p)).1.acquireAt x.core 5).2)) id cached) &&
    (let p := pending (.load (lane0 0x8000000000000) 4 0 false 5)
     has p (fun s x => s.isPeer 0x8000000000000 && !x.behind p && !s.lineHeld 1 x.core [0x8000000000000 / 128] &&
      (s.readLanes x (lane0 0x8000000000000) 4 0 true (x.queued p)).2.isSome) id peered)) = true ∧
    ((([[], [(0x2080, 7)]] : List (List (Nat × Byte))).all fun rest =>
      let p := pending (.store ((0x2000, 7) :: rest) 5 false) (some .S)
      has p (fun s x => !s.isPeer 0x2000 && !x.behind p && s.hasTokens x.core [] && !s.lineHeld 1 x.core [0x40] none && (s.storeBytes x [(0x2000, 7)] 5 false).2)) &&
    (let p := pending (.store [(0x8000000000000, 7)] 5 false) (some .S)
     has p (fun s x => s.isPeer 0x8000000000000 && !x.behind p && s.hasTokens x.core [] && !s.lineHeld 1 x.core [0x8000000000000 / 128] none &&
      (s.storeBytes x [(0x8000000000000, 7)] 5 false).2) id peered) &&
    (([0x2000, 0x7000000000000000] : List DWord).all fun base => ([128, 8192] : List Nat).all fun len =>
      let p := pending (.clean base len true false) (some .S)
      has p (fun s x => !x.behind p && match s.maintPage 1 x p base with
        | (s1, some (some a)) => base = 0x2000 && (s1.maintain x base (min len 4096) a true false).2
        | (_, some none) => base ≠ 0x2000
        | _ => false) id data) &&
    has (pending (.tstt 0 [(0, 0)] [(0, 5)] false) (some .S)) (fun _ x => !x.tileBehind 9) && has (pending .vout (some .S)) (fun _ _ => true) &&
    has (pending (.emit 1 1 [] 0) (some .S)) (fun _ _ => true)) = true := by decide +kernel

theorem witness_resultAtomics :
    let home (s : State) (x : Warp) (n : Nat) : Bool := !x.behind (pending .vout) && s.hasTokens x.core [] && !s.lineHeld 1 x.core [0x40] &&
      !s.atomicHeld x.core 9 [0x40] && (s.yieldLines x.core 3 [0x40]).2 &&
      match ((s.yieldLines x.core 3 [0x40]).1.atomError false x.core 3 0x40).placeRead x.core none 3 (0x2000 + n) 8 with
      | (s2, some (v, _)) => (s2.placeWrite x.core none 3 (cellsOf (0x2000 + n) 8 ((v + 1) % 2 ^ 64))).2
      | _ => false
    (has (pending (.ticket 0x2000 3)) (fun s x => home s x 0) && has (pending (.advance 0x2000 3) (some .S)) (fun s x => home s x 8) &&
    (let p (taken : Tab (BitVec 1024 × Nat)) (scope : Nat) (ls : List LaneAddr) : PendOp := pending (.atomic ls 1 0 [(0, 5)] [] scope 5 taken)
     (([lane0, lane0 ++ lane0 0x2080] : List (List LaneAddr)).all fun ls =>
      has (p [] 1 ls) (fun s x => !x.behind (p [] 1 ls) && !s.isPeer 0x2000 && atOf 1 ≠ .home && !s.lineHeld 1 x.core [0x40] && !s.atomicHeld x.core 9 [0x40] &&
        (s.yieldLines x.core 1 [0x40]).2 && (((s.yieldLines x.core 1 [0x40]).1.atomError false x.core 1 0x40).atomAct x.core x.task 1 lane0 1 0 [(0, 5)] []).2.isSome)) &&
     has (p [] 3 lane0) (fun s x => !x.behind (p [] 3 lane0) && atOf 3 = .home && placeOf (128 * 0x40) = .stack 0 && !s.isPeer 0x2000 &&
        !s.lineHeld 1 x.core [0x40] && !s.atomicHeld x.core 9 [0x40] && (s.atomHeld 3 0x40 lane0 1).isEmpty && (s.yieldLines x.core 3 [0x40]).2) &&
     has (p [(0x40, (0, 0))] 3 lane0) (fun s x => s.isPeer 0x2000 == false && (x.op? 9).isSome) &&
     (let q : PendOp := pending (.atomic (lane0 0x8000000000000) 1 0 [(0, 5)] [] 3 5 [])
      has q (fun s x => !x.behind q && s.isPeer 0x8000000000000 && !s.lineHeld 1 x.core [0x8000000000000 / 128] && !s.atomicHeld x.core 9 [0x8000000000000 / 128] &&
        (s.yieldLines x.core 3 [0x8000000000000 / 128]).2 &&
        (((s.yieldLines x.core 3 [0x8000000000000 / 128]).1.atomError false x.core 3 (0x8000000000000 / 128)).atomAct x.core x.task 3 (lane0 0x8000000000000) 1 0 [(0, 5)] []).2.isSome) id peered))) = true := by decide +kernel

/-- A tile load of an attachment; a fetch of a texel outside a one-texel image; a ray that meets nothing. -/
theorem witness_resultUnits :
    let tex := pending (.tfetch [0] [(0, [5, 0, 0, 0])] [(0, 0)] 0x2000) (some .X)
    let store := pending (.istore [0] [(0, [5, 0, 0, 0])] [(0, [0, 0, 0, 0])] [(0, 0)] 0x2000 []) (some .S)
    let ray := pending (.trace [0] [(0, List.replicate 8 0)] [(0, 0)] [(0, 0)] [(0, 0x100)] 0 0) (some .T)
    (has (pending (.tldt 0 [(0, 0)] 1) (some .X)) (fun s x => (s.tileOf x).isSome && !x.tileBehind 9) (staged .rasterTile) (graphed [rasterPass]) &&
    has tex (fun s x => tex.held.isNone && !s.asleep 96 && tex.body.texLanes = [0] && (match s.texLane 1 x tex 0 with | (_, .ok _) => true | _ => false)) id
      (fun s => { data s with mem := [(0x2008, 3), (0x200A, 1)] }) &&
    has store (fun s x => !s.asleep 96 && store.body.texLanes = [0] && (match s.texLane 1 x store 0 with | (_, .ok _) => true | _ => false)) id
      (fun s => { data s with mem := [(0x2008, 3), (0x200A, 1)] }) &&
    has ray (fun s x => !s.asleep 288 && !s.laneBusy 9 [] && (match s.traceLane 1 x ray (List.replicate 8 0) 0 0 0x100 0 0 with | (_, .ok ..) => true | _ => false))) = true := by
  decide +kernel

/-- Split 0 waits, and what follows holds there. -/
def waits (wt : Wait) (q : State → Warp → Bool) (warp : Warp → Warp := id) (part : State → State := id) : Bool :=
  let s := at_ (.nop (E 0 0 0)) (split (fun q => { q with wait := wt }) ∘ warp) part
  (s.warp? 1).any fun x => x.runs && (x.split? 0).any (fun sp => sp.wait = wt) && q s x

theorem witness_waits :
    let at0 : WaitAt := { em := 1, uni := false, dest := 0x10F }
    let q0 (n : Nat) (f : QueueEntry → QueueEntry) (s : State) : State := (queued n s).modQueue 1 0 f
    let own (s : State) (p : Workgroup → Bool) : Bool := (s.wg? 1).any fun g => (g.queue 0).bound && (g.header 0).sound && p g
    (([some 0, some 1, none] : List (Option Nat)).all fun sc => waits (.push 0 sc [(0, 5)] at0) (fun s _ => own s fun g => (g.queue 0).pushAt 1 0 = some 0 && 1 ≤ (g.header 0).cap - (g.header 0).count &&
      !g.queueOwned 0 (g.header 0).tail 1 && (sc.isSome || (g.queue 0).pushers.find? s.waitsUnbound = some (1, 0, false))) id
      (q0 3 fun e => { e with pushers := [(1, 0, false)] })) = true ∧
    waits (.pop 0 [0, 1] 9 at0) (fun s x => own s fun g => (g.queue 0).poppers.head? = some (1, 0) && !g.queueOwned 0 (g.header 0).head 2 && 2 ≤ (g.header 0).count && (s.acquireAt x.core (g.peekQueue 0 2).2).2) id
      (q0 3 fun e => { e with poppers := [(1, 0)] }) = true ∧
    (waits (.counter .G 0) (fun _ x => x.counter .G = 0) && waits (.stall .granules) (fun _ _ => true) &&
    waits (.matrix [5]) (fun s x => (x.abandonedIn [5]).isNone && !s.opOpen x 5)) = true ∧
    (([(0, id), (1, id), (0, lost)] : List (Nat × (State → State))).all fun (n, f) => waits (.served 0x2000 2 (BitVec.ofNat 64 n)) (fun s x => match s.ownRead x.core none 2 0x2008 8 with
      | (s1, some (v, m)) => (m ≠ 0) = decide (s.memBad ≠ []) && servedBy (BitVec.ofNat 64 v) (BitVec.ofNat 64 n) = decide (n = 0) && (s1.acquireAt x.core 2).2
      | _ => false) id f) = true ∧
    (([(0, id), (1, id), (0, lost)] : List (Nat × (State → State))).all fun (n, f) => waits (.monitor 0x2000 1 0 1 9 (BitVec.ofNat 64 n) (some 9) at0) (fun s x =>
      s.timer < 9 && !s.lineHeld 1 x.core [0x40] && s.linkFull && !hostKey 0x40 && match s.ownRead x.core x.task 1 0x2000 4 with
      | (s1, some (v, m)) => (m ≠ 0) = decide (s.memBad ≠ []) && monitorHolds 0 1 v n = decide (n = 0) && (s1.acquireAt x.core 1).2
      | _ => false) id f) = true ∧
    (waits (.monitor 0x2000 1 0 1 9 0 (some 9) at0) (fun s _ => 9 ≤ s.timer) id (fun s => { s with timer := 9 }) &&
    waits (.ordered 1) (fun s x => s.sectionsFree x 1) (staged .rasterFragment) (graphed [rasterPass]) &&
    waits (.ring 9 at0) (fun s x => (x.op? 9).any (fun p => p.body = .emit 1 1 [0] 0) && s.ringTakes 1 1 1) (fun x => { staged .graph x with pend := [pending (.emit 1 1 [0] 0) (some .S)] })
      (graphed [rasterPass])) = true := by
  decide +kernel

theorem witness_ends :
    let gone (s : State) : Bool := (s.warp? 1).any fun x => x.lanes = 0 && (x.pend.all fun p => p.path.isNone) && !x.walker
    let none_ (x : Warp) : Warp := split (fun q => { q with mask := 0 }) x
    (gone (at_ (.nop (E 0 0 0)) none_) && gone (at_ (.nop (E 0 0 0)) none_ (second false)) &&
    ((second false (at_ (.nop (E 0 0 0)) none_)).warps.any fun y => y.1 = 2 && y.2.gang = 1)) = true ∧
    (let s : State := { at_ (.nop (E 0 0 0)) with regions := [(0, region none [(1, 0)])], timer := 9000 }
     let t : State := { s with regions := [(0, { region (some 0) [(1, 0)] with lastWrite := 8700 })] }
    ((s.passToken 0 (s.nextHolder (region none [(1, 0)]))).2 && (t.passToken 0 (t.nextHolder { region (some 0) [(1, 0)] with lastWrite := 8700 })).2 &&
      !s.handoverAt 0 4 && t.nextHolder { region (some 0) [(1, 0)] with lastWrite := 8700 } = some 1)) = true := by decide +kernel

/-- One row of 16 bytes from 0x2000 to scratchpad offset 0x100. -/
def row : Copy := { dir := 0, global := 0x2000, gpitch := 0, soff := 0x100, spitch := 0, target := 0, doff := 0, dpitch := 0, rows := 1, rowbytes := 16, esize := 4, na := false, done := 0, started := false }

theorem witness_copyEvents :
    let one (s : State) : State := s.modCore 0 fun x => { x with copies := [(1, 9)], l1 := [page2] }
    let y : Copy := { row with started := true, rows := 2, gpitch := 128 }
    (has (pending (.copy row) (some .C)) (fun s x => (s.core x.core).running = [(1, 9)] && !s.laneBusy 9 []) id one &&
    has (pending (.copy y) (some .C)) (fun s x => !s.copyHeld (pending (.copy y) (some .C)) && !y.finishing &&
      match s.copyMove 1 x (pending (.copy y) (some .C)) y with | (_, _, .ok _) => true | _ => false) id one &&
    ([y, { y with done := 1 }] : List Copy).all fun y => has (pending (.copy y) (some .C)) (fun s x =>
      !s.copyHeld (pending (.copy y) (some .C)) && y.started && match s.copyRest 1 x (pending (.copy y) (some .C)) y y.bound with | (_, _, .ok _) => true | _ => false)
      id one) = true := by decide +kernel

theorem witness_pushEvents :
    let p (t arrived : Bool) : PendOp := pending (.push 0 0 [5] t arrived) (some .Q)
    let into (s : State) (x : Warp) (b : Bool) : Bool := s.peerWg x 0 = some 1 && (x.op? 9).any (fun p => p.held.isNone) && !x.halted && (Tab.get? s.gangs x.gang).any (fun y => y.saved.isNone) &&
      (s.wg? 1).any fun g => (g.queue 0).bound = b && !(b && g.queueOwned 0 (g.header 0).tail 1)
    (has (p false false) (fun s x => into s x true && x.qFirst (p false false) && (s.wg? 1).any fun g => (g.queue 0).pushers.isEmpty && (g.header 0).sound && 1 ≤ (g.header 0).cap - (g.header 0).count) id (queued 3) &&
    has (p true false) (fun s x => into s x false && x.qFirst (p true false)) && has (p false false) (fun s x => into s x false && x.qFirst (p false false)) &&
    has (p false true) (fun s x => into s x true && (s.wg? 1).any fun g => (g.queue 0).pushers = [(1, 9, true)]) id fun s => (queued 3 s).modQueue 1 0 fun e => { e with pushers := [(1, 9, true)] }) = true := by
  decide +kernel

/-- The engine of warp 1 with one operation of a kind in its queue. -/
def engaged (kind : Nat) (started readDone : Bool) (s : State) : State := s.modEngine 0 fun _ => {
  queue := [{
    warp := 1, id := 5, kind, acc := 0, shape := 3, mo := 1, no := 1, mapA := some map0,
    mapB := some map0, bypass := false, tileKind := 0, ty := 5, scale := none, clamp := none, relu := false, granules := [0],
    releases := false, started, readDone, failed := false }],
  bypass := some { holder := some 1, ty := 5, rows := 32, cols := 32, data := [] }, ended := [] }

theorem witness_engineEvents :
    let q (f : State → State) (p : State → MatrixOp → Bool) : Bool := let s := at_ (.nop (E 0 0 0)) id f
      (s.engine 0).queue.any fun o => (s.opWarp 0 o.warp).any (fun x => (s.wg? x.wg).isSome) && (s.warp? o.warp).isSome && p s o
    (q (engaged 0 false false) (fun s o => !o.started && !s.asleep 0 && s.throttle = 0 && !s.laneBusy o.id (o.granules.map fun g => (1, g)) && !o.places.isEmpty) &&
    q (engaged 0 true false) (fun _ o => o.started && !o.readDone && o.kind = 0 && o.tileKind < 2 && 32 * o.mo + (regionSize o.shape).1 ≤ 64 &&
      32 * o.no + (regionSize o.shape).2 ≤ 64 && o.mapB.isSome) &&
    q (fun s => (engaged 0 true false s).modWg 1 fun g => { g with bad := [0] }) (fun s o => (s.wg? 1).any fun g => (o.badLine g).isSome) &&
    q (engaged 0 true false) (fun s o => (s.wg? 1).any fun g => (o.badLine g).isNone) &&
    q (engaged 3 true true) (fun _ o => o.kind = 3 && o.readDone) &&
    q (engaged 0 true true) (fun _ o => o.started && o.kind ≤ 1 && o.readDone) && q (engaged 2 true false) (fun _ o => o.kind = 2 && o.started) &&
    q (engaged 4 true false) (fun _ o => o.kind = 4 && o.started && o.mapA.isSome) && q (engaged 5 true false) (fun s o => o.kind = 5 && o.started && (s.engine 0).bypass.isSome)) = true := by
  decide +kernel

/-- A fill, a refused line, dirty lines of memory and of a view, a miss, a harvest, and every step of a handover. -/
theorem witness_units :
    let r := State.reset
    let line (d : BitVec 128) : Line := { data := 0, dirty := d, poison := 0, h0 := 0, h1 := 0 }
    let miss (c : Nat) : State := { r with dies := [(0, { Die.init with miss := [(3, {
      ctx := 0, page := 5, fetch := false, write := true, hint := false, user := true,
      claim := none, stale := false, order := 0, reqs := [{ core := c, warp := 1, entry := 0 }] })] }), (1, Die.init)] }
    let hand (n : Nat) : State := r.modHome 0 fun x => { x with handover := some { step := n, src := 0, dst := 1, word := none, pass := none, before := 0 } }
    let filling := r.modCore 0 fun x => { x with fills := [{ line := 0x40, hint := false, stale := false, before := 0 }] }
    let held (k : Nat) : State := r.modCore 0 fun x => { x with lines := [(k, line 1)] }
    (((filling.core 0).fills.find? fun g => g.line = 0x40).isSome && (filling.codeRead 0 0x40).2.isSome &&
    (Tab.get? ({ r with refusals := [(0x40, [(9, 2)])] } : State).refusals 0x40).isSome &&
    ([0x40, viewKey 0 5] : List Nat).all (fun k => ((held k).writebackHeld 0 k).isEmpty && ((held k).colLine 0 k).any fun l => l.dirty ≠ 0) && (viewOf (viewKey 0 5)).isSome &&
    (viewOf 0x40).isNone && ([3, 20] : List Nat).all (fun c => ((miss c).die 0).oldestMiss (fun _ => true) |>.any fun p => p.2.reqs.any fun q => q.core = c) && (miss 3).walkerFree 3 && (miss 20).walkerFree 0 &&
    (let s : State := { r with timer := 1000000 }; (s.ctx 0).harvestLast + 100000 * ((s.ctx 0).harvest.toNat % 1024) ≤ s.timer) &&
    !(hand 1).stackBusy 0 0 0 && ((hand 2).emptyDie 0 0).2 && ((hand 4).recallStack 0).2 && !(hand 5).homeBusy 0 && ([0, 1] : List Nat).all (fun d => !(hand 7).stackBusy 0 d 0) &&
    ([1, 2, 3, 4, 5, 6, 7, 8] : List Nat).all (fun n => ((hand n).home 0).handover.any fun h => h.step = n && h.word.isNone) && ((hand 8).home 0).next.isEmpty &&
    (let s := (hand 8).modHome 0 fun x => { x with next := [(1, 1, 0)] }
     (s.home 0).next = [(1, 1, 0)] && (s.home 0).owner.owner ≠ 1 && (s.home 0).owner.owner ≠ 2 && !(s.home 0).failed) &&
    (let s : State := r.modHome 0 fun x => { x with handover := some { step := 2, src := 2, dst := 1, word := none, pass := none, before := 0 } }
     (s.home 0).handover.any fun h => h.step = 2 && h.src = 2) &&
    (let s : State := { r with mgmt := { r.mgmt with corrLast := [(3, (5, 0))] }, timer := 1000005 }
     (Tab.get? s.mgmt.corrLast 3).any (fun p => p.1 + 1000000 ≤ s.timer) && (Tab.get? ({ s with timer := 6 } : State).mgmt.corrLast 3).any fun p => 6 < p.1 + 1000000)) = true := by decide +kernel

/-! ### Streams, graphs and scheduling -/

/-- Memory from 0x2000 on holding values at offsets: offset, bytes, value. -/
def holding (l : List (Nat × Nat × Nat)) (s : State) : State :=
  { s with mem := l.foldl (fun m p => m.writeNat (0x2000 + p.1) p.2.1 p.2.2) s.mem }

/-- The page at 0x2000 in the L2 TLB of both dies. -/
def mapped (s : State) : State := { s with dies := s.dies.map fun d => (d.1, { d.2 with l2 := [page2] }) }

/-- A number from fields: byte offset, value. -/
def fieldsOf (l : List (Nat × Nat)) : Nat := l.foldl (fun x p => x + 256 ^ p.1 * p.2) 0

/-- A stream descriptor, and a slot that it binds. -/
def desc (enable : Nat) : BitVec 512 := BitVec.ofNat 512 (fieldsOf [(0, 0x2000), (8, 16), (13, 128 * enable), (14, 1), (16, 0x2040), (24, 0x2080)])
def slot0 : Slot :=
  { enabled := true, qbase := 0x2000, qcap := 16, ctx := 0, cls := 0, devappend := true, weight := 1, tailaddr := 0x2040, doneaddr := 0x2080, done := 0,
    fetched := 0, tail := 0, errseq := 0, errtag := 0, errcode := 0, errcount := 0, recs := [] }

/-- Reset with that slot in a state and fields in memory. -/
def streaming (x : Slot) (l : List (Nat × Nat × Nat) := []) : State := { holding l (mapped State.reset) with slots := [(0, x)] }

/-- The slot with one fetched record. -/
def record (l : List (Nat × Nat)) : Slot := { slot0 with fetched := 1, tail := 1, recs := [{ seq := 0, bytes := BitVec.ofNat 512 (fieldsOf l), st := .fetched }] }

theorem witness_descriptor :
    let s := mapped State.reset
    let on (s : State) : Bool := 128 ≤ s.winNat (64 * 0 + 13) 1
    let s' : State := { s with win := s.win.writeNat 0 64 (desc 1).toNat }
    let s1 := s'.loadContext 0
    (!on s && on s' && (desc 1).getLsbD 111 && !(desc 0).getLsbD 111 && descriptorOk (desc 1) && !descriptorOk (desc 1 ||| 1) && s'.started &&
      (Tab.get? s.slots 0).isNone && s1.accessesDone 0 s1.nextId &&
      (match s1.frontName 0 0x2000 false with
        | (s2, .ok _) => (match s2.frontName 0 0x2040 false with
          | (s3, .ok _) => (match s3.frontName 0 0x2080 true with
            | (s4, .ok a) => (match s4.frontReadAt a 36 with | (_, .ok _) => true | _ => false)
            | _ => false)
          | _ => false)
        | _ => false)) = true := by decide +kernel

theorem witness_tail :
    let fetch (s : State) : Bool := match s.frontRead 0 0x2000 64 with | (_, .ok _) => true | _ => false
    (fetch (streaming { slot0 with tail := 1 }) && (streaming slot0).started && (let s := streaming { slot0 with devappend := false } [(0x40, 8, 1)]
      match s.frontRead 0 0x2040 8 with | (s', .ok v) => v = 1 && fetch (s'.modSlot 0 fun x => { x with tail := 1 }) | _ => false)) = true := by decide +kernel

/-- A launch of one gang of one warp. -/
def launchRec (grid vregs : Nat) : List (Nat × Nat) := [(0, 2), (8, 0x1000), (24, grid), (32, vregs), (34, 1), (35, 1)]

theorem witness_records :
    let good (l : List (Nat × Nat)) (p : State → BitVec 512 → Bool := fun _ _ => true) : Bool := let s := streaming (record l)
      (record l).startable.any fun r => recHeadOk r.bytes && recBodyOk r.bytes && recNat r.bytes 1 1 = 0 && p s r.bytes
    let sig (s : State) (_ : BitVec 512) : Bool := s.started && match s.signalPlace 0 0x2000 with | (s, .ok pa) => (s.homeHeld (cellsOf pa 8 0)).isEmpty && pa = 0x2000 | _ => false
    ((record [(0, 6)]).startable.any (fun r => !recHeadOk r.bytes) && good [(0, 1), (8, 0x2000)] &&
    good (launchRec 1 8) (fun _ b => !(kernelOf b).unplaceable && !(kernelOf b).coop) &&
    good (launchRec 1 256 ++ [(34, 31), (40, 16)]) (fun _ b => (kernelOf b).unplaceable) && ([3, 4] : List Nat).all (fun n => good [(0, 3), (8, 0x2000), (24, n), (25, 1)] sig) &&
    good [(0, 4), (8, 0x2000), (32, 3), (34, 1)] sig && good [(0, 5), (9, 3)] &&
    ([true, false] : List Bool).all (fun b => ({ streaming (record [(0, 5), (9, 3)]) with heads := [(0, { Head.init with enabled := b })] } : State).heads.any fun h => h.2.enabled = b)) = true := by decide +kernel

/-- A launch whose gangs have all retired; a WAIT that holds, one that does not, and one at its deadline. -/
theorem witness_completions :
    let l : Launch := { kernel := kernelOf (BitVec.ofNat 512 (fieldsOf (launchRec 1 8))), ctx := 0, cls := 0, slot := 0, seq := 0, next := 1, live := 0, headDie := none,
                        since := 0, blocking := false, promoted := false, failed := none }
    let wait (d : Option Nat) (now : Nat) : State := { streaming { slot0 with
      fetched := 1, tail := 1, recs := [{ seq := 0, bytes := BitVec.ofNat 512 (fieldsOf [(0, 4), (8, 0x2000), (32, 3), (33, 2)]), st := .waiting d 0x2000 }] } with timer := now }
    (l.kernel.grid ≤ l.next && (({ State.reset with launches := [(1, l)] } : State).harvestAll (fun t => t.ctx = l.ctx)).cleanPart.2 &&
      ((wait none 0).waitingRec 0 0).isSome && (wait none 0).linkFull && (match ((wait none 0).holdPort 0x2000).frontReadAt 0x2000 8 with | (_, .ok v) => v = 0 | _ => false) &&
      ((wait (some 5) 5).waitingRec 0 0).any fun p => p.2.1 = some 5) = true := by decide +kernel

/-- A graph of one TILE pass with one resource at 0x2000, and the same with a wrong header. -/
def tileGraph : List (Nat × Nat × Nat) :=
  [(0, 2, 1), (2, 2, 1), (8, 8, 0x2080), (16, 8, 0x2100), (24, 8, 0x2140),
   (0x80, 1, 2), (0x88, 8, 0x2180), (0x90, 2, 1), (0x92, 2, 1), (0x94, 1, 1), (0x96, 1, 1),
   (0x100, 1, 3), (0x102, 1, 16), (0x104, 2, 15), (0x106, 2, 15), (0x108, 4, 1), (0x118, 8, 0x8000),
   (0x188, 8, 0x1000), (0x1A0, 2, 8), (0x1A2, 1, 1), (0x1A3, 1, 1)]
def unloaded : Graph :=
  { slot := 0, seq := 0, ctx := 0, cls := 0, args := 0, header := 0x2000, loaded := false, passes := [], ress := [], edges := [], score := [], slots := [], rings := [],
    spilled := [], failed := none, waits := [], blocking := [], promoted := [] }

theorem witness_graphLoad :
    (match (streaming slot0 tileGraph).readGraph unloaded with
      | (s1, .ok g) => s1.boardUsed 0 + g.entries 0 ≤ 2 ^ 20 && s1.boardUsed 1 + g.entries 1 ≤ 2 ^ 20 && g.entries 0 = 1
      | _ => false) = true ∧ (match (streaming slot0).readGraph unloaded with | (_, .fail d i) => d = 1 && i = 0 | _ => false) = true := by decide +kernel

/-- A kernel of one warp, and task 1 of a graph as changed, with the raster state of its pass. -/
def kernel1 : Kernel := kernelOf (BitVec.ofNat 512 (fieldsOf (launchRec 1 8)))
def tasked (p : Pass) (x : Task) (r : List RasterPass) : State :=
  { graphed [p] 64 State.reset with tasks := [(1, x)], rasters := r.map fun r => (256, r) }
def front (sub : Nat) (prims : Tab (List Prim)) (batches : Tab (Tab VertexOut)) : RasterPass := { graph := 1, pass := 0, sub, batches, nextBatch := 0, accepted := 0, prims, binned := 0, flushing := false, flushed := 0, vnext := 0 }
def prim0 : Prim := { xs := [0, 256, 0], ys := [0, 0, 256], pos := List.replicate 3 [0, 0, 0, 0x3F800000], attrs := [[], [], []], swapped := false, front := true, id := 0 }
def frag0 (st : Nat) : Frag := { seq := 0, x := 0, y := 0, smp := none, cover := 1, prim := 0, st, discarded := false, holds := false, released := false }

theorem witness_graphEvents :
    let p : Pass := { rasterPass with vkernels := [kernel1], fkernels := [kernel1], rbytes := [(0, 1), (2, 1), (128, 3), (656, 2)] }
    let is (s : State) (q : Task → Graph → Pass → Bool) : Bool := (Tab.get? s.tasks 1).any fun x => (s.taskPass x).any fun g => q x g.1 g.2
    (let s := tasked { rasterPass with kind := 2 } { tileTask with st := 2, phase := 0, pinned := false } []
     is s fun x _ p => x.st = 2 && p.kind ≠ 1 && p.kind ≠ 4 && x.phase ≠ 3 && (s.commitOf 1 x).2) = true ∧
    (let s := tasked p { tileTask with st := 2, phase := 0, pinned := false } []
     is s fun x g p => x.st = 2 && p.kind = 1 && x.phase ≠ 3 && match s.storeTile g p x.tile x.tm with | (s0, .ok _) => (s0.commitOf 1 x).2 | _ => false) = true ∧
    (([1, 2] : List Nat).all fun n =>
      let s := tasked { p with rbytes := [(0, 1), (2, 1), (128, 3), (656, BitVec.ofNat 8 n)] } tileTask [front 0 [] [(0, [])]]
      (Tab.get? s.rasters 256).any fun r => (Tab.get? s.graphs r.graph).any fun g => (g.passes[r.pass]?).any fun p => !s.asleep (360 + p.die) && (p.vkernels[r.sub]?).any fun v =>
        (Tab.get? r.batches (r.sub * 2 ^ 48 + r.nextBatch)).isSome && decide (r.nextBatch + 1 = p.vgrid r.sub * v.gang * v.warps) = decide (n = 1)) = true ∧
    (([false, true] : List Bool).all fun b =>
      let s := tasked p { tileTask with rastered := b, phase := 0, gangs := [] } [front 1 [(0, [prim0])] []]
      is s fun x _ p => (s.rasterOf 1 0).isSome && p.kind = 1 && x.st = 1 && x.phase = 0 && (b || x.sub < 1) && x.gangs.isEmpty && x.frags.isEmpty) = true ∧
    (let full : RasterPass := { front 0 [(0, [prim0])] [(0, [])] with binned := 65 }
     let s := tasked { p with rbytes := p.rbytes ++ [(48, 64)] } tileTask [full]
     (Tab.get? s.rasters 256).any fun r => (Tab.get? s.graphs r.graph).any fun g => (g.passes[r.pass]?).any fun p => (p.vkernels[r.sub]?).isSome &&
       (Tab.get? r.batches (r.sub * 2 ^ 48 + r.nextBatch)).any fun b => r.binned ≠ 0 && p.rb 48 4 = 64 && p.rb 48 4 < r.binned + binSize 1 (p.batchPrims b r.accepted).1.length) = true ∧
    (let s := tasked p { tileTask with phase := 1 } [{ front 0 [(0, [prim0])] [] with flushing := true, flushed := 1, binned := 64 }]
     (Tab.get? s.rasters 256).any fun r => r.flushing && s.flushDone r) = true ∧
    (let s := tasked p { tileTask with rastered := true, phase := 0, gangs := [], frags := [frag0 0] } [front 1 [(0, [prim0])] []]
     is s fun x g p => (p.fkernels[x.sub]?).any fun v => x.core = some 0 && x.gangs.isEmpty && s.throttle < 3 && !(takeQuads (x.frags.filter fun f => f.st = 0) [] 2).isEmpty &&
       x.gangs.isEmpty && match s.seatGang { taskStart g p v 1 (Config.fragmentIndex s.free).toNat .rasterFragment 0 with tx := 0, ty := 0, g8 := 1, g9 := 0 } (fun c => c = 0) [] with
         | .done _ _ c => c = 0 | _ => false) = true ∧
    (let s := tasked p { tileTask with phase := 0, frags := [frag0 2] } [front 1 [(0, [prim0])] []]
     is s fun x _ _ => x.frags = [frag0 2] && (s.rasterOf 1 0).any fun r => (((Tab.get? r.prims x.sub).getD [])[0]?).isSome) = true := by decide +kernel

/-- Three gangs of class 3, each on a core of its own cluster of die 0. -/
def crowd (s : State) : State := { s with
  warps := s.warps.flatMap fun p => [0, 4, 8].map fun c => (c + 1, { p.2 with core := c, wg := c + 1, gang := c + 1 }),
  wgs := s.wgs.flatMap fun p => [0, 4, 8].map fun c => (c + 1, { p.2 with core := c, gang := c + 1, warps := [c + 1] }),
  gangs := s.gangs.flatMap fun p => [0, 4, 8].map fun c => (c + 1, { p.2 with cls := 3, wgs := [c + 1] }) }

/-- A launch waiting in a class since 0. -/
def waitingLaunch (cls : Nat) (k : Kernel := kernel1) : Launch :=
  { kernel := k, ctx := 0, cls, slot := 0, seq := 0, next := 0, live := 0, headDie := some 0, since := 0, blocking := false, promoted := false, failed := none }

theorem witness_scheduling :
    let s0 (cls now : Nat) (k : Kernel := kernel1) : State := { State.reset with launches := [(1, waitingLaunch cls k)], timer := now, slots := [(0, slot0)] }
    (match (s0 0 0).tryClass 0 0 with | .done _ => true | _ => false) = true ∧ (match State.reset.tryClass 0 0 with | .no => true | _ => false) = true ∧
    ((seatsOnDie (s0 0 0).rooms 0 ((s0 0 0).die 0).lastCluster kernel1 kernel1.grotto (fun _ => true)).any fun q =>
      ((s0 0 0).seat (launchStart 1 (waitingLaunch 0) 0 0) q.2.1).2.isSome) = true ∧
    ((s0 1 2000000).waiting 1 = some (0, 1, false) ∧ (s0 3 100000000).waiting 1 = some (0, 3, false)) ∧
    (let big : Kernel := { kernel1 with gang := 4, scratch := 0x200000 }
     let s : State := { crowd (at_ (.nop (E 0 0 0))) with launches := [(20, waitingLaunch 0 big)] }
     ((s.askers0 20)[0]?).any fun q => q.2 = [0] && !s.preempting 0 && (List.range 3).all (fun k => !s.askerFits q.1 k) && (s.chooseCluster q.1 0).isSome) = true ∧
    (let s : State := { State.reset with graphs := [(1, { unloaded with cls := 3, waits := [(.tile 0 0, 0)] })], timer := 100000000 }
     s.waiting 1 = none ∧ (Tab.get? s.graphs 1).isSome) = true ∧
    (let s : State := { State.reset with launches := [(1, waitingLaunch 0 { kernel1 with coop := true })] }
     ((Tab.get? s.launches 1).any fun l => l.kernel.coop && (s.coopFits l).any fun xs => (s.acquireCores (xs.flatMap fun x => x.2.2.map (·.core))).2)) = true := by decide +kernel

/-- A gang being stopped whose warp has drained; a saved gang whose save area, in a page of Grotto, is free. -/
theorem witness_saving :
    let victim (s : State) : State := { s with gangs := s.gangs.map fun p => (p.1, { p.2 with victim := true }), warps := s.warps.map fun p => (p.1, { p.2 with stopping := true }) }
    let kept (s : State) : State := { s with
      dies := s.dies.map (fun d => (d.1, { d.2 with l2 := [{ page2 with vpn := 0, size := 2, leaf := 0x4000000000215 }] })),
      gangs := s.gangs.map (fun p => (p.1, { p.2 with saved := some 0 })), wgs := s.wgs.map (fun p => (p.1, { p.2 with alloc := 0 })), win := (s.win.writeNat 0x800 8 0x2000).writeNat 0x808 4 8192 }
    let v := at_ (.nop (E 0 0 0)) id victim
    let k := at_ (.nop (E 0 0 0)) id kept
    ((Tab.get? v.gangs 1).any (fun g => g.victim && g.saved.isNone) && (v.gangWarps 1).all (fun w => v.drained w) && ((v.withdrawAll (v.gangWarps 1)).cleanCores (v.gangCores 1)).2 &&
     ((at_ (.nop (E 0 0 0))).warp? 1).any (fun x => !x.stopping && !x.holdsSection) &&
     (k.saveArea 0).1.toNat % 4096 = 0 && 4 ≤ (k.saveArea 0).2 && (match k.directory 0 (k.saveArea 0).1 with
       | (s1, some es) => (firstIdx es fun _ e => byteField e 14 2 = 0) = some 0 && (Tab.get? k.gangs 1).isSome &&
         (freeChunks es (k.saveArea 0).2 ((s1.gangBytes 1 + 65535) / 65536)).any fun c =>
           (s1.areaNames 0 ((k.saveArea 0).1 + BitVec.ofNat 64 (65536 * c)) (s1.gangBytes 1)).isSome && (s1.areaNames 0 (k.saveArea 0).1 16).isSome
       | _ => false)) = true := by decide +kernel

theorem witness_watchdog :
    let at0 : WaitAt := { em := 1, uni := false, dest := 0x10F }
    let s (wt : Wait) : State := { at_ (.nop (E 0 0 0)) (split fun q => { q with wait := wt }) with timer := 400000000, win := resetWin.writeNat 0x80E 2 100 }
    let a : State := (s (.push 0 none [] at0)).modCtx 0 fun x => { x with wdSince := some 0 }
    let b : State := (s (.monitor 0x8000000000000 4 0 1 9 0 none at0)).modCtx 0 fun x => { x with xwSince := some 0 }
    (a.stuck 0 && a.passed (a.ctx 0).wdSince (a.winNat 0x80C 2) && b.parked 0 && b.passed (b.ctx 0).xwSince (b.winNat 0x80E 2) && !(b.ctx 0).xwDone &&
      (a.residents 0).any (fun w => w.2.splits.any fun k => k.2.live ≠ 0 && (a.blockedIn w.2 k.2).isSome)) = true := by decide +kernel

/-- A workgroup that may move, has begun to, or no longer may; another whose gang has taken every core it could move to; units that sleep. -/
theorem witness_moves :
    let s (begun : Bool) : State :=
      let s0 := at_ (.nop (E 0 0 0))
      { s0 with moves := [(1, (0, begun))], gangs := s0.gangs.map fun g => (g.1, { g.2 with cls := 1 }) }
    let begins (s : State) : State := ((s.wgWarps 1).map (·.1)).foldl State.stopWarp { s with moves := Tab.set s.moves 1 (0, true) }
    let goes (s : State) (x : Workgroup) : Bool := s.migratable 1 x && (Tab.get? s.gangs x.gang).any (fun _ => true) &&
      (Tab.get? s.moves 1).any fun m => m.2 || (s.timer < m.1 + 50000 && !s.grottoCopies 1 x)
    let held : State := (s true).modWarp 1 fun x => { staged .rasterFragment x with frags := (staged .rasterFragment x).frags.map fun p => (p.1, { p.2 with holds := true }) }
    let due (t : Option Nat) (n : Nat) : State := { State.reset.modCore 0 (fun x => { x with sampled := t }) with timer := n }
    (([false, true] : List Bool).all fun b => (Tab.get? (s b).wgs 1).any fun x => goes (s b) x && (begins (s b)).drained 1 &&
      (Tab.get? (s b).gangs x.gang).any (fun g => !(begins (s b)).pagesBusy g x.core) && ((begins (s b)).migrationSeat 1 x).any fun q =>
        (((begins (s b)).withdrawAll [1]).cleanColumn x.core (fun _ => true)).2 &&
        ((((begins (s b)).withdrawAll [1]).cleanColumn x.core (fun _ => true)).1.acquireColumn q.core).2) = true ∧
    (let t : State := { s true with wgs := (s true).wgs ++ (s true).wgs.flatMap (fun q => [1, 2, 3].map fun c => (10 + c, { q.2 with core := c, warps := [] })),
                                    gangs := (s true).gangs.map fun q => (q.1, { q.2 with wgs := [1, 11, 12, 13] }) }
     (Tab.get? t.wgs 1).any fun x => goes t x && (begins t).drained 1 && ((begins t).migrationSeat 1 x).isNone) = true ∧
    ((Tab.get? held.wgs 1).any fun x => !held.migratable 1 x) = true ∧
    (let t : State := (s true).modWarp 1 fun x => { x with pend := [pending (.copy row) (some .C)] }
     (Tab.get? t.wgs 1).any fun x => goes t x && !(begins t).drained 1) = true ∧
    (({ s false with timer := 50000 } : State).timer = 50000 ∧ (State.reset.sleeps 0).isSome = true ∧ (State.reset.sleeps 370).isSome = true) ∧
    (!(State.reset.core 0).halfRate && ((State.reset.modCore 0 fun x => { x with halfRate := true }).core 0).halfRate &&
      ((due (some 0) 9999999).core 0).sampled = some 0 && ((due (some 0) 10000000).core 0).sampled.all fun t => t + 10000000 ≤ (due (some 0) 10000000).timer) = true := by
  decide +kernel

/-! ### The host, the management unit, the step -/

/-- A snoop outstanding on half 1 of the line at 0x2000. -/
def snooped (s : State) : State := { s with snoops := [{ line := 0x40, half := 1, inv := true, asker := 7 }], hostHalf := [(0x81, 2)] }

/-- The first line of host memory, its lower half held dirty. -/
def hostLine : Line := { data := 5, dirty := 1, poison := 0, h0 := 3, h1 := 3 }
def key0 : Nat := 0x8000000000000 / 128

theorem witness_host :
    let r := State.reset
    let reached (s : State) : Bool := s.linkFull && s.mgmt.phase = .running && placeOf 0x2000 = .stack 0 && (s.home 0).owner.owner ≠ 2 && !(s.home 0).failed
    let free (s : State) : Bool := s.homeQ.all fun q => !s.sameLine q.line 0x40
    let still (s : State) : Bool := s.snoops.all fun p => p.line ≠ 0x40
    let calm (s : State) : Bool := reached s && free s && still s && !s.atomicBusy 0x40 && (s.reservedFor 0x40).isNone && !s.inHandover 0 && !s.asleep 362 &&
      s.clusters.isEmpty && (s.tokenOf 0x2000).isNone
    let hand : State := r.modHome 0 fun x => { x with handover := some { step := 1, src := 0, dst := 1, word := none, pass := none, before := 0 } }
    let doze : State := { r with power := [(362, 1)] }
    (!({ r with linkFull := false } : State).linkFull && r.linkFull && !reached { r with mgmt := { r.mgmt with phase := .awaitFirmware } } &&
     (let q : State := { r with homeQ := [.hostRead 0x2000 false] }; reached q && !free q) &&
     (let q := snooped r; reached q && free q && q.snoops.any fun p => p.line = 0x40 && !p.answered) &&
     (reached hand && free hand && still hand && hand.inHandover 0) && (reached doze && free doze && still doze && doze.asleep 362) &&
     (let atomic : PendOp := pending (.atomic (lane0) 1 0 [(0, 5)] [] 3 5 [(0x40, (0, 0))])
      has atomic (fun s _ => reached s && free s && still s && s.atomicBusy 0x40)) &&
     calm r && (r.errEntry 0x40).isNone && r.memMark 0x2000 64 = 0 && calm (lost r) && (lost r).memMark 0x2000 64 ≠ 0) = true ∧
    (let host : State := r.modCore 0 fun x => { x with lines := [(key0, hostLine)] }
     let unit : State := r.setClusterLine 0 key0 hostLine
     let port : State := { r with port := [2 * key0] }
     placeOf 0x8000000000000 = .host ∧ hostKey key0 = true ∧
     (!r.deviceHolds 0x8000000000000 && host.deviceHolds 0x8000000000000 &&
      ((snooped r).snoops.find? fun p => p.line = 0x40 && p.half = 1 && !p.answered).isSome &&
      port.port.contains (0x8000000000000 / 64) && !r.port.contains (0x8000000000000 / 64) && !port.atomicBusy key0 &&
      ((host.core 0).lines.filter fun l => physKey l.1 = key0 && l.2.half 0x8000000000000 ≠ 0).length = 1 &&
      ((host.core 1).lines.filter fun l => physKey l.1 = key0).isEmpty && host.clusters.isEmpty && !host.hostPending &&
      (unit.clusterLine (25 - 25) key0).any (fun l => l.half 0x8000000000000 ≠ 0) && (unit.clusterLine (26 - 25) key0).isNone &&
      has (pending (.load (lane0 0x8000000000000) 4 0 false 5)) fun s _ => s.hostPending) = true) := by decide +kernel

theorem witness_heads :
    let h (en : Bool) (f : List (Nat × Nat × DWord × Nat × Nat × Nat)) : Head := { Head.init with enabled := en, pitch := 128, surface := 0x2000, format := 3, flips := f }
    let s (x : Head) : State := { mapped State.reset with heads := [(1, x)] }
    (((s (h true [(0, 0, 0x2000, 128, 3, 0)])).headOf 1).enabled && !((s (h false [])).headOf 1).enabled && !headOk (7 * 2 ^ 96) &&
     ((s (h true [])).winNat 0xF20 2 + 1) * formatBytes 3 = 4 && lineRuns 0x2000 4 2 = [(0x2000, 4)] &&
     (match (s (h true [])).frontRead 0 0x2000 4 with | (_, .ok _) => true | _ => false) &&
     (match ({ State.reset with heads := [(1, h true [])] } : State).frontRead 0 0x2000 4 with | (_, .fault) => true | _ => false) &&
     (match ({ s (h true []) with hostHalf := [(0x80, 2)] } : State).frontRead 0 0x2000 4 with | (_, .wait) => true | _ => false)) = true ∧ headOk (128 * 2 ^ 96) = true := by
  refine ⟨by decide +kernel, ?_⟩
  simp [headOk, byteField]

/-- Such a read is a scan of the line's one run: of its bytes, or of black where the page faults. -/
theorem witness_scans (s t : State) (v : Nat) :
    (s.frontRead 0 0x2000 4 = (t, .ok v) → Scans 0 [(0x2000, 4)] s t (bytesOf 4 v) []) ∧
    (s.frontRead 0 0x2000 4 = (t, .fault) → Scans 0 [(0x2000, 4)] s t (List.replicate 4 0) [0x2000]) :=
  ⟨fun h => ⟨t, [], [], ⟨rfl, rfl, rfl⟩, .inl ⟨v, h, by simp, rfl⟩⟩, fun h => ⟨t, [], [], ⟨rfl, rfl, rfl⟩, .inr ⟨h, by simp, by decide⟩⟩⟩

/-- The part while it does not run, with a warm start pending or done, with an image lost, with a RESYNC or a DEBUGRD that waits. -/
theorem witness_mgmt :
    let r := State.reset
    let m (f : Mgmt → Mgmt) : State := { r with mgmt := f r.mgmt }
    let idle (s : State) : Bool := !s.mgmt.go && s.mgmt.resync.isNone && !s.mgmt.debugging
    let going (p : Bool) : State := m fun x => { x with go := true, warmPending := p }
    let waiting : State := m fun x => { x with go := true, warmPending := true, resync := some 0x1000 }
    let halted : State := at_ (.nop (E 0 0 0)) fun x => { x with halted := true }
    (idle r && r.mgmt.phase = .running && !r.mgmt.warmPending && r.mgmt.retained && !r.mgmt.imageBad && r.killAll.cleanAll.2 && (going true).cleanAll.2 &&
     (going false).mgmt.go && !(going false).mgmt.warmPending && !(m fun x => { x with retained := false }).mgmt.retained &&
     (m fun x => { x with imageBad := true }).mgmt.imageBad && idle (m fun x => { x with phase := .awaitFirmware }) &&
     waiting.mgmt.resync.isSome && waiting.cleanAll.2 && (waiting.mgmt.warmPending && (m fun x => { x with resync := some 0x1000 }).mgmt.resync.isSome) &&
     !imageVerifies ((r.dmaSnoop (hostPa 0x1000) (2 ^ 20) 1).hostImage 0x1000) &&
     (match r.debugRead 0 0 with | (_, .fault) => true | _ => false) && (match halted.debugRead 0 0 with | (_, .ok _) => true | _ => false) &&
     (match ({ r with hostHalf := [(0x80, 2)] } : State).debugRead 1 0x2000 with | (_, .wait) => true | _ => false) &&
     (halted.debugWarp 0 0 0).any fun w => !w.2) = true := by decide +kernel

/-- A DEBUGRD of a warp's state leaves the mailbox as it is. -/
theorem witness_debugRead (s : State) : (s.debugRead 0 0).1.mgmt = s.mgmt := by
  simp only [State.debugRead]
  cases h : s.debugWarp 0 0 0 <;> simp [h]

/-- A start done, with an identity. -/
theorem witness_identity (k : Identity) : ∃ s : State, s.started = true ∧ s.mgmt.identity = some k ∧ s.mgmt.resync = none ∧ s.mgmt.go = false :=
  ⟨{ State.reset with mgmt := { State.reset.mgmt with identity := some k } }, rfl, rfl, rfl, rfl⟩

/-- The firmware clauses' condition holds of an image that is formed, new and signed. -/
theorem witness_firmware (image : Memory) (ok : imageOk image = true) (new : Config.fusedMinSvn ≤ image.readNat 8 4)
    (signed : Mldsa.verify Config.bootKey (leBytes 64 (imageMeasure image).toNat) (image.bytes 64 4627) = true) : imageVerifies image = true := by
  simp [imageVerifies, ok, new, signed]

/-- Every condition of the step's statement, for the placed NOP as a first and as a second pick. -/
theorem witness_step :
    let s := State.reset.placeProgram (encodeBits (.nop (E 0 0 0)))
    let t : State := { s.modWarp 1 (fun x => { x with splits := x.splits ++ x.splits.map fun p => (1, { p.2 with mask := 0xFFFF0000 }) }) with
      picked := some { warp := 1, entry := 0, core := 0, part := 0, units := [.pipeA], reads := [], g := [], before := 0 } }
    (([(.issue 1 0, s), (.second 1 1, t)] : List (Act × State)).all fun (act, s) =>
      let s0 : State := ({ s with agenda := [] } : State).watch.tick
      let k := if act = .issue 1 0 then 0 else 1
      (s0.warp? 1).any fun x => (x.split? k).any fun sp =>
        (if act = .issue 1 0 then x.runs && sp.pickable && !s0.layerAsleep x && !s0.olderReady x.core x.part sp.age else s0.secondPick = some (1, 1)) &&
        x.codeCtx ≠ physCtx && canonical sp.pc && sp.xfails.isEmpty && sp.pc.toNat % 4 = 0 &&
        (let s1 : State := { s0 with asker := 1, picked := none }
         match s1.lookFetch x.core x.codeCtx sp.pc.toNat with
         | (s2, some e) => pteBit e.leaf 3 && (2 ≤ sp.level || pteBit e.leaf 4) && (s2.fetchKey e sp.pc.toNat).any fun key =>
           !(s2.core x.core).ibad.contains key && (Tab.get? (s2.core x.core).icache key).any fun d =>
             (match scanBlock (blockWord d sp.pc.toNat) (sp.pc.toNat % 32 / 4) 0 9 with | .start => true | _ => false) &&
             (match decode ((List.range (128 - sp.pc.toNat % 128)).map fun n => lineByte d (sp.pc.toNat % 128 + n)) with | .ok (.nop _, _) => true | _ => false)
         | _ => false)) = true ∧ s.agenda = [.issue 1 0] ∧ t.ckStart 1 ≠ none := by decide +kernel

/-- With nothing on the agenda the placed warp's split is what moves, and its second split after it; an issue that may not be picked. -/
theorem witness_pick :
    let s : State := { State.reset.placeProgram (encodeBits (.nop (E 0 0 0))) with agenda := [] }
    let both : State := s.modWarp 1 fun x => { x with splits := x.splits ++ x.splits.map fun p => (1, { p.2 with mask := 0xFFFF0000, age := p.2.age + 1 }) }
    let t : State := { both with picked := some { warp := 1, entry := 0, core := 0, part := 0, units := [.pipeA], reads := [], g := [], before := 0 }, free := 1 }
    s.nextAct.1 = some (.issue 1 0) ∧ t.nextAct.1 = some (.second 1 1) ∧
      ((({ both with agenda := [.issue 1 1] } : State).watch.tick.warp? 1).any fun x => (x.split? 1).any fun sp =>
        ({ both with agenda := [] } : State).watch.tick.olderReady x.core x.part sp.age) = true := by decide +kernel

theorem witness_form : State.reset.memoryForm = true ∧ (at_ (.nop (E 0 0 0))).memoryForm = true := by decide +kernel

/-! ### Decoding and well-formedness -/

/-- Words of encoding examples decode to their instructions (07 R170, R176, 09 R210, 12 R286, 19 R430, 11 R249, R260, 19 R432, 20 R445, 21 R466). -/
theorem test_words : ([
    (96, 0xA30F800090F87A1E0749, .loop (encOf 1 0 0 0x10f 0 0x10f 0x10f 0x40004 0x10f 0x51 0)),
    (96, 0x410F000030F87A1E0775, .ipref (encOf 1 1 0 0x10f 0 0x10f 0x10f 1 0x10f 0x20 0)),
    (64, 0x354A921F38C0, .str (encOf 0 0 0x13 0x10f 0 0x152 0x154 1 0 0 0)),
    (64, 0xA20402087A1E0C2C, .mdrain (encOf 0 1 0 0x10f 0 0x10f 0x20 0x51020 0 0 0)),
    (64, 0x220A10F87A1E0C34, .mbyp (encOf 0 1 0 0x10f 0 0x10f 0x10f 0x11050 0 0 0)),
    (64, 0x10F87A1E0E14, .sret (encOf 0 1 0 0x10f 0 0x10f 0x10f 0 0 0 0)),
    (64, 0x86186160C0340B04, .atom (encOf 0 1 0 0x1a 0 0x18 0x16 0x430c3 0 0 0)),
    (64, 0x1187800F0440B44, .waitmon (encOf 0 1 0 0x22 0 0x1e 0x180 0x8c3 0 0 0)),
    (64, 0x10F080280E24, .tlbfill (encOf 0 1 0 0x14 0 0x10 0x10f 0 0 0 0)),
    (64, 0x12080280E44, .handover (encOf 0 1 0 0x14 0 0x10 0x12 0 0 0 0)),
    (64, 0x10F0C0280E54, .crdef (encOf 0 1 0 0x14 0 0x18 0x10f 0 0 0 0))] : List (Nat × Nat × Instr)).all
    (fun p => decodeTableWord p.1 p.2.1 = some p.2.2) = true := by decide +kernel

/-- One ill-formed instruction for each check of 02 R69 that well-formedness makes. -/
theorem test_illFormed :
    (Instr.iadd (E 1 0 0 4 8 6 0)).illFormed = some .badLengthOrU ∧ (Instr.iadd (E 0 0 0 4 8 6)).illFormed = some .badLengthOrU ∧ (Instr.iadd (E 0 0 0x40 4 8 6 0)).illFormed = some .reservedField ∧
    (Instr.iadd (E 0 0 0 4 8 0x139 0)).illFormed = some (.operand 3 .specifier) ∧ (Instr.iadd64 (E 0 0 2 4 9 6 0)).illFormed = some (.operand 2 .specifier) ∧
    (Instr.reservedOpcode 0x003 (E 0 0 0 0 0 0 0)).illFormed = some .notReserved ∧ Instr.coldStart.illFormed = some .event ∧
    (Instr.iadd (E 0 0 0 4 8 6 0)).illFormed = none := by decide +kernel

/-! ### Values that the spec's examples state -/

/-- FFMA rounds once (05 R119): 0x3F800800 squared less 1 - 2^-23's neighbour 0xBF801000 is 2^-24 exactly, and raises no flag. -/
theorem test_ffma : let r := rowFma 0 [Fmt.f32.value 0x3F800800, Fmt.f32.value 0x3F800800, Fmt.f32.value 0xBF801000]
    roundTo .f32 r.1 0 false false = (0x33800000, 0) ∧ r.2 = 0 := by decide +kernel

/-- 70,000 to f16 with and without .sat (05 R127). -/
theorem test_i2f : (roundTo .f16 (Sys2Proof.Machine.Num.ofInt 70000 0 false) 0 false true).1 = 0x7BFF ∧ (roundTo .f16 (Sys2Proof.Machine.Num.ofInt 70000 0 false) 0 false false).1 = 0x7C00 := by
  decide +kernel

/-- The placed instruction runs as the first after reset, and its split goes on. -/
theorem test_firstStep : (match step (State.reset.withFetchWord 64 (encodeBits (.iadd (E 0 0 0 4 0x183 0x184))).toNat) with
    | .next t => ((t.warp? 1).any fun x => x.getReg (.v 4) 3 = 7 && (x.split? 0).any fun sp => sp.pc = 0x1008)
    | _ => false) = true := by decide +kernel

/-- SHAKE256 of the empty message, first bytes, as FIPS 202's own test values have them. -/
theorem test_shake : (Keccak.shake256 [] 4) = [0x46, 0xB9, 0xDD, 0x2B] := by decide +kernel

/-- Three conversions from f32 to e4m3 under rne, and the tie 464.0 (the example after 01 R38). -/
theorem test_e4m3 : ([(0x43960000, false, (0x79, flagNX)), (0x43EB0000, false, (0x7F, flagOF ||| flagNX)), (0x43EB0000, true, (0x7E, flagOF ||| flagNX)),
    (0x43E80000, false, (0x7E, flagNX))] : List (Nat × Bool × Nat × FpFlags)).all
      (fun p => roundTo (fmtOf 8) (Fmt.f32.value p.1) 0 false p.2.1 = p.2.2) = true := by decide +kernel

/-- One group of sixteen f16 products, 2^24 and fifteen ones, is summed before it is rounded (the example after 01 R43). -/
theorem test_exactSum : accumulate 0 5 5 0 16 (fun k => some (if k = 0 then 0x6C00 else 0x3C00)) (fun k => if k = 0 then 0x6C00 else 0x3C00)
    (fun _ => 127) (fun _ => 127) = 0x4B800008 := by decide +kernel

/-- Coverage of pixel (2, 3) by two triangles that share an edge, four samples (the example of 17 R381). -/
theorem test_coverage : let p : Pass := { rasterPass with rbytes := [(1, 2), (36, 16), (38, 16)] }
    p.cover 16 0 0 2 3 { prim0 with xs := [0, 608, 608], ys := [512, 512, 1536] } = 0x04 ∧
      p.cover 16 0 0 2 3 { prim0 with xs := [608, 1536, 608], ys := [512, 512, 1536] } = 0x0B := by decide +kernel

/-- Tiles read through a half-scale edge with a one-tile halo in skip mode (the example of 16 R361). -/
theorem test_edge : let g : Graph := { unloaded with ress := [{ image with format := 8, width := 96, height := 32 }] }
    let e : EdgeRec := { res := 0, nx := 2, dx := 1, ny := 2, dy := 1, dx0 := 0, dx1 := 1, dy0 := 0, dy1 := 0, skip := true }
    g.footprint e 0 0 = [0, 1, 2, 6, 7, 8] ∧ g.footprint e 1 0 = [2, 3, 4, 8, 9, 10] ∧ g.footprint e 2 0 = [4, 5, 10, 11] := by decide +kernel

/-- The stored block of 21's example, 4 by 4 doubles with a NaN. -/
def block0 : List Nat :=
  ([0x3FF00000, 0x3FF40000, 0x3FF80000, 0x3FFC0000, 0x3FF80000, 0x3FFC0000, 0x40000000, 0x40020000,
    0x40000000, 0x40020000, 0x40040000, 0x40060000, 0x40040000, 0x40060000, 0x40080000, 0x7FF80000] : List Nat).map fun x => x * 2 ^ 32

/-- Its encoding at 8 bits a value, and what that decodes to (21's example). -/
theorem test_electrum : elEncode block0 8 = 0x026429B628060002297B00000003B801 ∧
    elDecode 0x026429B628060002297B00000003B801 8 = some
      (([0x3FEE0000, 0x3FF30000, 0x3FF50000, 0x3FF90000, 0x3FF70000, 0x3FFB0000, 0x3FFD0000, 0x40008000,
        0x3FFD0000, 0x40008000, 0x40018000, 0x40038000, 0x40028000, 0x40048000, 0x40058000, 0x7FF80000] : List Nat).map fun x => x * 2 ^ 32) := by decide +kernel

/-- A step of an instruction in that state, and what it leaves in the warp. -/
def after (i : Instr) (p : Warp → Bool) (warp : Warp → Warp := id) (part : State → State := id) : Bool :=
  match exec i (at_ i warp part) with | .next t => (t.warp? 1).any p | _ => false

/-- The keys of lanes 0, 2, 3, 5, 6 and 7 in v3 (04's sorting example). -/
def keys (x : Warp) : Warp := { split (fun q => { q with mask := 0xED }) x with
  v := ([(0, 7), (2, 3), (3, 7), (5, 1), (6, 3), (7, 9)] : List (Nat × Nat)).foldl (fun v p => Store.set v (laneKey 3 p.1) (BitVec.ofNat 32 p.2)) x.v }

/-- MATCH, KSORT and SCANW of 04's example: lanes of equal keys, the sorted pair of lane 2, the exclusive prefix of lane 5. -/
theorem test_sorting : after (.matchLanes (E 0 0 0 10 3)) (fun x => x.getReg (.v 10) 0 = 9 && x.getReg (.v 10) 2 = 0x44 && x.getReg (.v 10) 5 = 0x20) keys = true ∧
    after (.ksort (E 0 0 1 12 3 0x10C)) (fun x => x.getReg (.v 12) 2 = 3 && x.getReg (.v 13) 2 = 2 && x.getReg (.v 12) 5 = 7 && x.getReg (.v 13) 5 = 0) keys = true ∧
    after (.scanw (E 0 0 0x81 0x154 3)) (fun x => x.gReg 20 = 30 && (x.split? 0).any fun sp => Store.get sp.latches.data (laneKey 0 5) = 17) keys = true := by
  decide +kernel

end Sys2Proof.Tests
end

section
/-!
The signs of exact results (01 R31): of an integer as a value, of exact sums and products, of 1 / x, and of a zero that is rounded.
-/
namespace Sys2Proof.Machine

/-- A finite value is a zero exactly where its significand is 0, whatever its sign and exponent. -/
@[simp] theorem Num.isZero_fin (n : Bool) (m : Nat) (e : Int) : (Num.fin n m e).isZero = decide (m = 0) := by
  cases m <;> simp [Num.isZero]

/-- Only the integer 0 gives a zero, and that zero takes the sign asked for. -/
theorem Num.neg_ofInt_of_isZero {i e : Int} {zneg : Bool} (h : (Num.ofInt i e zneg).isZero = true) :
    (Num.ofInt i e zneg).neg = zneg := by
  by_cases hi : i = 0
  · simp [Num.ofInt, hi, Num.neg]
  · simp [Num.ofInt, hi] at h

/-- A sum of two finite terms, the first not zero, is an integer on a common exponent; were it 0, its sign would be the rounding mode's. -/
theorem sumAll_fin_of_ne_zero (mode : Nat) (n k : Bool) {m : Nat} (p : Nat) (x y : Int) (hm : m ≠ 0) :
    ∃ s q, sumAll mode [.fin n m x, .fin k p y] = Num.ofInt s q (decide (mode = 3)) :=
  ⟨_, _, by simp [sumAll, Num.isNan, Num.isInf, hm]; rfl⟩

/-- Two zeros of one sign sum to a zero of that sign under every mode. -/
theorem sumAll_like_zeros (mode : Nat) (n : Bool) (x y : Int) :
    sumAll mode [.fin n 0 x, .fin n 0 y] = .fin n 0 0 := by
  cases n <;> simp [sumAll, Num.isNan, Num.isInf, Num.neg, Num.ofInt]

/-- Infinity times y, where that is no NaN: y is then neither a NaN nor a zero. -/
theorem Num.neg_inf_mul {a : Bool} {y : Num} (h : ((Num.inf a).mul y).isNan = false) :
    ((Num.inf a).mul y).neg = (a != y.neg) := by
  cases y with
  | nan b => simp [Num.mul, Num.isNan] at h
  | inf b => rfl
  | fin b n d =>
    have hn : n ≠ 0 := fun h0 => by simp [Num.mul, h0, Num.isNan] at h
    simp [Num.mul, hn, Num.neg]

/-- A finite value times y, where that is no NaN. -/
theorem Num.neg_fin_mul {a : Bool} {m : Nat} {e : Int} {y : Num} (h : ((Num.fin a m e).mul y).isNan = false) :
    ((Num.fin a m e).mul y).neg = (a != y.neg) := by
  cases y with
  | nan b => simp [Num.mul, Num.isNan] at h
  | inf b =>
    have hm : m ≠ 0 := fun h0 => by simp [Num.mul, h0, Num.isNan] at h
    simp [Num.mul, hm, Num.neg]
  | fin b n d => rfl

/-- A product that is a number has the exclusive-or of its operands' signs. -/
theorem Num.neg_mul {x y : Num} (h : (x.mul y).isNan = false) : (x.mul y).neg = (x.neg != y.neg) := by
  cases x with
  | nan b => simp [Num.mul, Num.isNan] at h
  | inf a => exact Num.neg_inf_mul h
  | fin a m e => exact Num.neg_fin_mul h

/-- The bit that stands for a quotient's remainder leaves the sign. -/
@[simp] theorem neg_sticky (neg : Bool) (q : Nat) (e : Int) (exact : Bool) : (sticky neg q e exact).neg = neg := by
  cases exact <;> rfl

/-- 1 / x has the sign of x: infinity gives a zero, a zero gives infinity, and any other number its quotient. -/
theorem neg_fnRcp {x : Num} (h : x.isNan = false) : (fnRcp x).1.neg = x.neg := by
  cases x with
  | nan b => cases h
  | inf n => rfl
  | fin n m e =>
    by_cases hm : m = 0
    · simp [fnRcp, hm, Num.neg]
    · calc (fnRcp (.fin n m e)).1.neg = (recip n m e).neg := by simp [fnRcp, hm]
        _ = n := neg_sticky ..

/-- Rounding a zero gives the format's zero of that sign, with no flag. -/
@[simp] theorem roundTo_zero (f : Fmt) (n : Bool) (x : Int) (mode : Nat) (ftz sat : Bool) :
    roundTo f (.fin n 0 x) mode ftz sat = (f.signed n 0, 0) := rfl

/-- Settles O7: a zero sum's sign from the integer it is, products and 1 / x by the kinds of their operands. -/
theorem zeroSigns : Obligations.ZeroSigns := by
  refine ⟨fun mode n m x k p y hm _ hz => ?_, fun mode n x y => .inl (sumAll_like_zeros mode n x y), fun _ _ => Num.neg_mul,
    fun _ => neg_fnRcp, roundTo_zero⟩
  obtain ⟨s, q, hs⟩ := sumAll_fin_of_ne_zero mode n k p x y hm
  rw [hs] at hz ⊢
  exact Num.neg_ofInt_of_isZero hz

end Sys2Proof.Machine
end

section
/-!
The reserved opcodes (02 R66): which words decode to one, and the trap it takes at either pick of a ck.
-/
namespace Sys2Proof

/-- Bits [11:3] of word 0 lie in the shortest length there is, so every LEN keeps the opcode. -/
theorem extractOp_trimBits (v : Bits128) : (trimBits v).extractLsb' 3 9 = v.extractLsb' 3 9 := by
  have mask (n : Nat) (hn : 12 ≤ n) : (v &&& BitVec.ofNat 128 (2 ^ n - 1)).extractLsb' 3 9 = v.extractLsb' 3 9 := by
    ext i hi
    have hin : 3 + i < n := by omega
    have hi128 : 3 + i < 128 := by omega
    simp [← BitVec.getLsbD_eq_getElem, BitVec.getLsbD_ofNat, hin, hi128]
  have hlen : 4 ≤ lenBytes (v.extractLsb' 0 2) := by
    unfold lenBytes
    repeat' split
    all_goals decide
  simp only [trimBits]
  split
  · rfl
  · exact mask _ (by omega)

/-- Every row of the opcode map builds an instruction with a form. -/
theorem form?_isSome_of_mem_opTable {r : Nat × (Enc → Instr)} (hr : r ∈ opTable) (e : Enc) : (r.2 e).form?.isSome = true := by
  have part1 : opRows1.all (fun r => (r.2 e).form?.isSome) = true := rfl
  have part2 : opRows2.all (fun r => (r.2 e).form?.isSome) = true := rfl
  have part3 : opRows3.all (fun r => (r.2 e).form?.isSome) = true := rfl
  have part4 : opRows4.all (fun r => (r.2 e).form?.isSome) = true := rfl
  have byF : opRowsF.all (fun r => (r.2 e).form?.isSome) = true := by
    simp only [opRowsF, List.all_cons, List.all_nil]
    repeat' split
    all_goals rfl
  have all : opTable.all (fun r => (r.2 e).form?.isSome) = true := by
    simp only [opTable, List.all_append, part1, part2, part3, part4, byF, Bool.and_self]
  exact List.all_eq_true.mp all r hr

/-- An opcode names the reserved-opcode instruction exactly where no row of the opcode map has it. -/
theorem instrOf_eq_reservedOpcode_iff (op : BitVec 9) (e : Enc) :
    (∃ x, instrOf op e = .reservedOpcode op x) ↔ opUnassigned op = true := by
  unfold instrOf opUnassigned
  cases hf : opTable.find? (fun r => r.1 == op.toNat) with
  | none => simp
  | some r =>
    have hform := form?_isSome_of_mem_opTable (List.mem_of_find?_eq_some hf) e
    simp only [Option.isNone_some, Bool.false_eq_true, iff_false]
    rintro ⟨x, hx⟩
    rw [hx] at hform
    cases hform

/-- The opcode values that R66 lists. -/
def reservedOps : List (BitVec 9) :=
  ([(0x022, 0x03F), (0x047, 0x05F), (0x070, 0x077), (0x07F, 0x08F), (0x09A, 0x0BF), (0x0C6, 0x0DF), (0x0F1, 0x10F),
    (0x11C, 0x13F), (0x147, 0x15F), (0x16A, 0x17F), (0x189, 0x19F), (0x1AC, 0x1BF), (0x1D2, 0x1FF)] : List (Nat × Nat)).flatMap
    fun r => (List.range (r.2 - r.1 + 1)).map fun n => BitVec.ofNat 9 (r.1 + n)

/-- The opcode map leaves out exactly the values that R66 lists. -/
theorem mem_reservedOps_iff : ∀ op : BitVec 9, op ∈ reservedOps ↔ opUnassigned op = true := by decide +kernel

/-- The first clause of O8: a word, of any LEN, decodes to the reserved-opcode instruction exactly where R66 lists its opcode. -/
theorem mem_reservedOps_iff_decodeRaw (v : Bits128) :
    v.extractLsb' 3 9 ∈ reservedOps ↔ ∃ e, decodeRaw v = .reservedOpcode (v.extractLsb' 3 9) e := by
  have hop : (unpack (trimBits v)).1 = v.extractLsb' 3 9 := extractOp_trimBits v
  rw [mem_reservedOps_iff, decodeRaw, hop, instrOf_eq_reservedOpcode_iff]

end Sys2Proof

namespace Sys2Proof.Machine

/-- A split that a state names as issuing has an issue for every form and fields. -/
theorem State.exists_issue? {s : State} {u : Cur} (hu : s.cur = some u)
    (hs : ((s.warp? u.warp).bind fun w => w.split? u.entry).isSome = true) (f : Form) (e : Enc) : ∃ c, s.issue? f e = some c := by
  obtain ⟨sp, hsp⟩ := Option.isSome_iff_exists.mp hs
  obtain ⟨w, hw, hsp⟩ := Option.bind_eq_some_iff.mp hsp
  simp [State.issue?, hu, hw, hsp]

/-- The second clause of O8 as R66 says it: at either pick of a ck, a reserved opcode takes illegal instruction, sub-cause reserved
opcode. The issue reads g as the pick does (02 R57). -/
theorem exec_reservedOpcode_traps (op : BitVec 9) (e : Enc) {s : State} {u : Cur} (hu : s.cur = some u)
    (hs : ((s.warp? u.warp).bind fun w => w.split? u.entry).isSome = true) :
    ∃ c : Issue, c.e = e ∧ (c.w = u.warp ∧ c.k = u.entry) ∧ s.warp? c.w = some (c.now s) ∧ c.warp = { c.now s with g := c.warp.g } ∧
      c.warp.split? c.k = some c.sp ∧
      exec (.reservedOpcode op e) s = .next (c.trap (c.begin s) { cause := 0x01, sub := 0x01 }) := by
  obtain ⟨c, hc⟩ := State.exists_issue? hu hs
    { op := op.toNat, fields := fun _ => true, roles := fun _ => { d := .raw, a := .raw, b := .raw, c := .raw } } e
  obtain ⟨hw, hnow, hsp, he, -, -, u', hu', hcw, hck⟩ := State.issue?_some hc
  obtain rfl : u = u' := Option.some.inj (hu.symm.trans hu')
  have hwarp : c.warp = { c.now s with g := c.warp.g } := by rw [hnow]
  exact ⟨c, he, ⟨hcw.symm, hck.symm⟩, hw, hwarp, hsp, by simp [execReservedOpcode, hc, illegal]⟩

/-- Fields all 0: a 64-bit instruction, one lane each. -/
def zeroFields : Enc := { len := 0, u := 0, pred := 0, d := 0, w := 0, a := 0, b := 0, f := 0, c := 0, x := 0, k := 0 }

/-- The state in which the split of a placed program executes opcode 0x022 as the second pick of its ck, its issue prepared by the model
itself: with g as it stood at the start of the ck (02 R57), all 0. -/
def reservedAtSecondPick : State :=
  ((State.reset.placeProgram (pack 0x022 zeroFields)).prepare 1 0 (some [])).1

/-- The model has the reserved opcode execute in that state. -/
theorem prepare_reservedAtSecondPick :
    ((State.reset.placeProgram (pack 0x022 zeroFields)).prepare 1 0 (some [])).2.map (·.1) =
      some (.reservedOpcode 0x022 zeroFields) := by decide +kernel

theorem reservedAtSecondPick_cur : reservedAtSecondPick.cur = some { warp := 1, entry := 0, g := some [] } := by decide +kernel

theorem reservedAtSecondPick_split :
    ((reservedAtSecondPick.warp? 1).bind fun w => w.split? 0).isSome = true := by decide +kernel

/-- Refutes O8: its second clause gives the issuing split as `{ warp := c.w, entry := c.k }`, which has no g of the start of the ck, as only
a first pick's has none; of a second pick it is false, though the trap is the same there (`exec_reservedOpcode_traps`). The first clause
holds (`mem_reservedOps_iff_decodeRaw`). -/
theorem not_reservedOpcodesTrap : ¬ Obligations.ReservedOpcodesTrap := by
  unfold Obligations.ReservedOpcodesTrap
  intro h
  obtain ⟨-, traps⟩ := h 0x022 (pack 0x022 zeroFields)
  have hsome : reservedAtSecondPick.cur.isSome = true := by rw [reservedAtSecondPick_cur]; rfl
  have hsplit (u : Cur) (hu : reservedAtSecondPick.cur = some u) :
      ((reservedAtSecondPick.warp? u.warp).bind fun w => w.split? u.entry).isSome = true := by
    obtain rfl := Option.some.inj (reservedAtSecondPick_cur.symm.trans hu)
    exact reservedAtSecondPick_split
  obtain ⟨c, -, -, -, hcur, -⟩ := traps zeroFields reservedAtSecondPick hsome hsplit
  rw [reservedAtSecondPick_cur] at hcur
  simp at hcur

end Sys2Proof.Machine
end

section
/-!
The control-flow instructions that may not stand at the END of an active level (07 R163): which they are, and the trap they take there.
-/
namespace Sys2Proof

/-- The instructions of R163's list, with fields e. -/
def barredAtEnd (e : Enc) : List Instr :=
  [.bra e, .brx e, .switch e, .call e, .callx e, .ret e, .yields e, .loop e, .loopp e]

theorem mem_barredAtEnd {i : Instr} {e : Enc} : i ∈ barredAtEnd e ↔ i = .bra e ∨ i = .brx e ∨ i = .switch e ∨ i = .call e ∨
    i = .callx e ∨ i = .ret e ∨ i = .yields e ∨ i = .loop e ∨ i = .loopp e := by
  simp [barredAtEnd]

/-- The form of an instruction bars it from a loop's END exactly where R163 lists it. -/
theorem badEnd_iff_mem_barredAtEnd {i : Instr} {f : Form} {e : Enc} (h : i.form? = some (f, e)) :
    f.badEnd = true ↔ i ∈ barredAtEnd e := by
  constructor
  · intro hb
    cases i
    case bra | brx | switch | call | callx | ret | yields | loop | loopp => cases h; simp [mem_barredAtEnd]
    -- An event has no form; the form of any other instruction does not have the check.
    all_goals cases h
    all_goals cases hb
  · intro hi
    rcases mem_barredAtEnd.mp hi with rfl | rfl | rfl | rfl | rfl | rfl | rfl | rfl | rfl
    all_goals cases h; rfl

end Sys2Proof

namespace Sys2Proof.Machine

/-- An instruction of R163's list that fails a check takes that check's trap. -/
theorem exec_traps_of_mem_barredAtEnd {i : Instr} {f : Form} {e : Enc} (h : i.form? = some (f, e)) (hi : i ∈ barredAtEnd e)
    {s : State} {c : Issue} {t : Trap} (hc : s.issue? f e = some c) (hp : c.precheck = some t) :
    exec i s = .next (c.trap (c.begin s) t) := by
  rcases mem_barredAtEnd.mp hi with rfl | rfl | rfl | rfl | rfl | rfl | rfl | rfl | rfl
  all_goals
    cases h
    simp [execBra, execBrx, execSwitch, execCall, execCallx, execRet, execYields, execLoop, execLoopp, runIsa_trap hc hp]

/-- An instruction is at an end where a level active at its split's depth stops at its address. -/
theorem Issue.atEnd_iff (c : Issue) :
    c.atEnd = true ↔ ∃ l ∈ c.sp.frame.loops, l.depth = c.sp.frame.depth ∧ l.stop = c.sp.pc := by
  simp [Issue.atEnd]

/-- The last check (assumption 128): where steps 4 to 9 of 02 R69 pass and no operand is poisoned, only the end of a level bars the instruction. -/
theorem Issue.precheck_of_earlier_passed {c : Issue} (lenU : c.f.lenU c.e = true) (level : c.privileged = false)
    (fields : c.f.fieldsOk c.e = true) (word : c.wordBeyond = false) (operands : c.f.operands c.e c.warp.vregs = none)
    (pipe : ¬ (8 ≤ c.e.pred.toNat ∧ c.e.pred.toNat < 16 ∧ c.sp.frame.pipe.isNone)) (latch : c.staleLatch = none)
    (poison : c.poisoned = none) :
    c.precheck = if c.f.badEnd && c.atEnd then some { cause := 0x0B, sub := 0x08 } else none := by
  rw [Issue.precheck, operands, if_neg pipe, latch, poison]
  simp only [lenU, level, fields, word, Bool.not_true, Bool.or_self, Bool.false_eq_true, if_false]

/-- Settles O11: the forms with the check are those of the list, and it is the only check that still fails. -/
theorem badEndTraps : Obligations.BadEndTraps := by
  refine ⟨fun i f e hi => badEnd_iff_mem_barredAtEnd hi,
    fun i f e hi s c hc hb atEnd lenU level fields word operands pipe latch poison => ?_⟩
  obtain ⟨-, -, -, rfl, rfl, -⟩ := State.issue?_some hc
  have checked : c.precheck = some { cause := 0x0B, sub := 0x08 } := by
    rw [Issue.precheck_of_earlier_passed lenU level fields word operands pipe latch poison, hb, c.atEnd_iff.mpr atEnd]
    rfl
  exact exec_traps_of_mem_barredAtEnd hi ((badEnd_iff_mem_barredAtEnd hi).mp hb) hc checked

end Sys2Proof.Machine
end
